-- ==== Sys2Proof/Word.lean ====
section
/-!
DEFINITION. The words of the node: bytes, the 16-bit addresses and sequence numbers of Spanline, the
48-bit wall time of R5 and the 64-bit words of the strings. Everything else about them (byte order,
bit fields, rounding) stands in Sys2Proof/Machine/Bits.lean.
-/
namespace Sys2Proof

/-- One byte of a frame, an image, a register or the NV store. -/
abbrev Byte := BitVec 8

/-- A Spanline address or sequence number, or a 16-bit level. -/
abbrev W16 := BitVec 16

/-- A 32-bit field: a duration, a period, a counter. -/
abbrev W32 := BitVec 32

/-- Wall time, 48 bits (R5). -/
abbrev W48 := BitVec 48

/-- A side word, an identity word, a UID or a nonce. -/
abbrev W64 := BitVec 64

/-- A status word of the tail (R248). -/
abbrev W12 := BitVec 12

/-- One of the four string ports S0 to S3. -/
abbrev Port := Fin 4

end Sys2Proof
end

