-- ==== Sys2Proof/Syntax.lean ====
section
/-!
DEFINITION. The commands of the block: one constructor of `Instr` for each row of
spec/opcode_table.json, in the table's order. The 74 verbs carry the clause that delivers them (`Req`)
and their arguments as the verb references of the spec lay them out. The 101 events carry the time that
has passed since the command before them, in picoseconds, and what the outside brings with the event.
-/
namespace Sys2Proof

/-- The mailbox that delivered a clause (R10, R173). -/
inductive Mailbox
  | span
  | svc
  deriving DecidableEq, Repr

/-- The row of Table 5-6 under which a frame matched; a service image counts as individual. -/
inductive MatchKind
  | individual
  | broadcast
  | group
  | unaddressed
  deriving DecidableEq, Repr

/-- The clause a verb stands in: its mailbox, header fields and timing (R145, R175, R12). -/
structure Req where
  /-- The mailbox the reply goes back to (R178). -/
  mbox : Mailbox
  /-- DST as the frame or image carried it; part of the tag's message (R447). -/
  dst : W16
  /-- SRC of the frame or image. -/
  src : W16
  /-- SEQ of the clause; 0x0000 is unsequenced (R184). -/
  seq : W16
  /-- How the frame matched (R135). -/
  kind : MatchKind
  /-- Header bit b6 (R175): no reply of any kind. -/
  noreply : Bool
  /-- Header bit b5, and the tag was accepted under R448. -/
  auth : Bool
  /-- Apply-at WT, where header bit b7 TIMED is set. -/
  applyAt : Option W48
  /-- WT at the SYNC start edge (R12); for a service clause the WT at take-up (R448). -/
  stamp : W48
  /-- Refined rate of the frame in bit/s (R131); 0 for a service clause. -/
  rate : Nat
  deriving DecidableEq, Repr

/-- What stands outside the part while it is reset and boots: strap and TEST levels 40 µs after the
release (R35, R38), the supplies, whether the LFXO has run for 2 s without a gap (R70), and how long the
boot takes from the release to Spanline-ready (Table 3-7 gives typical times only). -/
structure BootIn where
  /-- GP2 at the sample instant. -/
  gp2 : Bool
  /-- GP3 at the sample instant. -/
  gp3 : Bool
  /-- TEST at the sample instant. -/
  test : Bool
  /-- VIN in mV. -/
  vin : Nat
  /-- VIO in mV. -/
  vio : Nat
  /-- VRES in mV. -/
  vres : Nat
  /-- The LFXO has run for at least 2 s without a gap of 4 ms or more at step 3. -/
  lfxoOk : Bool
  /-- The lowest VIN, in mV, from step 5 until step 9 has completed (R88). -/
  vinMin : Nat
  /-- Ports on which SnO reads low 20 µs after the release of the reset pulse (step 12, R262). -/
  chains : BitVec 4
  /-- Picoseconds from the release of reset to step 15. -/
  took : Nat
  deriving DecidableEq, Repr

/-- A frame as the Spanline receiver framed it: the characters from DSTH on, and whether the next
character ended the frame with a framing or mark error (R126, R127). -/
structure RxFrame where
  /-- The rate measured on SYNC, bit/s, which classifies the frame (R130). -/
  sync : Nat
  /-- The refined rate, bit/s (R131). -/
  rate : Nat
  /-- Picoseconds since the falling edge of the SYNC start bit, where WT is captured (R12). -/
  ago : Nat
  /-- Data bytes from DSTH on. -/
  chars : List Byte
  /-- A framing error or a wrong mark bit ended the frame after these characters. -/
  broken : Bool
  deriving DecidableEq, Repr

/-- A character as the wake listener samples it, at 19 200 bit/s (R139). -/
structure WakeChar where
  /-- Data bits. -/
  value : Byte
  /-- Mark bit M. -/
  mark : Bool
  /-- Start and stop bit were sampled right (R126). -/
  framed : Bool
  /-- Picoseconds from the stop-bit sample of the character before it to its start bit; 0 for the first. -/
  gap : Nat
  deriving DecidableEq, Repr

/-- A frame on SnR, or a backward answer on SnO, as the port engine decodes it. -/
structure Return where
  /-- The 32 header bits (Table 9-4). -/
  header : W32
  /-- Tail words of a loop return or a STATUS answer, in line order. -/
  words : List W12
  /-- Identity words of an IDENT answer, in line order. -/
  idents : List W64
  /-- COUNT of a CENSUS answer. -/
  count : W16
  /-- CRC-8 received after COUNT. -/
  countCrc : Byte
  /-- TOL events of Table 9-2. -/
  tol : Nat
  /-- No code error, marks at allowed places, whole words, EOF high (R229, R232, R261). -/
  clean : Bool
  /-- Picoseconds since its first preamble transition (R261). -/
  began : Nat
  /-- Picoseconds since the end of its header (R261). -/
  headed : Nat
  deriving DecidableEq, Repr

/-- A slot: its channel values, channel 0 first, and its CRC-4 c0 to c3 (R238, R239). -/
structure Slot where
  /-- Values, as wide as FMT says. -/
  values : List W16
  /-- Bits c0 to c3 as bits 0 to 3. -/
  crc : BitVec 4
  deriving DecidableEq, Repr

/-- An input frame on S0R in relay mode (R286), decoded up to its end. -/
structure RelayIn where
  /-- The 32 header bits as received. -/
  header : W32
  /-- Line rate: 0 10, 1 20, 2 40 Mbit/s (Table 9-1). -/
  rate : Nat
  /-- Slots in order. -/
  slots : List Slot
  /-- COUNT and its CRC-8, in a CENSUS frame (R254). -/
  census : Option (W16 × Byte)
  /-- Tail words received. -/
  tail : List W12
  /-- TOL events of Table 9-2. -/
  tol : Nat
  /-- Slots that were complete when the ninth TOL event came; read only where there is one (R229). -/
  tolSlots : Nat
  /-- No code error, and violations only where SOF and TM may stand: else the frame was rejected after the elements given
  (R229, R232). -/
  clean : Bool
  deriving DecidableEq, Repr

/-- The commands, in the order of spec/opcode_table.json. `q` is the clause of a verb, `dt` the
picoseconds since the command before an event. -/
inductive Instr
  -- verbs I (14_verbs_control.md)
  | idRead (q : Req)
  | nodeStatus (q : Req)
  | nodeReset (q : Req) (mode confirm : Byte)
  | factoryReset (q : Req) (confirm : Byte)
  | nodeRest (q : Req) (mode keep : Byte) (hold : W16)
  | addrSet (q : Req) (addr : W16) (uid : W64)
  | addrClaim (q : Req) (value mask : W64) (spread : Byte)
  | groupSet (q : Req) (op : Byte) (map : BitVec 256)
  | groupRead (q : Req)
  | rollcall (q : Req) (base : W16) (count kind : Byte)
  | wink (q : Req) (seconds : W16) (ports : Byte)
  | timeKeystone (q : Req) (k : W48)
  | timeRead (q : Req)
  | frameRate (q : Req) (mode : Byte) (value : W16)
  | syncCfg (q : Req) (mode : Byte)
  | levelSet (q : Req) (zone mask : Byte) (level : W16)
  | fadeStart (q : Req) (zone mask flags : Byte) (start target : W16) (dur : W32) (curve : Byte)
  | fadeStop (q : Req) (zone mask : Byte)
  | effectSet (q : Req) (zone mask curve : Byte) (depth : W16) (period : W32)
  | effectClear (q : Req) (zone : Byte)
  | masterSet (q : Req) (flags : Byte) (start target : W16) (dur : W32) (curve : Byte)
  | outcurveSet (q : Req) (classes curve : Byte)
  | levelRead (q : Req) (zone : Byte)
  | sceneRecall (q : Req) (slot : Byte)
  | sceneCapture (q : Req) (slot zone : Byte) (deffade : W32)
  | sceneWrite (q : Req) (slot flags : Byte) (offset : W16) (deffade : W32) (records : List Byte)
  | sceneRead (q : Req) (slot : Byte) (offset : W16) (len : Byte)
  | sceneErase (q : Req) (slot : Byte)
  | sceneList (q : Req) (boot : Option Byte)
  -- verbs II (15_verbs_tables_strings.md)
  | deckWrite (q : Req) (first : W16) (entries : List Byte)
  | deckRead (q : Req) (bank : Byte) (first : W16) (count : Byte)
  | stageBegin (q : Req)
  | stageCommit (q : Req) (flags : Byte) (c : W48)
  | stageAbort (q : Req)
  | deckSave (q : Req)
  | deckLoad (q : Req) (first count : Byte)
  | curveWrite (q : Req) (id flags : Byte) (first : W16) (points : List W16)
  | curveRead (q : Req) (id : Byte) (first : W16) (count : Byte)
  | portCfg (q : Req) (port flags rate fmt : Byte) (n : W16) (interval : Byte)
  | portStatus (q : Req) (port : Byte)
  | portCensus (q : Req)
  | cellSidecfg (q : Req) (ports mode : Byte) (first last : W16) (wdog : Byte) (failsafe : W16)
      (cls : Byte) (poweron : W16)
  | cellIdent (q : Req) (port : Byte) (first : W16) (count : Byte)
  | portProbe (q : Req) (port kind : Byte)
  | relayCfg (q : Req) (mode : Byte) (hold : W16)
  | failSummary (q : Req)
  | failMap (q : Req) (page mode first count : Byte)
  | failNotify (q : Req) (args : Option (W16 × Byte × Byte × Byte × Byte))
  | counterRead (q : Req) (what : Byte) (first : W16) (count : Byte)
  | counterSave (q : Req) (flags period : Byte)
  | concealCfg (q : Req) (flags : Option Byte)
  | linkStats (q : Req) (mode : Byte)
  -- verbs III (16_verbs_system.md)
  | nvRead (q : Req) (addr : W32) (len : Byte)
  | nvWrite (q : Req) (addr : W32) (data : List Byte)
  | nvErase (q : Req) (sector : Byte)
  | nvProtect (q : Req) (v : Byte)
  | nvStatus (q : Req)
  | powerStatus (q : Req)
  | reserveCfg (q : Req) (mode present vchg ichg darkcut : Byte) (chold : W16)
  | harvestCfg (q : Req) (mode enable k period : Byte)
  | lampenSet (q : Req) (mode : Byte)
  | gpioCfg (q : Req) (pin mode init : Byte)
  | gpioRw (q : Req) (wmask wlevel : Byte)
  | tempRead (q : Req)
  | fwInfo (q : Req)
  | fwBegin (q : Req) (size : W32)
  | fwChunk (q : Req) (offset : W32) (data : List Byte)
  | fwFinish (q : Req)
  | fwActivate (q : Req) (mode : Byte)
  | secChallenge (q : Req)
  | secSetkey (q : Req) (form : Byte) (nonce : W64) (key : List Byte) (kcv : W32)
  | secLock (q : Req) (mode : Byte) (nonce : W64)
  | spanCfg (q : Req) (mode flags : Byte) (defrate : W32)
  | spanStatus (q : Req) (mode : Byte)
  -- Spanline and clauses (05 to 07)
  | spanlineFrameClose (dt : Nat) (f : RxFrame)
  | receiveTimeout (dt : Nat) (f : RxFrame)
  | clauseTakeUp (dt : Nat)
  | timedClauseDue (dt : Nat)
  | frameBoundary (dt : Nat)
  | syncEdge (dt : Nat)
  | syncHold (dt : Nat)
  | keystoneWindowExpiry (dt : Nat)
  | busIdle (dt : Nat) (lead : Option Nat)
  | arbitrationLoss (dt : Nat) (bit : Nat)
  | transmitFault (dt : Nat) (bit : Nat)
  | frameSent (dt : Nat)
  | wakeBandTraffic (dt : Nat) (rate : Nat) (dsth dstl : Byte)
  | wakeHoldoffExpiry (dt : Nat) (lead : Option Nat)
  | slotReplyStart (dt : Nat) (busy recessive edge : Bool)
  | lateWindowOpen (dt : Nat)
  | lateReplyHoldoff (dt : Nat)
  | lateReplyCancel (dt : Nat)
  | claimHoldoff (dt : Nat)
  -- power, wake and reset (03, 04)
  | restHoldExpiry (dt : Nat)
  | wakeFrame (dt : Nat) (chars : List WakeChar)
  | svcWake (dt : Nat) (rate : Nat)
  | keepBurst (dt : Nat)
  | shelfEntry (dt : Nat)
  | wrcStop (dt : Nat)
  | powerOn (dt : Nat) (b : BootIn)
  | resetPin (dt : Nat) (widthNs : Nat) (b : BootIn)
  | brownOut (dt : Nat) (vin vres : Nat) (b : BootIn)
  | watchdog (dt : Nat) (b : BootIn)
  | resetAfterReply (dt : Nat) (b : BootIn)
  | vinGood (dt : Nat) (b : BootIn)
  | save (dt : Nat) (vin vresLoaded : Nat)
  | saveComplete (dt : Nat) (b : BootIn)
  | holdoverVinGood (dt : Nat) (b : BootIn)
  | darkcutEntry (dt : Nat)
  | darkcutExit (dt : Nat) (vres : Nat) (b : BootIn)
  | keepalivePowerOnReset (dt : Nat) (vres : Nat)
  | overcurrent (dt : Nat)
  | hardDisconnect (dt : Nat) (vres : Nat)
  | chargeStateChange (dt : Nat) (vres : Nat) (tapered : Bool)
  | chargeTemperatureCheck (dt : Nat) (t8 : Int)
  | reserveTest (dt : Nat) (vresLoaded : Nat)
  | vioLow (dt : Nat) (vio : Nat)
  | vioGood (dt : Nat) (vio : Nat)
  | lfxoFailure (dt : Nat)
  | thermalUpdate (dt : Nat) (avg8 now8 : Int)
  | bandgapWindow (dt : Nat) (vin vres : Nat) (t8 : Int)
  | coldStart (dt : Nat) (vka : Nat)
  | coldStartEnd (dt : Nat) (vka : Nat)
  | vocSample (dt : Nat)
  | vocSampleEnd (dt : Nat) (voc : Nat)
  -- strings (09, 10)
  | loopReturn (dt : Nat) (port : Port) (r : Return)
  | returnDeadline (dt : Nat) (port : Port)
  | maintenanceStart (dt : Nat) (port : Port)
  | maintenanceForced (dt : Nat) (port : Port)
  | presenceSample (dt : Nat) (port : Port) (low : Bool)
  | backwardAnswer (dt : Nat) (port : Port) (r : Return)
  | answerTimeout (dt : Nat) (port : Port) (begun : Bool)
  | periodicProbe (dt : Nat)
  | readinessTimeout (dt : Nat) (port : Port)
  | lampenAssert (dt : Nat)
  | relayInputFrame (dt : Nat) (f : RelayIn)
  | relayInputLoss (dt : Nat)
  | relayKeep (dt : Nat)
  | relayHoldLimit (dt : Nat)
  -- counters and the NV store (12)
  | onTimeTick (dt : Nat)
  | powerOnTimeTick (dt : Nat)
  | periodicSave (dt : Nat)
  | counterBankErase (dt : Nat)
  | nvOperationStart (dt : Nat)
  | nvOperationComplete (dt : Nat) (ok : Bool)
  | curveSectorRewrite (dt : Nat)
  | deckLoadComplete (dt : Nat)
  -- reports and timeouts (07, 13 to 17)
  | evtFail (dt : Nat)
  | eventHoldoffExpiry (dt : Nat)
  | stageTimeout (dt : Nat)
  | sceneBufferTimeout (dt : Nat)
  | curveBufferTimeout (dt : Nat)
  | fwSessionTimeout (dt : Nat)
  | fwVerificationEnd (dt : Nat)
  | nonceExpiry (dt : Nat)
  | fwConfirmation (dt : Nat)
  | fwConfirmTimeout (dt : Nat) (b : BootIn)
  -- service port (08)
  | svsync (dt : Nat) (valid : Bool) (rate : Nat)
  | svcIdle (dt : Nat)
  | svdataWrite (dt : Nat) (addressed : Bool) (b : Byte)
  | svdoorSubmit (dt : Nat) (addressed : Bool)
  | svdoorDiscard (dt : Nat) (addressed : Bool)
  | svctlWrite (dt : Nat) (addressed : Bool) (b : Byte)
  | svstatRead (dt : Nat) (n : Byte)
  | svdataRead (dt : Nat) (n : Byte)
  | svcauseRead (dt : Nat) (n : Byte)
  | registerWrite (dt : Nat) (addr : Byte) (data : List Byte)
  | svcCharacterError (dt : Nat) (parity : Bool)
  | collision (dt : Nat) (reg sent : Byte)
  | submissionTakeUp (dt : Nat)
  -- rows added at the table's end
  | vkaSourceHandover (dt : Nat) (vin vres : Nat)
  | hardDisconnectEnd (dt : Nat) (vres : Nat)
  | stringFrameEof (dt : Nat) (port : Port)
  | shelfSvcEdge (dt : Nat)
  | relayInputLow (dt : Nat) (widthNs : Nat)
  deriving DecidableEq, Repr

end Sys2Proof
end

