-- ==== Sys2Proof/Decode.lean ====
section
/-!
DEFINITION. The command a word spells by the bits of spec/opcode_table.json. Its rows give no bits: a verb travels inside a
clause (`parseVerb` in Sys2Proof/Machine/Clause.lean reads it), an event has no encoding.
-/
namespace Sys2Proof

/-- No row of the table gives bits, so no word spells a command. -/
def decodeTableWord (_nbits _w : Nat) : Option Instr := none

end Sys2Proof
end

