-- ==== Sys2Proof/Config.lean ====
section
/-!
DEFINITION. What the part fixes (clock periods, table sizes, thresholds at their typical values) and the
FREE VALUES: constants with no body, so that nothing can be proved of the value they give.
-/
namespace Sys2Proof.Config

/-- One tick of 1/4096 s in picoseconds (R5). -/
def tickPs : Nat := 244140625
/-- One FOSC period in picoseconds, 160 MHz (Table 3-3). -/
def foscPs : Nat := 6250
/-- One millisecond in picoseconds. -/
def msPs : Nat := 1000000000
/-- One microsecond in picoseconds. -/
def usPs : Nat := 1000000
/-- One second in picoseconds. -/
def secPs : Nat := 1000000000000
/-- The keystone window of R193, in ticks. -/
def keystoneWindow : Nat := 268435
/-- Lateness limit of a timed clause, in ticks (R189). -/
def lateLimit : Nat := 65536
/-- Horizon of a timed clause, in ticks (R189). -/
def horizon : Nat := 16777216
/-- Ring slots of the Spanline inbound ring (Table 1-1). -/
def ringSlots : Nat := 16
/-- Places of the Spanline outbound queue (Table 1-1, R174). -/
def queuePlaces : Nat := 8
/-- Timed-clause queue (R188). -/
def timedSlots : Nat := 64
/-- Tracked Spanline sources (R183). -/
def trackSlots : Nat := 32
/-- Attempts at one frame (R156). -/
def maxAttempts : Nat := 16
/-- VIN good, typical, mV (Table 3-2). -/
def vinGood : Nat := 2650
/-- POR, typical, mV (Table 3-2). -/
def vinPor : Nat := 2450
/-- VPDN, typical, mV (Table 3-2). -/
def vpdn : Nat := 2550
/-- Core brown-out, typical, mV (Table 3-2). -/
def brownOut : Nat := 2000
/-- VIO low, typical, mV (Table 3-2). -/
def vioLow : Nat := 1600
/-- VIO good, typical, mV (Table 3-2). -/
def vioGood : Nat := 1700
/-- FOSC's lock time, ps (Table 3-3, R68). -/
def foscLock : Nat := 60 * usPs
/-- Bytes of the store (Table 12-1). -/
def nvBytes : Nat := 1048576
/-- Bytes of a sector (Table 12-1). -/
def sectorBytes : Nat := 4096
/-- The release the model runs: major 3, minor 2 (R1). -/
def romMajor : Byte := 3
/-- See `romMajor`. -/
def romMinor : Byte := 2

/-- FREE VALUE. The n-th random draw (holdoffs of R172, R354, R356, R371), before it is cut to its range. -/
opaque draw : Nat → Nat
/-- FREE VALUE. The n-th nonce of SEC.CHALLENGE (R435). -/
opaque nonce : Nat → W64
/-- FREE VALUE. Whether a RESET_N pulse between 1 µs and 10 µs resets (R34). -/
opaque pulseResets : Nat → Bool
/-- FREE VALUE. The first node SEQ after a boot, from UID and power-up count (R157). -/
opaque firstSeq : W64 → Nat → W16
/-- FREE VALUE. Byte i of the payload of configuration copy GEN (R330: internal). -/
opaque cfgByte : Nat → Nat → Byte
/-- FREE VALUE. Byte o of the identity sector as made: the layout of its payload is silent in the spec (R452). -/
opaque identityByte : Nat → Byte
/-- FREE VALUE. Outside levels on GP0 to GP3 at the n-th reading (R429). -/
opaque pinIn : Nat → BitVec 4
/-- FREE VALUE. The n-th conversion of GP1 (R51). -/
opaque adcIn : Nat → BitVec 12
/-- FREE VALUE. Whether an image's Ed25519 signature holds under the ROM's image key (R458). -/
opaque signatureHolds : List Byte → Bool
/-- FREE VALUE. Byte a of a page whose program was cut off by the n-th abrupt reset (silent in the spec). -/
opaque tornByte : Nat → Nat → Byte
/-- FREE VALUE. The value of relay input slot i, channel c, before a good one was received (R286). -/
opaque noGoodYet : Nat → Nat → W16
/-- FREE VALUE. d_f and d_f - d_r of the n-th low on S0R, in picoseconds, before they are cut to their ranges (R257). -/
opaque lowDelay : Nat → Nat
/-- FREE VALUE. A cell's channel in a frame sent while the render engine stands, where the port has no last rendered frame
that holds it (R94, R283). -/
opaque frozenValue : Nat → Nat → Nat
/-- FREE VALUE. Byte a of the staging bank between a flip and the next STAGE.BEGIN; the n-th flip (R200). -/
opaque staleByte : Nat → Nat → Byte

end Sys2Proof.Config
end

