-- ==== Sys2Proof/Machine/Bits.lean ====
section
/-!
DEFINITION. Bytes and bits as the spec orders them: little-endian fields (R6), high byte first in headers,
saturating counters, serial-number comparison (R7), rounding (R291) and the four CRCs (R148, R236, R239, R322).
-/
namespace Sys2Proof.Machine

/-- `n` bytes of `v`, least significant first (R6). -/
def leBytes : Nat → Nat → List Byte
  | 0, _ => []
  | n + 1, v => BitVec.ofNat 8 v :: leBytes n (v / 256)

/-- `n` bytes of `v`, most significant first (R6: DST, SRC, SEQ, CRC). -/
def beBytes (n v : Nat) : List Byte := (leBytes n v).reverse

/-- The number a little-endian byte list spells. -/
def ofLe : List Byte → Nat
  | [] => 0
  | b :: t => b.toNat + 256 * ofLe t

/-- Bytes `o` to `o + n - 1` of a field list, as a little-endian number. -/
def fieldLe (l : List Byte) (o n : Nat) : Nat := ofLe ((l.drop o).take n)

/-- A signed number in `n` little-endian bytes, saturating at its limits (R378). -/
def leSigned (n : Nat) (v : Int) : List Byte :=
  let lim : Int := (2 : Int) ^ (8 * n - 1)
  let c := max (-lim) (min (lim - 1) v)
  leBytes n (c % (2 : Int) ^ (8 * n)).toNat

/-- A Bool as a byte. -/
def bit (b : Bool) : Byte := if b then 1 else 0

/-- Bit `i` of a word as a Bool, from a flag list: bit i is the i-th entry. -/
def flagBits : List Bool → Nat
  | [] => 0
  | b :: t => b.toNat + 2 * flagBits t

/-- `v` held at the top of a `w`-bit counter (R338, R359). -/
def sat (w v : Nat) : Nat := min v (2 ^ w - 1)

/-- A 32-bit saturating counter counted up once. -/
def bump (v : Nat) : Nat := sat 32 (v + 1)

/-- a / b to the nearest integer, halves upward (R291). -/
def rnd (a : Int) (b : Nat) : Int := (2 * a + b) / (2 * b : Nat)

/-- rnd for natural numbers. -/
def rndN (a b : Nat) : Nat := (2 * a + b) / (2 * b)

/-- SEQ `b` is newer than SEQ `a` (R7, R187). -/
def newer (b a : W16) : Bool := let d := (b - a).toNat; 1 ≤ d && d ≤ 32767

/-- The next SEQ, 0x0000 skipped (R157). -/
def nextSeq (s : W16) : W16 := if s + 1 = 0 then 1 else s + 1

/-- Whether bits [7:k] of a byte are all 0: its reserved bits (R361). -/
def highZero (k : Nat) (b : Byte) : Bool := b.toNat < 2 ^ k

/-- Bit `i` of a byte list read as a map: bit i mod 8 of byte i / 8. -/
def packBits (n : Nat) (f : Nat → Bool) : List Byte :=
  (List.range n).map fun i => BitVec.ofNat 8 (flagBits ((List.range 8).map fun j => f (8 * i + j)))

/-- One bit into a CRC register of `w` bits, most significant bit first. -/
def crcStep (w poly : Nat) (r : Nat) (b : Bool) : Nat :=
  let top := (r / 2 ^ (w - 1)) % 2 = 1
  let s := (2 * r) % 2 ^ w
  if top != b then s ^^^ poly else s

/-- Bits of a byte, most significant first (R148). -/
def msbBits (b : Byte) : List Bool := [b.getLsbD 7, b.getLsbD 6, b.getLsbD 5, b.getLsbD 4,
  b.getLsbD 3, b.getLsbD 2, b.getLsbD 1, b.getLsbD 0]

/-- The low `n` bits of a number in line order, bit 0 first. -/
def lsbBits (n v : Nat) : List Bool := (List.range n).map fun i => Nat.testBit v i

/-- The frame CRC over bytes (R148). -/
def crc16 (l : List Byte) : Nat := (l.flatMap msbBits).foldl (crcStep 16 0x1021) 0xFFFF

/-- The Cellchain CRC-8 over bits in line order (R236). -/
def crc8 (l : List Bool) : Nat := l.foldl (crcStep 8 0x07) 0xFF

/-- The slot CRC over bits in line order (R239): c[3] is the register's top bit. -/
def crc4 (l : List Bool) : Nat := l.foldl (crcStep 4 0x3) 0xF

/-- One bit of the reflected CRC-32 (R322). -/
def crc32Bit (r : Nat) : Nat := if r % 2 = 1 then (r / 2) ^^^ 0xEDB88320 else r / 2

/-- One byte of the reflected CRC-32. -/
def crc32Byte (r : Nat) (b : Byte) : Nat :=
  let x := r ^^^ b.toNat
  crc32Bit (crc32Bit (crc32Bit (crc32Bit (crc32Bit (crc32Bit (crc32Bit (crc32Bit x)))))))

/-- The CRC-32 of the store (R322). -/
def crc32 (l : List Byte) : Nat := (l.foldl crc32Byte 0xFFFFFFFF) ^^^ 0xFFFFFFFF

/-- A 64-bit word of [55:0] with its CRC-8 in [63:56] (R236, R250). -/
def word64 (low56 : Nat) : W64 :=
  BitVec.ofNat 64 (low56 % 2 ^ 56 + 2 ^ 56 * crc8 (lsbBits 56 low56))

/-- [63:56] is the CRC-8 of [55:0]. -/
def word64Ok (w : W64) : Bool := word64 (w.toNat % 2 ^ 56) == w

/-- A header of [23:0] with HCRC in [31:24] (R234, R236). -/
def header32 (low24 : Nat) : W32 :=
  BitVec.ofNat 32 (low24 % 2 ^ 24 + 2 ^ 24 * crc8 (lsbBits 24 low24))

/-- HCRC is correct (R243). -/
def headerOk (h : W32) : Bool := header32 (h.toNat % 2 ^ 24) == h

/-- A field of a header: bits [lo + n - 1 : lo]. -/
def bits (v lo n : Nat) : Nat := (v / 2 ^ lo) % 2 ^ n

/-- The number of 1 bits in the low `n` bits. -/
def ones (n v : Nat) : Nat := (lsbBits n v).countP id

/-- The slot's bits on the line: values LSB first, then c0 to c3 (R238, R239). -/
def slotBits (w : Nat) (vals : List Nat) : List Bool :=
  let vs := vals.flatMap (lsbBits w)
  vs ++ lsbBits 4 (crc4 vs)

end Sys2Proof.Machine
end

