-- ==== Sys2Proof/Machine/Tab.lean ====
section
/-!
DEFINITION. Sparse tables as sorted lists of key and value, in ONE canonical form: keys strictly rising, and
no entry equal to what an unlisted key reads as (`d`). The NV store and the deck banks are tables of bytes;
lanes, effects, map entries, curves, on-times are tables of their own records.
-/
namespace Sys2Proof.Machine

/-- A sparse table of values by key. -/
abbrev Tab (α : Type) := List (Nat × α)

/-- What key `k` reads as; `d k` where it is not listed. -/
def tget {α : Type} (d : Nat → α) : Tab α → Nat → α
  | [], k => d k
  | (j, v) :: t, k => if j = k then v else tget d t k

/-- Key `k` taken off the list. -/
def tdel {α : Type} (k : Nat) (t : Tab α) : Tab α := t.filter fun e => e.1 != k

/-- Key `k` set to `v`; the canonical form is kept. -/
def tset {α : Type} [DecidableEq α] (d : Nat → α) : Tab α → Nat → α → Tab α
  | [], k, v => if v = d k then [] else [(k, v)]
  | (j, w) :: t, k, v =>
    if k < j then (if v = d k then (j, w) :: tdel k t else (k, v) :: (j, w) :: t)
    else if k = j then (if v = d k then tdel k t else (k, v) :: t)
    else (j, w) :: tset d t k v

/-- Every key in `[lo, hi)` back to what it reads as unlisted. -/
def tclear {α : Type} (lo hi : Nat) (t : Tab α) : Tab α :=
  t.filter fun e => e.1 < lo || hi ≤ e.1

/-- The canonical form: keys above `lo` strictly rising, no entry equal to its default. -/
def Tab.wfFrom {α : Type} [DecidableEq α] (d : Nat → α) : Nat → Tab α → Bool
  | _, [] => true
  | lo, (j, v) :: t => decide (lo ≤ j) && decide (v ≠ d j) && Tab.wfFrom d (j + 1) t

/-- The canonical form of a table. -/
def Tab.wf {α : Type} [DecidableEq α] (d : Nat → α) (t : Tab α) : Bool := Tab.wfFrom d 0 t

/-- The NV store and the deck banks: bytes by address. -/
abbrev Memory := List Host.Cell

/-- Byte `o` of the identity sector: its header of KIND 0x04, and what the part was made with, a free value (R321, R452)
[77]. -/
def identityBlank (o : Nat) : Byte :=
  if o < 8 then [0x5A, 0xD3, 0x04, 0x01, 0, 0, 0, 0].getD o 0
  else if 12 ≤ o ∧ o < 16 ∨ 20 ≤ o ∧ o < 28 then 0
  else if 28 ≤ o ∧ o < 32 then [0xA5, 0x5A, 0xC3, 0x3C].getD (o - 28) 0
  else Config.identityByte o

/-- Byte `o` of the key store as shipped: its header of KIND 0x05, zeros to byte 63, and free slots (R321, R450). -/
def keyStoreBlank (o : Nat) : Byte :=
  if o < 4 then [0x5A, 0xD3, 0x05, 0x01].getD o 0
  else if 16 ≤ o ∧ o < 20 then [0x05, 0xF0, 0x07, 0x58].getD (o - 16) 0
  else if 28 ≤ o ∧ o < 32 then [0xA5, 0x5A, 0xC3, 0x3C].getD (o - 28) 0
  else if o < 64 then 0
  else 0xFF

/-- What an unlisted byte of the NV store reads as: the identity and key-store sectors as shipped (R450, R452), every other
byte erased (R313). -/
def nvBlank (a : Nat) : Byte :=
  if a < 0xF8000 then 0xFF
  else if a < 0xF9000 then identityBlank (a - 0xF8000)
  else if a < 0xFA000 then keyStoreBlank (a - 0xF9000)
  else 0xFF

/-- What byte `a` of a deck bank reads as when not listed: the reset entry of Table 11-4. -/
def deckBlank (a : Nat) : Byte :=
  let o := a % 24
  if 4 ≤ o ∧ o < 12 then (if o % 2 = 1 then 0x80 else 0x00)
  else if 12 ≤ o ∧ o < 18 then 0xFF
  else 0x00

/-- The NV store's canonical form. -/
def Memory.wf (m : Memory) : Bool := Tab.wf nvBlank m

/-- A deck bank's canonical form. -/
def Memory.deckWf (m : Memory) : Bool := Tab.wf deckBlank m

end Sys2Proof.Machine
end

