-- ==== Sys2Proof/Machine/State.lean ====
section
/-!
DEFINITION. The state of the node as plain data, grouped by the blocks of Table 1-1, and `State.reset`: an
as-shipped HZ4K right after the boot that follows its first power-on (step 15 of Table 3-7). Each field names
its width, the rule that gives it and its reset value; [n] is the row of the assumption log for a value the
spec does not state. Times in `now` are picoseconds of elapsed time, WT values are 48-bit ticks.
-/
namespace Sys2Proof.Machine

/-- Why a step faults. The node has no machine fault of its own: a verb that cannot run is a reply with a
status (R180), an event that cannot arise changes nothing. So there is no reason, and no step faults. -/
inductive Fault
  deriving DecidableEq, Repr

/-- Why a step is refused. -/
inductive Refusal
  /-- Raised by a dispatch arm with no meaning yet; safe. -/
  | notModelled (mnemonic : String)
  /-- Raised by a reset whose boot would run a patch image of a release other than 3.2: the manual makes no
  statement about its behaviour (R2); safe. -/
  | otherRelease
  deriving DecidableEq, Repr

/-- The members of the family (Table 0-1). -/
inductive Member
  | hz064
  | hz256
  | hz1k
  | hz4k
  deriving DecidableEq, Repr

/-- The states of Table 1-6, and those around them: halted by TEST (R35), waiting at boot step 4. -/
inductive PMode
  | halted
  | bootWait
  | run
  | rest
  | shelf
  | save
  | holdover
  | darkcut
  deriving DecidableEq, Repr

/-- RESERVE.CFG bytes 1 to 6 (Table 16-3) with the defaults of Table 4-2. -/
structure ReserveCfg where
  /-- 0 AUTO, 1 YES, 2 NO. -/
  present : Byte := 0
  /-- 0 4.10 V, 1 4.20 V. -/
  vchg : Byte := 0
  /-- 0 0.25 mA, 1 1 mA, 2 2 mA, 3 off. -/
  ichg : Byte := 0
  /-- 3.00 V + v × 0.05 V. -/
  darkcut : Byte := 6
  /-- Hold-up capacitance, µF. -/
  chold : W16 := 0
  deriving DecidableEq, Repr

/-- HARVEST.CFG bytes 1 to 3 (Table 16-3) with the defaults of Table 4-2. -/
structure HarvestCfg where
  /-- 0 off, 1 on. -/
  enable : Byte := 1
  /-- k = 0.40, 0.50, 0.60, 0.70, 0.80. -/
  k : Byte := 1
  /-- 4 s, 16 s, 64 s. -/
  period : Byte := 1
  deriving DecidableEq, Repr

/-- PORT.CFG bytes 1 to 6 (Table 15-4) with the defaults of Table 10-1. -/
structure PortCfg where
  /-- b0 of FLAGS. -/
  enable : Bool := false
  /-- b1 of FLAGS. -/
  stub : Bool := false
  /-- 0 10, 1 20, 2 40 Mbit/s. -/
  rate : Byte := 1
  /-- [1:0] channels − 1, [3:2] width. -/
  fmt : Byte := 0x0B
  /-- Cell count. -/
  n : Nat := 1024
  /-- Status interval. -/
  q : Byte := 16
  deriving DecidableEq, Repr

/-- The report settings of Table 13-2. -/
structure Notify where
  /-- Report address; 0x0000 none. -/
  addr : W16 := 0
  /-- PUSH. -/
  push : Bool := false
  /-- Debounce F. -/
  f : Byte := 3
  /-- Holdoff limit H, 100 ms units. -/
  h : Byte := 5
  /-- Fail interval I, 100 ms units. -/
  i : Byte := 10
  deriving DecidableEq, Repr

/-- Mode and output level of one GP pin (R428). -/
structure GpioCfg where
  /-- 0 input, 1 pull-up, 2 pull-down, 3 push-pull, 4 open-drain, 5 ADC. -/
  mode : Byte := 0
  /-- Output level at configuration. -/
  init : Byte := 0
  deriving DecidableEq, Repr

/-- Every setting the verb references mark persistent (R330): what a configuration copy carries. -/
structure Settings where
  /-- 16 bits; individual address, 0x0000 unaddressed (R370); reset 0x0000. -/
  addr : W16 := 0
  /-- 256 bits; group map (R373); reset empty. -/
  groups : BitVec 256 := 0
  /-- Port parameters of S0 to S3 (R266); reset Table 10-1. -/
  ports : Vector PortCfg 4 := Vector.replicate 4 {}
  /-- 64 bits each; side words as stored by CELL.SIDECFG (R405); reset 0x3100000000000020. -/
  side : Vector W64 4 := Vector.replicate 4 0x3100000000000020
  /-- FRAME.RATE free-running (R380); reset WT-locked. -/
  freeRun : Bool := false
  /-- FRAME.RATE value, n or f (R380); reset 32 (R308). -/
  frameValue : Nat := 32
  /-- SYNC.CFG mode 0 to 2 (R381); reset 0. -/
  sync : Byte := 0
  /-- FAIL.NOTIFY settings (R351); reset Table 13-2. -/
  notify : Notify := {}
  /-- CONCEAL.CFG b0 (R415); reset 1. -/
  conceal : Bool := true
  /-- CONCEAL.CFG b1 (R415); reset 0. -/
  concealUnreach : Bool := false
  /-- REST permitted (R368); reset forbidden. -/
  restOk : Bool := false
  /-- KEEP frames in REST (R368); reset off. -/
  keep : Bool := false
  /-- REST_HOLD, ms (R76); reset 250. -/
  restHold : Nat := 250
  /-- RESERVE.CFG (R425); reset Table 4-2. -/
  reserve : ReserveCfg := {}
  /-- HARVEST.CFG (R426); reset Table 4-2. -/
  harvest : HarvestCfg := {}
  /-- GPIO.CFG of GP0 to GP3 (R428); reset inputs, GP0 pull-down, GP1 no pull, GP2 and GP3 pull-up (Table 2-2). -/
  gpio : Vector GpioCfg 4 := #v[{ mode := 2 }, { mode := 0 }, { mode := 1 }, { mode := 1 }]
  /-- SPAN.CFG b0, termination (R439); reset off. -/
  term : Bool := false
  /-- SPAN.CFG b1, external transceiver (R439); reset off. -/
  ext : Bool := false
  /-- SPAN.CFG default rate, bit/s (R439); reset 250 000. -/
  defRate : Nat := 250000
  /-- Boot scene slot, 0xFF none (R389); reset 0xFF. -/
  bootScene : Byte := 0xFF
  /-- Periodic save period, h (R340); reset 24. -/
  period : Byte := 24
  /-- RELAY.CFG on (R409); reset off (render mode is the default, Table 1-4). -/
  relay : Bool := false
  /-- RELAY.CFG hold limit, s (R409); reset 0, DESIGN CHOICE [5]. -/
  relayHold : Nat := 0
  /-- Live deck area: none, A (false) or B (true) (R330); reset none. -/
  deckLive : Option Bool := none
  /-- CRC-32 of the live area's 24 sectors (R330); reset empty. -/
  deckCrcs : List W32 := []
  deriving DecidableEq, Repr

/-- Charger states of POWER.STATUS (Table 16-3). -/
inductive Chg
  | off
  | precharge
  | constantCurrent
  | constantVoltage
  | terminated
  deriving DecidableEq, Repr

/-- What the harvester does (R100 to R102). -/
inductive Harv
  | stopped
  | coldStart
  | boost
  | sampling
  deriving DecidableEq, Repr

/-- A keystone correction waiting for the first boundary after the keystone (R194). -/
inductive Corr
  | slew (e : Int)
  | step (e : Int)
  deriving DecidableEq, Repr

/-- A change of WT other than one tick in one tick period: a correction of a slew (R195) or a step (R196). -/
structure Jump where
  /-- `now` at which it came. -/
  at_ : Nat
  /-- Ticks added beyond the counting. -/
  size : Int
  /-- A step, else a slew correction. -/
  step : Bool
  deriving DecidableEq, Repr

/-- The keep-alive domain (R96 to R110, R193 to R196). No core reset touches it (R33). -/
structure KeepAlive where
  /-- 48 bits; the WT counter (R5, R13); reset 0 (R97). -/
  wt : W48 := 0
  /-- Picoseconds into the running tick period (R13); reset 0, DESIGN CHOICE [1]. -/
  sub : Nat := 0
  /-- Signed ticks of slew still to run (R195); reset 0. -/
  slew : Int := 0
  /-- Tick periods since the last slew correction, 0 to 63 (R195); reset 0, DESIGN CHOICE [6]. -/
  slewPhase : Nat := 0
  /-- The latest 16 changes of WT other than counting, newest first: from them WT at an earlier instant is known (R12);
  reset none. -/
  jumps : List Jump := []
  /-- RC fallback in use (R69); reset false. -/
  rc : Bool := false
  /-- Back on the LFXO, POOR until the next keystone (R70); reset false. -/
  poorHeld : Bool := false
  /-- Picoseconds until the LFXO has started after keep-alive power (Table 3-3, R69) [12]; reset 0: it runs. -/
  startIn : Nat := 0
  /-- `now` at which the keep-alive domain was last powered (R69); reset 0. -/
  poweredAt : Nat := 0
  /-- The RC fallback is in use because the LFXO had not started (R69, Table 16-9); reset false. -/
  notStarted : Bool := false
  /-- WT quality LOST (R97); reset true. -/
  lost : Bool := true
  /-- A keystone was accepted and the window has not expired (R193); reset false. -/
  good : Bool := false
  /-- `now` of the last accepted keystone since boot (R379); reset none. -/
  ksAt : Option Nat := none
  /-- e of the last accepted keystone (R379); reset 0. -/
  lastE : Int := 0
  /-- Correction waiting for a boundary (R194); reset none. -/
  corr : Option Corr := none
  /-- SAVE-OPEN mark (R112); reset clear. -/
  saveOpen : Bool := false
  /-- Reserve settings in force (R97); reset Table 4-2. -/
  reserve : ReserveCfg := {}
  /-- Harvester settings in force (R97); reset Table 4-2. -/
  harvest : HarvestCfg := {}
  /-- Reserve treated as present (R98); reset false: VRES reads 0 mV [2]. -/
  present : Bool := false
  /-- Dark-cut latch: disconnected from VRES (R108); reset clear. -/
  darkLatch : Bool := false
  /-- OC latch: discharge path open (R106); reset clear. -/
  oc : Bool := false
  /-- Hard disconnect: discharge path open (R106); reset clear. -/
  hardDisc : Bool := false
  /-- Hard disconnect since the last POWER.STATUS (R424); reset 0. -/
  hardSince : Bool := false
  /-- Dark cut since the last POWER.STATUS (R424); reset 0. -/
  darkSince : Bool := false
  /-- A reserve latch waits for the next entry to RUN (R106); reset false. -/
  latchEvt : Bool := false
  /-- Charger state (R105); reset off. -/
  chg : Chg := .off
  /-- Charging stopped by die temperature (R105); reset false. -/
  tempStop : Bool := false
  /-- `now` since which VRES has stood below the dark-cut threshold (R106); reset none. -/
  belowSince : Option Nat := none
  /-- Harvester activity (R100 to R102); reset boost: enabled, VKA up (R101). -/
  hst : Harv := .boost
  /-- Last sampled Voc, mV (R102); reset 0, DESIGN CHOICE [2]. -/
  voc : Nat := 0
  /-- RFIN target k × Voc, mV (R102); reset 0. -/
  target : Nat := 0
  /-- `now` of the last Voc sample's start (R102); reset 0. -/
  vocAt : Nat := 0
  /-- VKA source, Table 4-1 priority (R96); reset 1: VIN feeds VKA. -/
  source : Nat := 1
  /-- `now` at which the last bandgap window opened (R103); reset none. -/
  window : Option Nat := none
  /-- EVT.TIME cause 1 was queued since WT was last lost (R110); reset true: that boot is over. -/
  lostTold : Bool := true
  /-- The RC fallback in use was reported by EVT.TIME cause 2 (R69, R444); reset true: none in use. -/
  rcTold : Bool := true
  deriving DecidableEq, Repr

/-- A reset asked for by NODE.RESET or FW.ACTIVATE (R367). -/
structure ResetReq where
  /-- The clause whose reply it waits for; none once the 5 ms run. -/
  waits : Option Nat
  /-- `now` at which the reset comes. -/
  due : Option Nat
  deriving DecidableEq, Repr

/-- Supplies, clocks, power state, boot and pins of the core domain (02, 03). -/
structure Power where
  /-- Power state (R72); reset RUN. -/
  mode : PMode := .run
  /-- VIN, mV; outside value at reset, DESIGN CHOICE [2]. -/
  vin : Nat := 3300
  /-- VIO, mV; outside value at reset, DESIGN CHOICE [2]. -/
  vio : Nat := 3300
  /-- VRES, mV; outside value at reset, DESIGN CHOICE [2]. -/
  vres : Nat := 0
  /-- VKA, mV (Table 3-1); reset 1800. -/
  vka : Nat := 1800
  /-- Averaged die temperature, 1/8 °C (R92); reset 25 °C, DESIGN CHOICE [2]. -/
  tAvg : Int := 200
  /-- Latest single reading, 1/8 °C (Table 16-3); reset 25 °C, DESIGN CHOICE [2]. -/
  tNow : Int := 200
  /-- Thermal factor F in force since the last boundary (R92); reset 65 536. -/
  f : Nat := 65536
  /-- THERMAL flag (R93); reset clear. -/
  thermal : Bool := false
  /-- Rendering frozen (R94); reset false. -/
  frozen : Bool := false
  /-- VIO_LOW flag (R64); reset clear. -/
  vioLow : Bool := false
  /-- The VIO monitor: fallen below VIO low and not yet risen past VIO good (R62); reset false. -/
  vioDown : Bool := false
  /-- RESERVE_LOW flag (R118); reset clear. -/
  reserveLow : Bool := false
  /-- VREG and VCORE regulate (R32, R61); reset true: VIN is above POR. -/
  rails : Bool := true
  /-- FOSC running (R66); reset true in RUN. -/
  fosc : Bool := true
  /-- `now` at which FOSC has locked after its last start (R68); reset 0. -/
  lockAt : Nat := 0
  /-- WRC running (Table 3-3); reset true in RUN. -/
  wrc : Bool := true
  /-- LAMPEN asserted, pin 18 low (R37); reset released. -/
  lampen : Bool := false
  /-- LAMPEN.SET hold (R427); reset lifted. -/
  lampHold : Bool := false
  /-- R90 met since the last boot or SHELF exit (R427); reset false. -/
  lampMet : Bool := false
  /-- `now` at which REST_HOLD expires (R76); reset 250 ms after boot. -/
  restDue : Nat := 250 * Config.msPs
  /-- REST_HOLD has expired (R75, R76); reset false. -/
  restFree : Bool := false
  /-- KEEP setting taken at the last REST entry (R368); reset off. -/
  keepRest : Bool := false
  /-- SHELF requested (R81), and the clause whose reply must leave first; reset none. -/
  shelfReq : Option (Option Nat) := none
  /-- Requested reset (R367); reset none. -/
  resetReq : Option ResetReq := none
  /-- GP2 as latched (R38); reset high, DESIGN CHOICE [2]. -/
  gp2 : Bool := true
  /-- GP3 as latched (R38); reset high, DESIGN CHOICE [2]. -/
  gp3 : Bool := true
  /-- Driven levels of output pins GP0 to GP3 (R429); reset 0. -/
  gpOut : BitVec 4 := 0
  /-- Integrated termination connected (R57); reset open. -/
  termOn : Bool := false
  /-- External-transceiver mode in force (R59); reset off. -/
  extOn : Bool := false
  /-- SYNC driven high since this boundary (R311): `now` of the pulse; reset none. -/
  syncPulse : Option Nat := none
  /-- `now` of step 15 of the last boot (R225, R461); reset 0. -/
  bootAt : Nat := 0
  /-- What the SAVE in progress writes: 0 nothing, 1 full, 2 summary (R112, R114); reset 0. -/
  saving : Nat := 0
  /-- Cause of the last reset (Table 3-6); reset 0x01. -/
  cause : Byte := 0x01
  deriving DecidableEq, Repr

/-- The node's identity and the flags of NODE.STATUS that are not kept elsewhere. -/
structure Node where
  /-- 64 bits; factory UID (R366, R452); reset 0, DESIGN CHOICE [3]. -/
  uid : W64 := 0
  /-- Family member (Table 0-1); reset HZ4K. -/
  member : Member := .hz4k
  /-- ADDR_CONTEST flag (R158); reset clear. -/
  contest : Bool := false
  /-- Wink origin, 48 bits (R377); reset 0. -/
  winkFrom : W48 := 0
  /-- Wink length in seconds, 0 none (R377); reset 0. -/
  winkSecs : Nat := 0
  /-- Wink port mask (R377); reset 0. -/
  winkPorts : BitVec 4 := 0
  deriving DecidableEq, Repr

/-- A delivered frame in the inbound ring (R12, R173). -/
structure RingSlot where
  /-- DST of the frame. -/
  dst : W16
  /-- SRC of the frame. -/
  src : W16
  /-- SEQ of the frame. -/
  seq : W16
  /-- BODY, one clause. -/
  body : List Byte
  /-- Timestamp of R12. -/
  stamp : W48
  /-- Refined rate, bit/s. -/
  rate : Nat
  /-- How it matched. -/
  kind : MatchKind
  /-- `now` of its closure: T0 of a roll-call (R166). -/
  closed : Nat
  deriving DecidableEq, Repr

/-- A frame the node originates (R145, R147). The CRC is computed from the rest. -/
structure OutFrame where
  /-- DST. -/
  dst : W16
  /-- SRC. -/
  src : W16
  /-- SEQ, the same at every attempt (R157). -/
  seq : W16
  /-- BODY. -/
  body : List Byte
  /-- Rate in bit/s; 0 sends at the held rate (R133). -/
  rate : Nat
  /-- Opcode that names the frame: 0xFE a reply, 0xF0 to 0xF4 an event (R442). -/
  op : Byte
  /-- Attempts made (R156). -/
  attempts : Nat
  /-- The clause it answers, where a reset or SHELF waits for it. -/
  clause : Option Nat
  deriving DecidableEq, Repr

/-- What the transmitter is sending. -/
inductive Sending
  | queue
  | slot
  | late
  deriving DecidableEq, Repr

/-- Phases of the node's part in the slot window of a roll-call (R164 to R171). -/
inductive RollPhase
  | window
  | slotSent
  | yielded
  deriving DecidableEq, Repr

/-- A late reply from the opening of its window until it is sent, dropped or cancelled (R162, R163, R172). -/
structure LateReply where
  /-- The reply. -/
  frame : OutFrame
  /-- `now` at which its holdoff ends. -/
  due : Nat
  /-- Its holdoff has ended: it is offered for transmission. -/
  offered : Bool
  /-- `now` by which it must have started. -/
  limit : Nat
  /-- `now` of the start of its first attempt in the late window. -/
  begunAt : Option Nat
  /-- A cancellation was registered at or after the commit point of the attempt in progress (R163). -/
  cancelled : Bool
  deriving DecidableEq, Repr

/-- A roll-call in progress (R164 to R172). -/
structure RollCall where
  /-- SRC of the query. -/
  src : W16
  /-- SEQ of the query. -/
  seq : W16
  /-- First address. -/
  base : Nat
  /-- Number of addresses, 1 to 256. -/
  count : Nat
  /-- Reply kind 0 to 3. -/
  kind : Nat
  /-- The query's refined rate, bit/s. -/
  rate : Nat
  /-- `now` of T0. -/
  t0 : Nat
  /-- `now` of the latest anchor's end (R168). -/
  anchor : Nat
  /-- Slot of the latest anchor; none for T0. -/
  anchorSlot : Option Nat
  /-- `now` at which the query's clause had been processed; none until then (R170, R203). -/
  readyAt : Option Nat
  /-- The node's slot k, where its address lies in the range. -/
  slot : Option Nat
  /-- The reply frame, once built (R375). -/
  frame : Option OutFrame
  /-- Where the node stands. -/
  phase : RollPhase
  deriving DecidableEq, Repr

/-- A claim reply in its holdoff (R371). -/
structure ClaimWait where
  /-- `now` at which the holdoff ends. -/
  due : Nat
  /-- The claim's clause header. -/
  req : Req
  /-- The reply body. -/
  body : List Byte
  /-- The clause. -/
  id : Nat
  deriving DecidableEq, Repr

/-- Spanline interface, mailboxes and their statistics (05, 06). -/
structure Span where
  /-- Inbound ring, at most 16 slots, oldest first (R27, R173); reset empty. -/
  ring : List RingSlot := []
  /-- Outbound queue, at most 8 frames, in order (R156, R174); reset empty. -/
  outQ : List OutFrame := []
  /-- Replies waiting for a place (R174); reset empty. -/
  overflow : List OutFrame := []
  /-- 16 bits; the SEQ of the next frame the node originates (R157); reset 0x0001, DESIGN CHOICE [4]. -/
  seq : W16 := 1
  /-- Held rate once a frame qualified (R133); reset none: the default rate. -/
  held : Option Nat := none
  /-- Refined rate of the last frame entered in the ring (Table 16-7); reset 0, DESIGN CHOICE [7]. -/
  lastRate : Nat := 0
  /-- The attempt in progress (R153); reset none. -/
  tx : Option Sending := none
  /-- `now` of the start instant of the attempt in progress or of the last one (R153, R163); reset 0. -/
  txAt : Nat := 0
  /-- The bus counts as idle (R152); reset false: the IFS has to pass first. -/
  idle : Bool := false
  /-- `now` from which the recessive time of the IFS is counted (R152); reset 0. -/
  quietFrom : Nat := 0
  /-- Rate of the last frame seen on the bus since boot or wake (R152); reset none. -/
  busRate : Option Nat := none
  /-- `now` of the last falling edge of wake-band traffic (R141); reset none. -/
  wakeHold : Option Nat := none
  /-- Roll-call whose slot window is open or whose query is still to be processed (R164); reset none. -/
  roll : Option RollCall := none
  /-- Late replies, in the order in which their windows opened (R172); reset none. -/
  lates : List LateReply := []
  /-- Claim replies in their holdoff (R371); reset none. -/
  claims : List ClaimWait := []
  /-- 32 bits; CRC statistic (R359); reset 0. -/
  crc : Nat := 0
  /-- 32 bits; PARTIAL (R359); reset 0. -/
  partials : Nat := 0
  /-- 32 bits; OVERRUN (R359); reset 0. -/
  overrun : Nat := 0
  /-- 32 bits; RETRIES (R359); reset 0. -/
  retries : Nat := 0
  /-- 32 bits; SENT_AFTER_CANCEL (R359); reset 0. -/
  sentAfterCancel : Nat := 0
  /-- 32 bits; ADDR_CONTEST (R359); reset 0. -/
  contests : Nat := 0
  /-- 32 bits; TX_DROPPED (R156, R172); reset 0. -/
  txDropped : Nat := 0
  /-- Opcode of the last dropped frame (Table 16-7); reset 0x00. -/
  lastDrop : Byte := 0
  /-- Ports with SKIP counted since the last kind-1 reply (Table 14-4); reset 0. -/
  skipMark : BitVec 4 := 0
  deriving DecidableEq, Repr

/-- The outcome of one verb of a clause: opcode, and status with result bytes once it has them. -/
structure Entry where
  /-- Opcode. -/
  op : Byte
  /-- Status and result (R177); none while the verb has no result (R179). -/
  res : Option (Byte × List Byte)
  deriving DecidableEq, Repr

/-- A clause that took effect and waits for its late results (R179, R392, R418). -/
structure Waiting where
  /-- The clause. -/
  id : Nat
  /-- Its header. -/
  req : Req
  /-- Entries so far. -/
  entries : List Entry
  /-- What OK reads as: OK, or DONE_LATE for a clause that took effect late (R191). -/
  late : Byte
  deriving DecidableEq, Repr

/-- A late result's place: clause and verb index. -/
structure Tok where
  /-- The clause. -/
  id : Nat
  /-- Verb index in the clause. -/
  idx : Nat
  deriving DecidableEq, Repr

/-- A validated clause waiting for its boundary (R186, R187). -/
structure Queued where
  /-- Its header. -/
  req : Req
  /-- Its verbs. -/
  verbs : List Instr
  /-- Its apply-at WT fell while the NP was blocked (R24). -/
  held : Bool
  /-- `now` at which it was validated: checks that count time are repeated as of then (R181). -/
  at_ : Nat
  deriving DecidableEq, Repr

/-- One source of the tracking table (R183). -/
structure Track where
  /-- The source. -/
  src : W16
  /-- Last recorded SEQ. -/
  last : W16
  /-- Cached reply, once it exists. -/
  reply : Option OutFrame
  deriving DecidableEq, Repr

/-- Clauses between the mailboxes and their replies (07). -/
structure Clauses where
  /-- Spanline sources, most recently used first, at most 32 (R183); reset empty. -/
  track : List Track := []
  /-- The service mailbox's entry, source 0xFFFE (R183); reset none. -/
  svcTrack : Option Track := none
  /-- Timed queue, at most 64 clauses, in arrival order (R188); reset empty. -/
  timed : List Queued := []
  /-- Untimed clauses waiting for the next boundary, in arrival order (R186); reset empty. -/
  ready : List Queued := []
  /-- Verbs that came as commands while the NP was blocked: they are taken up at its end (R23, R189); reset empty. -/
  blocked : List Queued := []
  /-- Clauses waiting for late results (R179); reset empty. -/
  waiting : List Waiting := []
  /-- Results that came while the NP was blocked: they reach their replies after it (Table 1-5); reset none. -/
  held : List (Tok × Byte × List Byte) := []
  /-- Number of the next clause, the model's own count [8]; reset 0. -/
  nextId : Nat := 0
  deriving DecidableEq, Repr

/-- A character the host sent on SVC (R211, R214). -/
inductive SvcChar
  /-- With M = 1. -/
  | addr (a : Byte)
  /-- With M = 0. -/
  | data (b : Byte)
  /-- With a parity error, or else a framing error. -/
  | bad (parity : Bool)
  deriving DecidableEq, Repr

/-- The image in the service outbound mailbox (R220). -/
structure SvcImage where
  /-- Bytes not yet read. -/
  bytes : List Byte
  /-- It is an event, else a reply. -/
  event : Bool
  /-- Its OPCODE, where it is an event; 0xFE for a reply. -/
  op : Byte
  /-- A byte of it has been read. -/
  begun : Bool
  /-- The clause it answers, where a reset or SHELF waits for it. -/
  clause : Option Nat
  deriving DecidableEq, Repr

/-- Service port (08). -/
structure Svc where
  /-- Inbound image, at most 249 bytes (R215); reset empty. -/
  image : List Byte := []
  /-- A submission is pending (R218); reset false. -/
  submitted : Bool := false
  /-- `now` of its submission, which is its arrival (R173); reset 0. -/
  submittedAt : Nat := 0
  /-- Outbound mailbox (R220); reset empty. -/
  out : Option SvcImage := none
  /-- Replies waiting for the outbound mailbox to empty (R174, R220); reset empty. -/
  backlog : List OutFrame := []
  /-- SVCAUSE (Table 8-4); reset 0x10. -/
  cause : Byte := 0x10
  /-- SVSEQ (R219); reset 0x00. -/
  seqLow : Byte := 0
  /-- SVCTL (Table 8-5); reset 0x05. -/
  ctl : Byte := 0x05
  /-- COL (R210); reset 0. -/
  col : Bool := false
  /-- FE (R214); reset 0. -/
  fe : Bool := false
  /-- PE (R214); reset 0. -/
  pe : Bool := false
  /-- OE (R215); reset 0. -/
  oe : Bool := false
  /-- SVSTAT was read and no address character but one that reads SVDATA has come since (R216); reset false. -/
  armed : Bool := false
  /-- Register selection, read flag and number (R211); reset none. -/
  sel : Option (Bool × Byte) := none
  /-- Held rate, bit/s (R209); reset none. -/
  rate : Option Nat := none
  /-- 20 ms without an edge: the next character is taken as SVSYNC (R209); reset true. -/
  idle : Bool := true
  /-- `now` at the end of the last character on SVC, from which the 20 ms count (R209); reset 0. -/
  edgeAt : Nat := 0
  /-- Bytes the node sent in its last answer (R211); reset empty. -/
  sent : List Byte := []
  /-- Characters to act on once the NV block ends (R222); reset empty. -/
  deferred : List SvcChar := []
  deriving DecidableEq, Repr

/-- Port states of Table 10-5, and off. -/
inductive PState
  | off
  | ok
  | broken (k : Nat)
  | nochain
  | relay
  deriving DecidableEq, Repr

/-- A forward frame whose return is awaited on SnR (R273). -/
structure Await where
  /-- TYPE sent. -/
  type : Nat
  /-- FMT sent. -/
  fmt : Nat
  /-- FSEQ sent. -/
  fseq : Byte
  /-- `now` of the return deadline. -/
  due : Nat
  deriving DecidableEq, Repr

/-- Maintenance items in the order of R272. -/
inductive Maint
  | reset
  | census
  | status
  | identity
  deriving DecidableEq, Repr

/-- Why a reset with presence runs: decides the state at presence (R281; `zero` is row C = 0 of Table 10-4). -/
inductive ResetWhy
  | boot
  | enable
  | resume
  | probe
  | zero
  deriving DecidableEq, Repr

/-- A CONFIG frame asked for by CELL.SIDECFG mode 1 (R406). -/
structure ConfigReq where
  /-- First position. -/
  first : Nat
  /-- Last position. -/
  last : Nat
  /-- The word for positions first to last. -/
  word : W64
  /-- Its verb. -/
  tok : Tok
  /-- It has been sent and waits for its EOF. -/
  sent : Bool
  /-- Another port of the verb did not run its frame (R393). -/
  cut : Bool
  deriving DecidableEq, Repr

/-- A CELL.IDENT waiting for an identity cycle (R407). -/
structure IdentReq where
  /-- First position. -/
  first : Nat
  /-- Positions asked for. -/
  count : Nat
  /-- Its verb. -/
  tok : Tok
  deriving DecidableEq, Repr

/-- A forward frame on an output (Table 9-3). -/
structure PFrame where
  /-- 32 header bits, HCRC among them (Table 9-4). -/
  header : W32
  /-- Slots with their CRC (R238, R239). -/
  slots : List Slot
  /-- COUNT and its CRC-8 in a CENSUS frame (R254). -/
  census : Option (W16 × Byte) := none
  /-- Tail words; the node's own frames have none. -/
  tail : List W12 := []
  /-- It was cut with EOF after these elements (R243). -/
  cut : Bool := false
  deriving DecidableEq, Repr

/-- A low the node puts on SnO (Table 9-11). -/
structure Pulse where
  /-- `now` at which SnO goes low. -/
  at_ : Nat
  /-- Its width in picoseconds: SnO is released at its end. -/
  width : Nat
  deriving DecidableEq, Repr

/-- A DATA frame rendered at a boundary at which a maintenance item still held SnO: it is sent if SnO is free when its first
PRE transition is due (R270). -/
structure DueFrame where
  /-- The values of its cells, four channels each. -/
  cells : List (List Nat)
  /-- LATCH. -/
  latch : Bool
  /-- `now` at which its first PRE transition is due. -/
  start : Nat
  deriving DecidableEq, Repr

/-- One string port (09, 10). -/
structure PortState where
  /-- Port state (R280); reset off (Table 10-1). -/
  state : PState := .off
  /-- Parameters in force (R283); reset Table 10-1. -/
  cfg : PortCfg := {}
  /-- 8 bits; FSEQ of the last forward frame (R234); reset 0, DESIGN CHOICE [9]. -/
  fseq : Byte := 0
  /-- Last census count C, none since boot (R280); reset none. -/
  c : Option Nat := none
  /-- Words in the last accepted return or answer (R280); reset none. -/
  w : Option Nat := none
  /-- 32 bits; TOL (R359); reset 0. -/
  tol : Nat := 0
  /-- 32 bits; PARITY (R359); reset 0. -/
  parity : Nat := 0
  /-- 32 bits; SKIP (R359); reset 0. -/
  skip : Nat := 0
  /-- Consecutive frames or cycles with break evidence (R274, R275); reset 0. -/
  evidence : Nat := 0
  /-- DATA frames since the last status cycle (R275); reset 0. -/
  sinceQ : Nat := 0
  /-- `now` at which SnO is free (R270); reset 0. -/
  freeAt : Nat := 0
  /-- `now` of the last EOF start (R233); reset 0. -/
  eofAt : Nat := 0
  /-- Forward frames whose return is awaited (R273); reset none. -/
  awaits : List Await := []
  /-- Waiting maintenance items with the `now` each began to wait (R272); reset none. -/
  items : List (Maint × Nat) := []
  /-- Maintenance item in progress (R272); reset none. -/
  cur : Option Maint := none
  /-- The pulse of the item in progress, sent or to come (R256, R258, R262); reset none. -/
  pulse : Option Pulse := none
  /-- An answer whose header came too late is still on the line: the node does not drive SnO (R261); reset false. -/
  discarded : Bool := false
  /-- The frame of a boundary that found an item in progress (R270); reset none. -/
  due : Option DueFrame := none
  /-- A KEEP of R290 waits for SnO; reset false. -/
  keepDue : Bool := false
  /-- `now` at which a derived frame was last cut with EOF (R286); reset none. -/
  cutAt : Option Nat := none
  /-- Why the reset with presence in progress or waiting runs (R281); reset boot. -/
  why : ResetWhy := .boot
  /-- A valid return was taken since the last presence (Table 10-4); reset false. -/
  returned : Bool := false
  /-- A frame was started since the last presence (R90); reset false. -/
  framed : Bool := false
  /-- The next DATA frame is the first after a presence: then probe and identity (R276, R278); reset false. -/
  fresh : Bool := false
  /-- Repeats left for a corrupted census answer (R278); reset 3. -/
  tries : Nat := 3
  /-- The second probe of R279 is due; reset false. -/
  second : Bool := false
  /-- Ready under R90; reset false. -/
  ready : Bool := false
  /-- `now` of the first frame, where readiness is still counted (R90); reset none. -/
  firstAt : Option Nat := none
  /-- Frames stopped until a restart: VIO low, REST, SHELF (R283); reset false. -/
  stopped : Bool := false
  /-- 64 bits; side word on the line (R405); reset 0x3100000000000020. -/
  side : W64 := 0x3100000000000020
  /-- FSEQ that continues the identity collection (R249); reset none. -/
  srNext : Option Byte := none
  /-- Identity bits collected so far, by position (R249); reset empty. -/
  srAcc : Tab W64 := []
  /-- Positions whose word every return of the collection has carried (R249); reset 0. -/
  srLen : Nat := 0
  /-- Identity words held, by position (R249, R276); reset empty. -/
  ids : Tab W64 := []
  /-- CONFIG frames asked for (R406); reset none. -/
  configs : List ConfigReq := []
  /-- CELL.IDENT verbs waiting (R407); reset none. -/
  idents : List IdentReq := []
  /-- PORT.PROBE verbs waiting (R408); reset none. -/
  probes : List Tok := []
  /-- Last forward frame (R234, R268); reset none. -/
  last : Option PFrame := none
  /-- Stage 8 values of the last rendered DATA frame, four channels each (R94, R293, R338); reset none. -/
  rendered : List (List Nat) := []
  /-- FMT of that frame (R94); reset 0x00. -/
  renderedFmt : Byte := 0
  /-- SnO released after the next EOF: the port was turned off (Table 10-6); reset false. -/
  release : Bool := false
  deriving DecidableEq, Repr

/-- Relay input states of RELAY.CFG's result (Table 15-4). -/
inductive RelayInput
  | none
  | receiving
  | lost
  deriving DecidableEq, Repr

/-- Relay mode (R284 to R290). -/
structure Relay where
  /-- Relay mode in force (R284); reset off. -/
  on : Bool := false
  /-- Input state (R409); reset no input yet. -/
  input : RelayInput := .none
  /-- `now` of the last DATA input header, or of the switch to relay mode (R290); reset 0. -/
  headerAt : Nat := 0
  /-- `now` of the declared loss (R290); reset 0. -/
  lossAt : Nat := 0
  /-- `now` of the last KEEP (R290); reset 0. -/
  keepAt : Nat := 0
  /-- KEEP frames have stopped at the hold limit (R290); reset false. -/
  keepStop : Bool := false
  /-- `now` of the last input header of any type (R289); reset none. -/
  hdrAt : Option Nat := none
  /-- Last interval between input headers, ps (R289); reset 0. -/
  gap : Nat := 0
  /-- Last good values of each input slot (R286); reset none. -/
  good : Tab (List W16) := []
  /-- The last frame forwarded on S0O (R288); none where it was cut in its header (R243); reset none. -/
  forwarded : Option PFrame := none
  /-- `now` at which that frame has ended on S0O (R257); reset 0. -/
  outEnd : Nat := 0
  /-- The last low passed on to S0O (R257, R288); reset none. -/
  low : Option Pulse := none
  deriving DecidableEq, Repr

/-- The order key of R192; `none` in a target is the null key. -/
structure Key where
  /-- Apply-at WT, or render time of the boundary. -/
  wt : W48
  /-- SRC. -/
  src : W16
  /-- SEQ. -/
  seq : W16
  deriving DecidableEq, Repr

/-- A fade lane (R294). -/
structure Lane where
  /-- Start level L0; reset 0x0000. -/
  l0 : W16 := 0
  /-- Target L1; reset 0x0000. -/
  l1 : W16 := 0
  /-- Origin t0; reset 0. -/
  t0 : W48 := 0
  /-- Duration D; reset 0. -/
  d : W32 := 0
  /-- Curve id; reset 0. -/
  c : Byte := 0
  /-- Order key; reset null. -/
  key : Option Key := none
  deriving DecidableEq, Repr

/-- A zone effect (R298); off where `period` is 0. -/
structure Effect where
  /-- Effect curve E. -/
  curve : Byte := 0
  /-- Period P; 0 no effect. -/
  period : W32 := 0
  /-- Depth. -/
  depth : W16 := 0
  /-- Channel mask. -/
  mask : BitVec 4 := 0
  /-- Order key; reset null. -/
  key : Option Key := none
  deriving DecidableEq, Repr

/-- Render engine (11). -/
structure Render where
  /-- 1024 lanes by zone × 4 + channel (R294); reset R295. -/
  lanes : Tab Lane := []
  /-- Effects by zone (R298); reset none. -/
  effects : Tab Effect := []
  /-- Master lane (R295); reset 0xFFFF held. -/
  master : Lane := { l0 := 0xFFFF, l1 := 0xFFFF }
  /-- Output curve id and key by class (R300); reset 0. -/
  outc : Vector (Byte × Option Key) 4 := Vector.replicate 4 (0, none)
  /-- User curves 16 to 47 by id, 257 points or no table (R297); reset no table. -/
  curves : Tab (List W16) := []
  /-- Active deck bank (R302); reset Table 11-4. -/
  active : Memory := []
  /-- Staging deck bank (R198); reset Table 11-4, DESIGN CHOICE [10]. -/
  staging : Memory := []
  /-- The staging bank's content is undefined since a flip, whose free value has this number (R200); reset none. -/
  stale : Option Nat := none
  /-- Render time of the boundary before the last (R200); reset 0. -/
  prevT : W48 := 0
  /-- Render time of the last boundary (R15); reset 0. -/
  lastT : W48 := 0
  /-- `now` of the last boundary (R308); reset 0. -/
  lastNow : Nat := 0
  /-- SYNC-locked timing in force (R308); reset false. -/
  syncLocked : Bool := false
  /-- `now` of the last accepted edge (R309); reset none. -/
  edgeAt : Option Nat := none
  /-- The last accepted intervals, ps, newest first, at most 8 (R309); reset none. -/
  intervals : List Nat := []
  /-- R309 places boundaries without accepted edges (R381); reset false. -/
  syncHold : Bool := false
  /-- The boot scene waits for its boundary (R89); reset false. -/
  bootScene : Bool := false
  deriving DecidableEq, Repr

/-- An armed flip (R200, R397). -/
structure Commit where
  /-- Apply WT C. -/
  c : W48
  /-- ASAP. -/
  asap : Bool
  /-- Its verb. -/
  tok : Tok
  /-- A boundary at or after C has passed without the flip (R200). -/
  missed : Bool
  deriving DecidableEq, Repr

/-- A deck load in progress (R199, R400). -/
structure Load where
  /-- First sector of the image. -/
  first : Nat
  /-- Sectors to copy. -/
  count : Nat
  /-- Sectors copied. -/
  done : Nat
  /-- A sector failed its CRC (R332). -/
  failed : Bool
  /-- Its verb. -/
  tok : Tok
  deriving DecidableEq, Repr

/-- Staged deck change (R198 to R202). -/
structure Stage where
  /-- Owner of the open stage; 0xFFFE for the service mailbox (15); reset closed. -/
  owner : Option W16 := none
  /-- `now` of the last staging verb from the owner (R201); reset 0. -/
  lastAt : Nat := 0
  /-- Armed commit (R200); reset none. -/
  commit : Option Commit := none
  /-- Loads not yet ended, in the order of their DECK.LOADs (R199); reset none. -/
  loads : List Load := []
  deriving DecidableEq, Repr

/-- One program or erase (R318). Data of the page kinds is taken when the operation runs. -/
inductive NvOp
  /-- ERASE-INTENT for a sector (R326). -/
  | intent (sec : Nat)
  /-- Erase of a sector. -/
  | erase (sec : Nat)
  /-- ERASE-DONE for a sector (R326). -/
  | done (sec : Nat)
  /-- Bytes within one page. -/
  | page (addr : Nat) (data : List Byte)
  /-- Page k of a counter bank, false A, true B (R339). -/
  | counterPage (bank : Bool) (k : Nat)
  /-- COUNTERS record of KIND 2 for a bank (R339). -/
  | counterRec (bank : Bool)
  /-- Page k of a deck area, false A, true B, from the active bank (R331). -/
  | deckPage (area : Bool) (k : Nat)
  /-- Page k of configuration copy A or B (R330). -/
  | cfgPage (copy : Bool) (k : Nat)
  /-- VALID of a configuration copy: the copy takes over (R324). -/
  | cfgValid (copy : Bool)
  /-- VALID of a headered sector (R323). -/
  | valid (sec : Nat)
  /-- The page of a security configuration copy (R451). -/
  | secPage (copy : Bool)
  /-- VALID of a security configuration copy (R324). -/
  | secValid (copy : Bool)
  /-- Copy of the latest COUNTERS record into a journal sector (R327). -/
  | carry (sec : Nat)
  deriving DecidableEq, Repr

/-- What a security configuration commit brings into force (R423, R438, R453, R456 to R461). -/
inductive SecChange
  | protect (v before : BitVec 2)
  | lock (on before : Bool)
  | newKey (key : List Byte) (kcv : W32) (rec : Nat)
  | verified (slot : Nat) (crc : W32)
  | rejected (slot : Nat)
  | pending (slot : Nat)
  | confirmed (slot : Nat)
  | rejectBoot (slot : Nat)
  | unpend
  | begun (slot : Nat)
  | touched (slot : Nat)
  | freset (on : Bool)
  deriving DecidableEq, Repr

/-- The jobs of R319 and Table 12-4, with what their end does. -/
inductive JobKind
  | nvWrite (addr : Nat) (data : List Byte) (asked : Nat)
  | nvErase (sec : Nat)
  | scene (slot : Nat) (count : Nat) (cut : Bool)
  | sceneErase (slot : Nat)
  | deckSave (area : Bool) (pages : Nat) (crcs : List W32) (cut : Bool)
  | counterSave
  | fwErase
  | fwPage (addr : Nat) (data : List Byte) (held : Nat)
  | config
  | curves
  | periodicSave
  | bankErase
  | journalSwitch
  | eraseDone
  | security (ch : SecChange)
  | factoryErase
  deriving DecidableEq, Repr

/-- A job: its operations left, in order (R318, R319). -/
structure Job where
  /-- What it is. -/
  kind : JobKind
  /-- User job, else housekeeping. -/
  user : Bool
  /-- Opcode for NV.STATUS; 0x00 for housekeeping. -/
  op : Byte
  /-- Operations left. -/
  ops : List NvOp
  /-- Its verb's result place, where a verb waits for it. -/
  tok : Option Tok
  /-- It has failed verification or been abandoned. -/
  failed : Bool
  deriving DecidableEq, Repr

/-- The save of R341: the 64 pages of bank A and the first COUNTERS record. -/
def firstSave : Job where
  kind := .periodicSave
  user := false
  op := 0
  ops := (List.range 64).map (NvOp.counterPage false) ++ [.counterRec false]
  tok := none
  failed := false

/-- A configuration copy in sector 0x02 or 0x03 (R324, R330). -/
structure CfgCopy where
  /-- GEN. -/
  gen : Nat
  /-- What it carries. -/
  settings : Settings
  deriving DecidableEq, Repr

/-- The scene buffer of SCENE.WRITE (R386). -/
structure SceneBuf where
  /-- Slot. -/
  slot : Byte
  /-- Owner. -/
  owner : W16
  /-- Default fade, ticks. -/
  deffade : W32
  /-- Zone records held, 16 bytes each. -/
  records : List Byte
  /-- `now` of the last chunk. -/
  lastAt : Nat
  deriving DecidableEq, Repr

/-- The curve buffer of CURVE.WRITE (R402). -/
structure CurveBuf where
  /-- Curve id. -/
  id : Byte
  /-- Owner. -/
  owner : W16
  /-- Points held. -/
  points : List W16
  /-- `now` of the last chunk. -/
  lastAt : Nat
  deriving DecidableEq, Repr

/-- The NV store, its jobs and the buffers that feed it (12). -/
structure Nv where
  /-- 1 MiB; the store (R313); reset blank, DESIGN CHOICE [11]. -/
  mem : Memory := []
  /-- Jobs in order of acceptance (R319); reset the save of R341: no COUNTERS record exists. -/
  jobs : List Job := [firstSave]
  /-- The operation in progress and whether it belongs to a user job (R318); reset none. -/
  running : Option (NvOp × Bool) := none
  /-- 48 bits; WT at the start of the operation in progress or of the last one (R24); reset 0. -/
  blockFrom : W48 := 0
  /-- `now` of the last operation's end (R318); reset none. -/
  lastEnd : Option Nat := none
  /-- 32 bits; highest JSEQ written (R325); reset 0. -/
  jseq : Nat := 0
  /-- Configuration copies A and B that read valid (R324); reset none. -/
  copyA : Option CfgCopy := none
  /-- See `copyA`. -/
  copyB : Option CfgCopy := none
  /-- The configuration being written, taken when its first page is programmed; reset none. -/
  writing : Option CfgCopy := none
  /-- GEN of the configuration copy in use (Table 16-2); reset 0. -/
  cfgGen : Nat := 0
  /-- The descriptor a DECK.SAVE is about to commit (R331); reset none. -/
  newDeck : Option (Bool × List W32) := none
  /-- Sectors repaired at the last boot (R329); reset none. -/
  repaired : List Nat := []
  /-- Scene buffer (R386); reset none. -/
  sceneBuf : Option SceneBuf := none
  /-- Curve buffer (R402); reset none. -/
  curveBuf : Option CurveBuf := none
  /-- Curve sectors to rewrite, with the `now` of the first replacement (R333); reset none. -/
  curveDirty : List (Nat × Nat) := []
  /-- The alternate counter bank is to be erased within 1 s of this `now` (R112); reset none. -/
  bankDue : Option Nat := none
  deriving DecidableEq, Repr

/-- What the debounce keeps for one cell (R345 to R348). -/
structure CellFail where
  /-- Map byte (Table 13-1). -/
  map : Byte := 0
  /-- Consecutive disagreeing valid observations, per channel. -/
  n0 : Nat := 0
  /-- See `n0`. -/
  n1 : Nat := 0
  /-- See `n0`. -/
  n2 : Nat := 0
  /-- See `n0`. -/
  n3 : Nat := 0
  /-- Consecutive invalid words. -/
  bad : Nat := 0
  /-- FKIND of the latest valid word whose lowest fault is that channel, since the map bit set (R346). -/
  k0 : Option (BitVec 2) := none
  /-- See `k0`. -/
  k1 : Option (BitVec 2) := none
  /-- See `k0`. -/
  k2 : Option (BitVec 2) := none
  /-- See `k0`. -/
  k3 : Option (BitVec 2) := none
  /-- TEMP of the last valid word is 0b10 or 0b11. -/
  hot : Bool := false
  /-- SUPPLY of the last valid word. -/
  supply : Bool := false
  /-- WDOG of the last valid word. -/
  wdog : Bool := false
  deriving DecidableEq, Repr

/-- The failure map and EVT.FAIL (13). -/
structure Fail where
  /-- Debounce and map by g (R343, R345); reset 0x00. -/
  cells : Tab CellFail := []
  /-- The map in force since the last boundary, by g (R20, R411); reset 0x00. -/
  map : Tab Byte := []
  /-- 16 bits; pages with a change in force since the last EVT.FAIL sent in full (R353); reset 0. -/
  mask : W16 := 0
  /-- 16 bits; those whose change came into force after the EVT.FAIL now queued was built (R355); reset 0. -/
  late : W16 := 0
  /-- 16 bits; pages whose latest change waits for the boundary from which it takes effect (R20, R354); reset 0. -/
  coming : W16 := 0
  /-- FSEQ of the latest change in force by port (R354); reset 0. -/
  fseq : Vector Byte 4 := Vector.replicate 4 0
  /-- FSEQ of the latest change that waits for its boundary, by port (R354); reset 0. -/
  fseqNext : Vector Byte 4 := Vector.replicate 4 0
  /-- `now` of the map update plus h, where an EVT.FAIL is wanted (R354); reset none. -/
  due : Option Nat := none
  /-- A map update waits for its boundary (R357); reset false. -/
  fresh : Bool := false
  /-- Render time of the boundary of the latest change (R357); reset 0. -/
  stamp : W48 := 0
  /-- `now` of the end of the last attempt of the latest EVT.FAIL (R354); reset none. -/
  lastEnd : Option Nat := none
  /-- The queued EVT.FAIL is to be rebuilt when the NV block ends (R23, R355); reset false. -/
  redo : Bool := false
  /-- UNREACH is to be set again from the port state at the next boundary, by port (R281); reset 0. -/
  unreach : BitVec 4 := 0
  deriving DecidableEq, Repr

/-- Usage counters (R338 to R341). -/
structure Counters where
  /-- 32 bits each; on-time by g, 4 s units (R338); reset 0. -/
  onTime : Tab Nat := []
  /-- 2 bits each; residues (R338); reset 0. -/
  resid : Tab Nat := []
  /-- 32 bits each; port cycles (R338); reset 0. -/
  cycles : Vector Nat 4 := Vector.replicate 4 0
  /-- 32 bits; power-on time, 4 s units (R338); reset 0. -/
  pon : Nat := 0
  /-- 32 bits; power-up count (R338); reset 1: this boot. -/
  pup : Nat := 1
  /-- COARSE (R116); reset clear. -/
  coarse : Bool := false
  /-- COUNTERS_LOST at the last boot (R112); reset clear. -/
  lost : Bool := false
  /-- SINCE of a summary record, 4 s units (Table 12-7); reset 0. -/
  since : Nat := 0
  /-- 48 bits; WT of the newest COUNTERS record, 0 none (R413); reset 0. -/
  saveWt : W48 := 0
  /-- Power-on time at the last KIND 0 or 2 record (R340); reset 0. -/
  ponSaved : Nat := 0
  /-- The bank of the newest record, false A (Table 12-7); none without a record; reset none. -/
  bank : Option Bool := none
  deriving DecidableEq, Repr

/-- An outstanding nonce (R435). -/
structure Nonce where
  /-- The source it was issued to. -/
  src : W16
  /-- Its value. -/
  value : W64
  /-- `now` of issue. -/
  at_ : Nat
  deriving DecidableEq, Repr

/-- Security configuration and keys (17). -/
structure Security where
  /-- 2 bits; NVPROT (Table 12-3); reset 0b00. -/
  prot : BitVec 2 := 0
  /-- LOCKED (R445); reset OPEN. -/
  locked : Bool := false
  /-- 32 bits; KGEN (Table 17-4); reset 0. -/
  kgen : Nat := 0
  /-- 32 bits; KCV (Table 17-4); reset 0. -/
  kcv : W32 := 0
  /-- KREC; none 0xFF (Table 17-4); reset 0xFF. -/
  krec : Option Nat := none
  /-- The site key in force, 16 bytes (R452); reset none. -/
  key : Option (List Byte) := none
  /-- FRESET (Table 17-4); reset 0. -/
  freset : Bool := false
  /-- CONFIRMED: 0 ROM, 1 A, 2 B (Table 17-4); reset 0. -/
  confirmed : Nat := 0
  /-- PENDING: 0 none, 1 A, 2 B (Table 17-4); reset 0. -/
  pending : Nat := 0
  /-- VERIFIED bits (Table 17-4); reset 0. -/
  verified : BitVec 2 := 0
  /-- REJECT bits (Table 17-4); reset 0. -/
  reject : BitVec 2 := 0
  /-- ACRC (Table 17-4); reset 0. -/
  acrc : W32 := 0
  /-- BCRC (Table 17-4); reset 0. -/
  bcrc : W32 := 0
  /-- GEN of the copy in use (R324); reset 0. -/
  gen : Nat := 0
  /-- Which copy is in use, false A (R324); reset none. -/
  copy : Option Bool := none
  /-- A factory reset is being carried out: SVC is silent until its reset (R225, R456); reset false. -/
  factory : Bool := false
  /-- Outstanding nonces, oldest first, at most 4 (R435); reset none. -/
  nonces : List Nonce := []
  deriving DecidableEq, Repr

/-- An open firmware session (R431 to R433). -/
structure FwSession where
  /-- Target slot, 1 A, 2 B. -/
  slot : Nat
  /-- Owner. -/
  owner : W16
  /-- Image size. -/
  size : Nat
  /-- Bytes held. -/
  held : Nat
  /-- Bytes of the page not yet programmed. -/
  buf : List Byte
  /-- `now` of the last chunk. -/
  lastAt : Nat
  deriving DecidableEq, Repr

/-- A verification in progress (R433). -/
structure Verify where
  /-- Slot verified, 1 A, 2 B. -/
  slot : Nat
  /-- SIZE of its session. -/
  size : Nat
  /-- Its verb. -/
  tok : Tok
  deriving DecidableEq, Repr

/-- Firmware (16, 17). -/
structure Firmware where
  /-- What runs: 0 ROM, 1 A, 2 B (R430); reset 0. -/
  run : Nat := 0
  /-- The running image is UNCONFIRMED (R461); reset false. -/
  trial : Bool := false
  /-- A keystone was accepted since step 15 (R461); reset false. -/
  sawKey : Bool := false
  /-- A port condition of R461 has held since step 15; reset false. -/
  sawPort : Bool := false
  /-- Firmware fallback at the last boot (EVT.BOOT b4); reset false. -/
  fellBack : Bool := false
  /-- Open session (R431); reset none. -/
  session : Option FwSession := none
  /-- Verification in progress (R433); reset none. -/
  verify : Option Verify := none
  /-- Slots with a begun or abandoned image, by bit (INCOMPLETE, Table 16-5); reset 0. -/
  partials : BitVec 2 := 0
  /-- SIZE of the image in slot A and slot B (FW.INFO); reset 0. -/
  sizeA : Nat := 0
  /-- See `sizeA`. -/
  sizeB : Nat := 0
  deriving DecidableEq, Repr

/-- An event in its holdoff (R356). -/
structure PEvent where
  /-- Opcode 0xF1 to 0xF4. -/
  op : Byte
  /-- Port, for EVT.PORT. -/
  port : Nat
  /-- Fields of Table 16-9, taken at the occurrence. -/
  fields : List Byte
  /-- WT of the occurrence (R357). -/
  stamp : W48
  /-- `now` of the occurrence. -/
  at_ : Nat
  /-- `now` at which its holdoff ends. -/
  due : Nat
  deriving DecidableEq, Repr

/-- A mark for an event that found no place (R174). -/
structure Mark where
  /-- Opcode. -/
  op : Byte
  /-- Port, for EVT.PORT. -/
  port : Nat
  /-- WT of the latest occurrence it reports. -/
  stamp : W48
  /-- Cause or reason byte of the latest occurrence. -/
  cause : Byte
  /-- `now` of the latest occurrence. -/
  at_ : Nat
  deriving DecidableEq, Repr

/-- Events before the outbound queue (R354, R356). -/
structure Events where
  /-- Events in their holdoff, oldest first; reset none: an unaddressed node with report address 0 [13]. -/
  held : List PEvent := []
  /-- Marks (R174); reset none. -/
  marks : List Mark := []
  /-- EVT.BOOT fields of the last boot, for a marked event; reset empty. -/
  bootFields : List Byte := []
  deriving DecidableEq, Repr

/-- The node. -/
structure State where
  /-- Elapsed time, ps: the clock every limit of the spec is counted in [1]; reset 0. -/
  now : Nat := 0
  /-- Keep-alive domain. -/
  ka : KeepAlive := {}
  /-- Power, clocks, boot and pins. -/
  pw : Power := {}
  /-- Persistent settings in force. -/
  cfg : Settings := {}
  /-- Identity. -/
  node : Node := {}
  /-- Spanline. -/
  span : Span := {}
  /-- Clauses. -/
  cl : Clauses := {}
  /-- Service port. -/
  svc : Svc := {}
  /-- String ports. -/
  ports : Vector PortState 4 := Vector.replicate 4 {}
  /-- Relay mode. -/
  relay : Relay := {}
  /-- Render engine. -/
  rd : Render := {}
  /-- Staged deck change. -/
  st : Stage := {}
  /-- NV store. -/
  nv : Nv := {}
  /-- Failure map. -/
  fail : Fail := {}
  /-- Usage counters. -/
  cnt : Counters := {}
  /-- Security. -/
  sec : Security := {}
  /-- Firmware. -/
  fw : Firmware := {}
  /-- Events. -/
  ev : Events := {}
  /-- THE MODEL'S OWN: free values drawn so far [14]; reset 0, DESIGN CHOICE. -/
  draws : Nat := 0
  /-- THE BLOCK'S QUEUE of waiting commands, first in, first out; reset empty. -/
  pending : List Instr := []
  deriving DecidableEq, Repr

/-- An as-shipped HZ4K right after its first boot (Table 3-7), no command waiting. -/
def State.reset : State := {}

end Sys2Proof.Machine
end

