-- ==== Sys2Proof/Machine/Operands.lean ====
section
/-!
DEFINITION. The operand forms the verbs share: status codes (Table 7-3), the checks of Table 14-1 and R393,
zone and channel selectors, and the parameters of the family members (Table 0-1).
-/
namespace Sys2Proof.Machine

/-- OK. -/
def stOk : Byte := 0x00
/-- DONE_LATE. -/
def stLate : Byte := 0x01
/-- BAD_OPCODE. -/
def stBadOpcode : Byte := 0x10
/-- BAD_LENGTH. -/
def stBadLength : Byte := 0x11
/-- BAD_ARG. -/
def stBadArg : Byte := 0x12
/-- RANGE. -/
def stRange : Byte := 0x13
/-- BUSY_NV. -/
def stBusyNv : Byte := 0x20
/-- NV_PROTECTED. -/
def stNvProtected : Byte := 0x21
/-- NV_FAILED. -/
def stNvFailed : Byte := 0x22
/-- PARTIAL. -/
def stPartial : Byte := 0x23
/-- AUTH_REQUIRED. -/
def stAuthRequired : Byte := 0x30
/-- AUTH_FAILED. -/
def stAuthFailed : Byte := 0x31
/-- LOCKED. -/
def stLocked : Byte := 0x32
/-- STALE_SEQ. -/
def stStaleSeq : Byte := 0x40
/-- STALE_TIME. -/
def stStaleTime : Byte := 0x41
/-- NO_STAGE. -/
def stNoStage : Byte := 0x42
/-- STAGE_CONFLICT. -/
def stStageConflict : Byte := 0x43
/-- PORT_DOWN. -/
def stPortDown : Byte := 0x50
/-- NO_CELL. -/
def stNoCell : Byte := 0x51
/-- NOT_SUPPORTED. -/
def stNotSupported : Byte := 0x60
/-- LOW_RESERVE. -/
def stLowReserve : Byte := 0x70

/-- The first check that fails, in order; OK where none does (R181: the first failure ends processing). -/
def firstBad : List (Bool × Byte) → Byte
  | [] => stOk
  | (bad, st) :: t => if bad then st else firstBad t

/-- The first status of a list that is not OK. -/
def firstStatus : List Byte → Byte
  | [] => stOk
  | st :: t => if st = stOk then firstStatus t else st

/-- Table 14-1: a curve id 12 to 15 is BAD_ARG, above 47 RANGE. -/
def curveStatus (c : Byte) : Byte :=
  firstBad [(12 ≤ c.toNat && c.toNat ≤ 15, stBadArg), (decide (c.toNat > 47), stRange)]

/-- Table 14-1: a channel mask with reserved bits (R361) or no channel is BAD_ARG. -/
def maskStatus (m : Byte) : Byte := firstBad [(!highZero 4 m || m == 0, stBadArg)]

/-- A WT apply time against the present WT (R189): LOST and too late STALE_TIME, beyond the horizon RANGE. -/
def timeStatus (lost : Bool) (w a : Nat) : Byte :=
  firstBad [(lost, stStaleTime), (decide (w > a + Config.lateLimit), stStaleTime),
    (decide (a > w + Config.horizon), stRange)]

/-- String-port count (Table 0-1). -/
def Member.ports : Member → Nat
  | .hz064 => 1
  | .hz256 => 2
  | .hz1k => 4
  | .hz4k => 4

/-- Cells per port (Table 0-1). -/
def Member.cells : Member → Nat
  | .hz064 => 64
  | .hz256 => 128
  | .hz1k => 256
  | .hz4k => 1024

/-- NV size in KiB (Table 0-1). -/
def Member.nvKb : Member → Nat
  | .hz064 => 128
  | .hz256 => 256
  | .hz1k => 512
  | .hz4k => 1024

/-- SRAM size in KiB (Table 0-1). -/
def Member.ramKb : Member → Nat
  | .hz064 => 48
  | .hz256 => 80
  | .hz1k => 160
  | .hz4k => 320

/-- RF harvester and relay mode (Table 0-1): both or neither. -/
def Member.harvester : Member → Bool
  | .hz064 => false
  | .hz256 => false
  | .hz1k => true
  | .hz4k => true

/-- MEMBER of ID.READ (Table 14-2). -/
def Member.code : Member → Byte
  | .hz064 => 1
  | .hz256 => 2
  | .hz1k => 3
  | .hz4k => 4

/-- R393: a port field above 3 is RANGE, a port the member lacks NOT_SUPPORTED (R4). -/
def portStatusOf (m : Member) (p : Byte) : Byte :=
  firstBad [(decide (p.toNat > 3), stRange), (decide (p.toNat ≥ m.ports), stNotSupported)]

/-- A port mask of [3:0] that names a port the member lacks (R4). -/
def maskBeyond (m : Member) (mask : Byte) : Bool := decide (mask.toNat % 16 ≥ 2 ^ m.ports)

/-- The port a checked port field names. -/
def portOf (p : Byte) : Port := ⟨p.toNat % 4, Nat.mod_lt _ (by decide)⟩

/-- The four ports in order. -/
def allPorts : List Port := [0, 1, 2, 3]

/-- The zones of a selector: one, or all 256 (Table 14-1). -/
def zonesOf (z : Byte) : List Nat := if z = 0xFF then List.range 256 else [z.toNat]

/-- The channels of a mask. -/
def chansOf (m : Byte) : List Nat := (List.range 4).filter fun c => m.getLsbD c

/-- Global cell index g = port × 1024 + position. -/
def cellIndex (p : Port) (pos : Nat) : Nat := 1024 * p.val + pos

end Sys2Proof.Machine
end

