-- ==== Sys2Proof/Machine/Flags.lean ====
section
/-!
DEFINITION. Every flag and status field the spec has the node compute: WT quality (Table 7-5), NODE.STATUS
FLAGS (Table 14-2), PFLAGS and PLATCH (Tables 14-4, 16-3), SVSTAT and ATTN_N (Table 8-3, R221), the thermal
factor (Table 3-8), the port-state bytes and the counts of FAIL.SUMMARY (Table 15-5).
-/
namespace Sys2Proof.Machine

/-- WT as a number. -/
def wtN (s : State) : Nat := s.ka.wt.toNat

/-- The RC-fallback condition of POOR, in use or held until a keystone (R69, R70). -/
def poor (s : State) : Bool := s.ka.rc || s.ka.poorHeld

/-- A keystone was accepted within the keystone window (R193). -/
def keyInWindow (s : State) : Bool :=
  s.ka.good && match s.ka.ksAt with
    | some a => decide (s.now < a + Config.tickPs * (Config.keystoneWindow + 1))
    | none => false

/-- WT quality as encoded in Table 14-1: 0 GOOD, 1 FREE, 2 POOR, 3 LOST; the worst that applies (R193). -/
def wtq (s : State) : Byte :=
  if s.ka.lost then 3 else if poor s then 2 else if keyInWindow s then 0 else 1

/-- The node's own address; 0x0000 unaddressed. -/
def unaddressed (s : State) : Bool := s.cfg.addr == 0

/-- The NP is blocked by a program or erase (R23). -/
def npBlocked (s : State) : Bool := s.nv.running.isSome

/-- STATE of PORT.STATUS (Table 15-4). -/
def PState.code : PState → Byte
  | .off => 0
  | .ok => 1
  | .broken _ => 2
  | .nochain => 3
  | .relay => 4

/-- K of PORT.STATUS: k in BROKEN@k, 0 otherwise. -/
def PState.k : PState → Nat
  | .broken k => k
  | _ => 0

/-- The two-bit port code of the kind-3 roll-call reply (Table 14-4). -/
def PState.code2 : PState → Nat
  | .off => 0
  | .ok => 1
  | .relay => 1
  | .broken _ => 2
  | .nochain => 3

/-- A port that is neither off nor S0 in relay mode holds map entries (R343). -/
def PState.mapped : PState → Bool
  | .off => false
  | .relay => false
  | _ => true

/-- BROKEN@k or NOCHAIN. -/
def PState.isDown : PState → Bool
  | .broken _ => true
  | .nochain => true
  | _ => false

/-- A port in OK or BROKEN@k: it sends DATA and KEEP frames (R269, R79). -/
def PState.running : PState → Bool
  | .ok => true
  | .broken _ => true
  | _ => false

/-- The state of port `p`. -/
def pstate (s : State) (p : Port) : PState := (s.ports.get p).state

/-- A wink is running at WT `t` (R377). -/
def winking (s : State) (t : Nat) : Bool :=
  s.node.winkFrom.toNat ≤ t && t < s.node.winkFrom.toNat + 4096 * s.node.winkSecs

/-- REST is permitted: the permission NODE.REST stores (R368) [40]. -/
def restPermitted (s : State) : Bool := s.cfg.restOk

/-- FLAGS of NODE.STATUS (Table 14-2). -/
def nodeFlags (s : State) : Nat :=
  flagBits [s.pw.thermal, s.node.contest, s.pw.reserveLow, s.st.owner.isSome, s.relay.on, s.sec.locked,
    restPermitted s, unaddressed s, s.pw.lampen, winking s (wtN s)]

/-- The reserve is present and connected (R96). -/
def reserveUp (s : State) : Bool := s.ka.present && !s.ka.darkLatch && !s.ka.hardDisc && !s.ka.oc

/-- The charger delivers current: precharge, constant current or constant voltage. -/
def charging (s : State) : Bool :=
  match s.ka.chg with
  | .precharge => true
  | .constantCurrent => true
  | .constantVoltage => true
  | _ => false

/-- The harvester runs: cold start, boost or its sampling stop. -/
def harvesting (s : State) : Bool := s.ka.hst != .stopped

/-- VCHG in mV (Table 16-3). -/
def vchgMv (r : ReserveCfg) : Nat := if r.vchg = 0 then 4100 else 4200

/-- The dark-cut threshold in mV (Table 16-3). -/
def darkcutMv (r : ReserveCfg) : Nat := 3000 + 50 * r.darkcut.toNat

/-- Where the boost converter's output goes (R101). -/
inductive BoostOut
  | off
  | vres
  | vka
  | held
  deriving DecidableEq, Repr

/-- Charging is allowed: a reserve is present, the die within its limits, the charge not terminated (R101, R105). -/
def chargeAllowed (s : State) : Bool := s.ka.present && !s.ka.tempStop && s.ka.chg != .terminated

/-- The boost converter delivers into VRES while it may charge, else into VKA, and holds while VKA stands at 1.85 V or
above; below 1.60 V it does not run (R101). -/
def boostOut (s : State) : BoostOut :=
  if s.ka.hst ≠ .boost ∨ s.pw.vka < 1600 then .off
  else if chargeAllowed s then .vres
  else if 1850 ≤ s.pw.vka then .held else .vka

/-- PFLAGS (Table 14-4, kind 2). -/
def pflags (s : State) : Byte :=
  BitVec.ofNat 8 (flagBits [s.pw.vioLow, s.pw.reserveLow, s.ka.oc, s.pw.thermal, charging s, harvesting s,
    s.ka.present, s.pw.lampen])

/-- PLATCH of POWER.STATUS (Table 16-3). -/
def platch (s : State) : Byte :=
  BitVec.ofNat 8 (flagBits [s.ka.oc, s.ka.hardSince, s.ka.darkSince, s.ka.tempStop])

/-- CHG of POWER.STATUS (Table 16-3). -/
def Chg.code : Chg → Byte
  | .off => 0
  | .precharge => 1
  | .constantCurrent => 2
  | .constantVoltage => 3
  | .terminated => 4

/-- VRES as reported: 0 with no reserve present (Tables 14-4, 16-3). -/
def vresShown (s : State) : Nat := if s.ka.present then s.pw.vres else 0

/-- Thermal factor F from the averaged temperature in eighths of a degree (Table 3-8). -/
def thermalFactor (t8 : Int) : Nat :=
  if t8 < 1000 then 65536
  else if t8 < 1080 then 65536 - 32768 * (t8 - 1000).toNat / 80
  else 32768

/-- The SVC port answers and drives ATTN_N: after step 15 and outside SAVE (R221). -/
def svcAlive (s : State) : Bool :=
  match s.pw.mode with
  | .run => true
  | .rest => true
  | .shelf => true
  | _ => false

/-- ATTN_N asserted (R221). -/
def attn (s : State) : Bool :=
  svcAlive s && (
    (match s.svc.out with
      | some im => if im.event then !s.svc.ctl.getLsbD 5 else !s.svc.ctl.getLsbD 4
      | none => false)
    || (s.svc.cause.getLsbD 2 && !s.svc.ctl.getLsbD 6)
    || ((s.svc.cause.getLsbD 3 || s.svc.cause.getLsbD 4) && !s.svc.ctl.getLsbD 7))

/-- An accepted NV job has steps still to run (Table 8-3). -/
def nvBusy (s : State) : Bool := s.nv.running.isSome || s.nv.jobs.any fun j => !j.ops.isEmpty

/-- SVSTAT (Table 8-3). -/
def svstat (s : State) : Byte :=
  BitVec.ofNat 8 (flagBits [s.svc.oe, s.svc.pe, s.svc.fe, s.svc.col, attn s, s.svc.out.isSome,
    !s.svc.submitted, nvBusy s])

/-- SVRLEN: outbound bytes not yet read (Table 8-2). -/
def svrlen (s : State) : Nat :=
  match s.svc.out with
  | some im => im.bytes.length
  | none => 0

/-- What one byte of a read of a register other than SVDATA carries (Table 8-2, R212). -/
def svRegister (s : State) (r : Nat) : Byte :=
  if r = 0 then 0x5A
  else if r = 1 then svstat s
  else if r = 3 then BitVec.ofNat 8 s.svc.image.length
  else if r = 4 then BitVec.ofNat 8 (svrlen s)
  else if r = 5 then s.svc.cause
  else if r = 6 then s.svc.seqLow
  else if r = 7 then s.svc.ctl
  else 0x00

/-- The debounce record of an unlisted cell: nothing observed, map 0x00. -/
def cellBlank (_ : Nat) : CellFail := {}

/-- What an unlisted map entry reads as. -/
def mapBlank (_ : Nat) : Byte := 0

/-- The map byte in force at global index `g` (R343, R411): 0x00 where no entry exists. -/
def mapByte (s : State) (g : Nat) : Byte :=
  let ps := s.ports.get (portOf (BitVec.ofNat 8 (g / 1024)))
  if g < 4096 ∧ ps.state.mapped = true ∧ g % 1024 < ps.cfg.n then tget mapBlank s.fail.map g else 0

/-- CHFAULT of a map byte. -/
def chfault (b : Byte) : Nat := b.toNat % 16
/-- UNREACH of a map byte. -/
def unreach (b : Byte) : Bool := b.getLsbD 7
/-- STALE of a map byte. -/
def stale (b : Byte) : Bool := b.getLsbD 6
/-- FKIND of a map byte. -/
def fkind (b : Byte) : Nat := b.toNat / 16 % 4

/-- Map entries of port `p` that satisfy `f`. -/
def countMap (s : State) (p : Port) (f : Byte → Bool) : Nat :=
  ((s.fail.map.filter fun e => decide (e.1 / 1024 = p.val)).filter fun e => f (mapByte s e.1)).length

/-- Cells of port `p` that are not UNREACH and whose last valid word satisfies `f` (R348). -/
def countCells (s : State) (p : Port) (f : CellFail → Bool) : Nat :=
  if (pstate s p).mapped then
    (s.fail.cells.filter fun e =>
      decide (e.1 / 1024 = p.val) && decide (e.1 % 1024 < (s.ports.get p).cfg.n)
        && !unreach e.2.map && f e.2).length
  else 0

/-- Cells of port `p` with CHFAULT not 0. -/
def faultyOf (s : State) (p : Port) : Nat := countMap s p fun b => chfault b != 0
/-- Cells of port `p` with UNREACH. -/
def unreachOf (s : State) (p : Port) : Nat := countMap s p unreach
/-- Cells of port `p` with STALE. -/
def staleOf (s : State) (p : Port) : Nat := countMap s p stale

/-- The 13 bytes of FAIL.SUMMARY for one port (Table 15-5). -/
def summaryPort (s : State) (p : Port) : List Byte :=
  (pstate s p).code :: leBytes 2 (faultyOf s p) ++ leBytes 2 (unreachOf s p) ++ leBytes 2 (staleOf s p)
    ++ leBytes 2 (countCells s p (·.hot)) ++ leBytes 2 (countCells s p (·.supply))
    ++ leBytes 2 (countCells s p (·.wdog))

/-- FAIL.SUMMARY's 52 bytes (Table 15-5). -/
def summary (s : State) : List Byte := allPorts.flatMap (summaryPort s)

/-- The sum of a count over the ports. -/
def overPorts (f : Port → Nat) : Nat := f 0 + f 1 + f 2 + f 3

/-- C or W of PORT.STATUS: 0xFFFF if none. -/
def orFFFF (v : Option Nat) : List Byte := leBytes 2 (v.getD 0xFFFF)

/-- Integrated bias connected: GP2 latched low, VIN present, not in external-transceiver mode (R39, R58, R59). -/
def biasOn (s : State) : Bool := !s.pw.gp2 && !s.pw.extOn && decide (s.pw.vin > 0)

/-- LINE of SPAN.CFG (Table 16-7). -/
def lineByte (s : State) : Byte := BitVec.ofNat 8 (flagBits [s.pw.termOn, biasOn s, s.pw.extOn])

/-- A rate within the band of arbitrated frames: the node transmits at no other (R133). -/
def clampRate (r : Nat) : Nat := max 50000 (min 1050000 r)

/-- The held rate, or the default rate where no frame has qualified since boot or wake (R133). -/
def heldRate (s : State) : Nat := clampRate (s.span.held.getD s.cfg.defRate)

/-- The node is in RUN: clauses are executed there only (R365). -/
def inRun (s : State) : Bool := s.pw.mode == .run

/-- FOSC runs and has locked (R68). -/
def foscLocked (s : State) : Bool := s.pw.fosc && decide (s.pw.lockAt ≤ s.now)

/-- VREG in mV (Table 3-1). -/
def vregMv (s : State) : Nat := if s.pw.rails then 1800 else 0

/-- VCORE in mV (Table 3-1): retention in REST and SHELF. -/
def vcoreMv (s : State) : Nat :=
  if !s.pw.rails then 0 else if s.pw.mode = .rest ∨ s.pw.mode = .shelf then 700 else 900

/-- Ports in BROKEN@k or NOCHAIN (Table 14-4, kind 1, PORTS [3:0]). -/
def downPorts (s : State) : Nat := flagBits (allPorts.map fun p => (pstate s p).isDown)

end Sys2Proof.Machine
end

