-- ==== Sys2Proof/Machine/Bus.lean ====
section
/-!
DEFINITION. The Spanline transmitter (05, 06): character times, the geometry of a roll-call, which frame may start on an idle
bus and its start. Whatever hands a frame to the transmitter ends in `sendIdle`: on an idle bus it starts at once (R152).
-/
namespace Sys2Proof.Machine

/-! ## Bits and characters -/

/-- Picoseconds of `n` bits at a rate. -/
def bitsPs (rate n : Nat) : Nat := n * 1000000000000 / rate

/-- Half a bit at a rate. -/
def halfBit (rate : Nat) : Nat := 1000000000000 / (2 * rate)

/-- Characters in bits. -/
def charBits (n : Nat) : Nat := 11 * n

/-- Classes of a measured SYNC rate (Table 5-4). -/
inductive SyncClass
  | arbitrated
  | wakeBand
  | noFrame
  deriving DecidableEq, Repr

/-- The class of a SYNC rate in bit/s (R130). -/
def syncClass (rate : Nat) : SyncClass :=
  if 50000 ≤ rate ∧ rate ≤ 1050000 then .arbitrated
  else if 18800 ≤ rate ∧ rate ≤ 19600 then .wakeBand
  else .noFrame

/-! ## Roll-call geometry (R165, R166) -/

/-- LEN of a reply of a kind (Table 6-7). -/
def rollBodyLen (kind : Nat) : Nat := if kind = 1 then 11 else if kind = 2 then 9 else if kind = 3 then 15 else 3

/-- Slot pitch in characters (Table 6-7). -/
def rollPitch (kind : Nat) : Nat := rollBodyLen kind + 12

/-- TL of a roll-call (R166). -/
def rollTl (r : RollCall) : Nat := r.t0 + bitsPs r.rate (charBits (4 + r.count * rollPitch r.kind))

/-- The start time of slot `k`, from the latest anchor (R166, R169), and the bits from that anchor. -/
def slotStart (r : RollCall) (k : Nat) : Nat × Nat :=
  let b := match r.anchorSlot with
    | none => charBits (3 + k * rollPitch r.kind)
    | some j => charBits (2 + (k - j - 1) * rollPitch r.kind)
  (r.anchor + bitsPs r.rate b, b)

/-! ## The next frame (R141, R152, R156, R167, R172) -/

/-- The rate of a frame: its own where it has one, else the held rate; never outside the arbitrated band (R133). -/
def txRate (f : OutFrame) (s : State) : Nat := if f.rate = 0 then heldRate s else clampRate f.rate

/-- No attempt is in progress and nothing forbids one: RUN, FOSC locked, no holdoff of the wake band (R68, R141). -/
def mayTransmit (s : State) : Bool := inRun s && foscLocked s && s.span.wakeHold.isNone && s.span.tx.isNone

/-- Queued frames are held: in the slot window of a roll-call, and until the node's late replies are out (R167, R172). -/
def rollHolds (s : State) : Bool :=
  !s.span.lates.isEmpty || match s.span.roll with
    | none => false
    | some r => decide (s.now < rollTl r) || (r.slot.isSome && r.phase != .slotSent)

/-- The late replies hold as everything else does from T0 to TL of a roll-call (R167). -/
def windowHolds (s : State) : Bool :=
  match s.span.roll with
  | none => false
  | some r => decide (s.now < rollTl r)

/-- The frame the node may send at all: an unaddressed node sends claim replies only (R147). -/
def sendable (s : State) (f : OutFrame) : Bool := !unaddressed s || f.src == 0xFFFF

/-- SRC as it stands when the attempt starts: the node's own address (R147). -/
def ownSrc (s : State) (f : OutFrame) : OutFrame := if unaddressed s then f else { f with src := s.cfg.addr }

/-- The frame in its attempt. -/
def txFrame (s : State) : Option OutFrame :=
  match s.span.tx with
  | some .queue => s.span.outQ.head?
  | some .slot => s.span.roll.bind (·.frame)
  | some .late => s.span.lates.head?.map (·.frame)
  | none => none

/-- One more attempt (R156). -/
def tried (f : OutFrame) : OutFrame := { f with attempts := f.attempts + 1 }

/-- The first late reply offered, and the others in their order. -/
def takeLate : List LateReply → Option (LateReply × List LateReply)
  | [] => none
  | l :: t =>
    if l.offered then some (l, t)
    else match takeLate t with
      | some (x, r) => some (x, l :: r)
      | none => none

/-- The late reply first offered; one in contention stands at the head of the list. -/
def nextLate (s : State) : Option LateReply := (takeLate s.span.lates).map (·.1)

/-- The frame whose attempt starts next on an idle bus, with where it stands: a late reply that is offered, else the head of
the queue. -/
def nextStart (s : State) : Option (Sending × OutFrame) :=
  match nextLate s with
  | some l => if windowHolds s then none else some (.late, l.frame)
  | none =>
    if rollHolds s then none
    else match s.span.outQ with
      | [] => none
      | f :: _ => some (.queue, f)


/-- An attempt of the transmitter begins now. -/
def beginTx (k : Sending) (s : State) : State := { s with span.tx := some k, span.txAt := s.now, span.idle := false }

/-- A late reply at the start of an attempt. -/
def LateReply.begin (s : State) (l : LateReply) : LateReply :=
  { l with frame := tried (ownSrc s l.frame), begunAt := some (l.begunAt.getD s.now) }

/-- The next frame's attempt starts, if there is one. A late reply goes to the head of its list. -/
def startNext (s : State) : State :=
  match nextStart s with
  | none => s
  | some (.queue, f) => beginTx .queue { s with span.outQ := tried (ownSrc s f) :: s.span.outQ.drop 1 }
  | some _ =>
    match takeLate s.span.lates with
    | some (l, t) => beginTx .late { s with span.lates := l.begin s :: t }
    | none => s

/-- A frame handed over while the bus is idle starts at once (R152). -/
def sendIdle (s : State) : State := if s.span.idle && mayTransmit s then startNext s else s

end Sys2Proof.Machine
end

