-- ==== Sys2Proof/Machine/Ops.lean ====
section
/-!
DEFINITION. The named operations every meaning is built from: elapsed time and WT, random draws, the node's own
SEQ, the outbound queue and the service mailbox, late results, events before their queue, and the bytes of the
NV store and the deck banks.
-/
namespace Sys2Proof.Machine

/-- Answer the next state. -/
def go (s : State) : Host.Outcome State Fault Refusal := .next s

/-! ## Time -/

/-- WT counts in every state but DARKCUT (R13). -/
def wtRuns (m : PMode) : Bool :=
  match m with
  | .darkcut => false
  | _ => true

/-- The corrections that fall in the next `n` tick periods of a slew (R195). -/
def slewSteps (n : Nat) (k : KeepAlive) : Nat := min ((k.slewPhase + n) / 64) k.slew.natAbs

/-- One correction of the slew: a tick more or a tick less (R195). -/
def slewUnit (k : KeepAlive) : Int := if k.slew > 0 then 1 else -1

/-- `n` tick periods of the WT counter with its slew: one tick more or less in every 64 periods until the
rest of the slew is 0 (R195). -/
def tickN (n : Nat) (k : KeepAlive) : KeepAlive :=
  if k.slew = 0 then { k with wt := k.wt + BitVec.ofNat 48 n, slewPhase := 0 }
  else
    let d : Int := slewUnit k * slewSteps n k
    { k with
      wt := BitVec.ofInt 48 (k.wt.toNat + n + d)
      slew := k.slew - d
      slewPhase := if k.slew = d then 0 else (k.slewPhase + n) % 64 }

/-- The slew corrections of `n` tick periods that begin at `base`, newest first. -/
def slewJumps (base n : Nat) (k : KeepAlive) : List Jump :=
  (List.range (slewSteps n k)).reverse.map fun i =>
    { at_ := base + Config.tickPs * (64 * (i + 1) - k.slewPhase), size := slewUnit k, step := false }

/-- The changes of WT that are kept (R12): the latest 16. -/
def keepJumps (new old : List Jump) : List Jump := (new ++ old).take 16

/-- `dt` picoseconds of elapsed time pass, and WT counts where it runs, once the LFXO has started. -/
def clockOn (dt : Nat) (s : State) : State :=
  if wtRuns s.pw.mode then
    let n := s.ka.sub + (dt - s.ka.startIn)
    let k := n / Config.tickPs
    { s with
      now := s.now + dt
      ka := { tickN k s.ka with
              sub := n % Config.tickPs
              startIn := s.ka.startIn - dt
              jumps := keepJumps (slewJumps (s.now + s.ka.startIn - s.ka.sub) k s.ka) s.ka.jumps } }
  else { s with now := s.now + dt }

/-- A boundary skipped: SnO was not free (R270, R359, Table 14-4). -/
def countSkip (p : Port) (s : State) : State :=
  let x := s.ports.get p
  { s with ports := s.ports.set p.val { x with skip := bump x.skip, due := none }
           span.skipMark := s.span.skipMark ||| BitVec.ofNat 4 (2 ^ p.val) }

/-- The port still waited for SnO at the instant its frame was due: that boundary is skipped (R270). -/
def dueOver (s : State) (p : Port) : State :=
  match (s.ports.get p).due with
  | some d => if d.start < s.now then countSkip p s else s
  | none => s

/-- `dt` picoseconds pass. -/
def elapse (dt : Nat) (s : State) : State := allPorts.foldl dueOver (clockOn dt s)

/-- WT as it stood `ago` picoseconds before now (R12): the ticks counted since then and the changes since then taken
back. -/
def wtAgo (ago : Nat) (s : State) : W48 :=
  let ticks := (ago - s.ka.sub + Config.tickPs - 1) / Config.tickPs
  let changes := ((s.ka.jumps.filter fun j => decide (s.now < j.at_ + ago)).map (·.size)).sum
  BitVec.ofInt 48 (s.ka.wt.toNat - ticks - changes)

/-- `now` since which WT has held its present value: the start of the tick period, a tick period more after a period in
which a slew did not count, or the instant of a step. -/
def wtSince (s : State) : Nat :=
  let start := s.now - s.ka.sub
  match s.ka.jumps with
  | [] => start
  | j :: _ =>
    if j.step then max start j.at_
    else if j.size < 0 ∧ j.at_ = start then start - Config.tickPs
    else start

/-- A slew has counted two ticks at the start of the present tick period: WT has passed a value at once (R195). -/
def wtPassed (s : State) : Bool :=
  match s.ka.jumps with
  | j :: _ => !j.step && decide (j.size > 0) && j.at_ == s.now - s.ka.sub
  | [] => false

/-- REST_HOLD restarts (R76). -/
def restartHold (s : State) : State :=
  { s with pw.restDue := s.now + Config.msPs * s.cfg.restHold, pw.restFree := false }

/-! ## Draws -/

/-- One random draw from 0 to `n`, and the counter moves on. -/
def drawN (n : Nat) (s : State) : Nat × State :=
  (Config.draw s.draws % (n + 1), { s with draws := s.draws + 1 })

/-- The counter of free values moves on. -/
def spend (s : State) : State := { s with draws := s.draws + 1 }

/-! ## Ports -/

/-- Port `p` replaced. -/
def setPort (p : Port) (x : PortState) (s : State) : State := { s with ports := s.ports.set p.val x }

/-- Port `p` updated. -/
def upPort (p : Port) (f : PortState → PortState) (s : State) : State := setPort p (f (s.ports.get p)) s

/-- Every port updated. -/
def upPorts (f : Port → PortState → PortState) (s : State) : State :=
  allPorts.foldl (fun s p => upPort p (f p) s) s

/-- A fold over the four ports. -/
def eachPort (f : Port → State → State) (s : State) : State := allPorts.foldl (fun s p => f p s) s

/-! ## NV store and deck banks -/

/-- One byte of the store. -/
def nvByte (s : State) (a : Nat) : Byte := tget nvBlank s.nv.mem a

/-- `n` bytes of the store. -/
def nvBytesAt (s : State) (a n : Nat) : List Byte := (List.range n).map fun i => nvByte s (a + i)

/-- Program bytes: a program changes bits from 1 to 0 only (R313). -/
def programAt (m : Memory) (a : Nat) : List Byte → Memory
  | [] => m
  | b :: t => programAt (tset nvBlank m a (tget nvBlank m a &&& b)) (a + 1) t

/-- `n` bytes from `a` on set to 0xFF. -/
def blankFrom (m : Memory) (a : Nat) : Nat → Memory
  | 0 => m
  | n + 1 => blankFrom (tset nvBlank m a 0xFF) (a + 1) n

/-- Erase a sector: every byte 0xFF, those it was shipped with included (R313). -/
def eraseSector (m : Memory) (sec : Nat) : Memory :=
  let t := tclear (Config.sectorBytes * sec) (Config.sectorBytes * (sec + 1)) m
  if sec = 0xF8 ∨ sec = 0xF9 then blankFrom t (Config.sectorBytes * sec) Config.sectorBytes else t

/-- The store with bytes programmed. -/
def nvProgram (a : Nat) (l : List Byte) (s : State) : State := { s with nv.mem := programAt s.nv.mem a l }

/-- The store with a sector erased. -/
def nvEraseSec (sec : Nat) (s : State) : State := { s with nv.mem := eraseSector s.nv.mem sec }

/-- Bytes written at `a` of a deck bank. -/
def deckPut (m : Memory) (a : Nat) : List Byte → Memory
  | [] => m
  | b :: t => deckPut (tset deckBlank m a b) (a + 1) t

/-- `n` bytes of a deck bank. -/
def deckBytes (m : Memory) (a n : Nat) : List Byte := (List.range n).map fun i => tget deckBlank m (a + i)

/-- All bytes of a sector are 0xFF. -/
def sectorBlank (m : Memory) (sec : Nat) : Bool :=
  m.all fun e => e.1 / Config.sectorBytes != sec

/-! ## Frames the node originates -/

/-- The node's own SEQ for a new frame, and the next one (R157). -/
def takeSeq (s : State) : W16 × State := (s.span.seq, { s with span.seq := nextSeq s.span.seq })

/-- The bytes of a frame from DST to CRC (R145, R148, Table 8-6). -/
def frameBytes (f : OutFrame) : List Byte :=
  let b := beBytes 2 f.dst.toNat ++ beBytes 2 f.src.toNat ++ beBytes 2 f.seq.toNat
    ++ [BitVec.ofNat 8 f.body.length] ++ f.body
  b ++ beBytes 2 (crc16 b)

/-- A frame enters the outbound queue; on an idle bus it starts at once (R152). -/
def putOut (f : OutFrame) (s : State) : State := sendIdle { s with span.outQ := s.span.outQ ++ [f] }

/-- A reply enters the outbound queue, or waits for a place (R174). -/
def queueReply (f : OutFrame) (s : State) : State :=
  if s.span.outQ.length < Config.queuePlaces ∧ s.span.overflow = [] then putOut f s
  else { s with span.overflow := s.span.overflow ++ [f] }

/-- An image is placed in the empty service outbound mailbox (R220, Table 8-4). -/
def placeImage (f : OutFrame) (event : Bool) (s : State) : State :=
  { s with
    svc.out := some { bytes := frameBytes f, event := event, op := f.op, begun := false, clause := f.clause }
    svc.cause := s.svc.cause ||| (if event then 0x02 else 0x01) }

/-- A reply goes to the service mailbox, or waits until it empties (R174, R220). -/
def queueLocal (f : OutFrame) (s : State) : State :=
  match s.svc.out with
  | none => placeImage f false s
  | some _ => { s with svc.backlog := s.svc.backlog ++ [f] }

/-- The rate of a reply: the query's own where it differs from the held rate by more than 1 % (R133). -/
def replyRate (s : State) (rate : Nat) : Nat :=
  let h := heldRate s
  if rate ≠ 0 ∧ 100 * (if rate ≥ h then rate - h else h - rate) > h then rate else 0

/-- A destination the node never sends to: broadcast, a group, 0xFFFF (R147). -/
def neverDst (a : W16) : Bool := a == 0 || a == 0xFFFF || a.toNat / 256 == 0x10

/-- The service mailbox's source in the tables of the node (R183, 15). -/
def localSrc : W16 := 0xFFFE

/-- The source a clause counts as: its SRC, or 0xFFFE from the service mailbox (R183, R396). -/
def owner (q : Req) : W16 :=
  match q.mbox with
  | .span => q.src
  | .svc => localSrc

/-- A reset or a SHELF entry that waited for clause `id`'s reply goes on (R81, R367). -/
def replyGone (c : Option Nat) (s : State) : State :=
  match c with
  | none => s
  | some id =>
    let s := match s.pw.resetReq with
      | some r => if r.waits = some id then
          { s with pw.resetReq := some { waits := none, due := some (s.now + 5 * Config.msPs) } } else s
      | none => s
    if s.pw.shelfReq = some (some id) then { s with pw.shelfReq := some none } else s

/-- The reply just produced replaces the cached one (R184). -/
def cacheReply (q : Req) (f : OutFrame) (s : State) : State :=
  if q.seq = 0 then s
  else match q.mbox with
    | .span => { s with cl.track := s.cl.track.map fun t =>
        if t.src = q.src ∧ t.last = q.seq then { t with reply := some f } else t }
    | .svc => { s with cl.svcTrack := s.cl.svcTrack.map fun t =>
        if t.last = q.seq then { t with reply := some f } else t }

/-- No reply of any kind to this clause (R178; R370 and R371 excepted by the caller with `always`): NOREPLY, a match
that is not individual, or on Spanline an unaddressed node or a requester that is no legal DST (R147). -/
def replyBarred (q : Req) (always : Bool) (s : State) : Bool :=
  q.noreply || (q.kind != .individual && !always) || (q.mbox == .span && (unaddressed s || neverDst q.src))

/-- A reply frame (R177, R178): DST the requesting SRC, SRC the node's address as it stands, the node's own SEQ. -/
def sendReply (q : Req) (body : List Byte) (src : W16) (id : Nat) (s : State) : State :=
  let (sq, s) := takeSeq s
  let f : OutFrame := { dst := q.src, src := src, seq := sq, body := body, rate := replyRate s q.rate, op := 0xFE,
                        attempts := 0, clause := some id }
  let s := cacheReply q { f with clause := none } s
  match q.mbox with
  | .span => queueReply f s
  | .svc => queueLocal f s

/-- The SRC of a reply to `q` (R178, Table 8-6). -/
def replySrc (q : Req) (s : State) : W16 :=
  match q.mbox with
  | .span => s.cfg.addr
  | .svc => localSrc

/-- A reply, or nothing where none is due; then whatever waited for it goes on (R178, R367). -/
def replyOr (q : Req) (always : Bool) (body : List Byte) (id : Nat) (s : State) : State :=
  if replyBarred q always s then replyGone (some id) s
  else sendReply q body (replySrc q s) id s

/-- The entries of a reply body (Table 7-2). -/
def replyBody (seq : W16) (es : List (Byte × Byte × List Byte)) : List Byte :=
  [0x80] ++ leBytes 2 seq.toNat ++ es.flatMap fun e => [e.1, e.2.1, BitVec.ofNat 8 e.2.2.length] ++ e.2.2

/-- The single entry of a clause a verb's validation rejected (R177). -/
def verbReject (op st : Byte) (idx : Nat) : List (Byte × Byte × List Byte) := [(op, st, [BitVec.ofNat 8 idx])]

/-- The single entry of a clause-level rejection (R177). -/
def clauseReject (st : Byte) : List (Byte × Byte × List Byte) := [(0x00, st, [])]

/-! ## Late results -/

/-- Opcode of ADDR.SET. -/
def opAddrSet : Byte := 0x05
/-- Opcode of ADDR.CLAIM. -/
def opAddrClaim : Byte := 0x06

/-- An ADDR.SET heard by broadcast or as unaddressed is answered (R370). -/
def addrSetAnswered (q : Req) (es : List (Byte × Byte × List Byte)) : Bool :=
  (q.kind == .broadcast || q.kind == .unaddressed) && es.any fun e => e.1 == opAddrSet

/-- The reply of a clause whose every verb has its result (R177, R179). A claim reply waits for its holdoff
(R371): it was put among `span.claims` when the clause took effect, with no entries yet. -/
def finishClause (q : Req) (es : List (Byte × Byte × List Byte)) (id : Nat) (s : State) : State :=
  let body := replyBody q.seq es
  if es.any fun e => e.1 == opAddrClaim then
    if s.span.claims.any fun c => c.id == id then
      { s with span.claims := s.span.claims.map fun c => if c.id = id then { c with body := body } else c }
    else replyGone (some id) s
  else replyOr q (addrSetAnswered q es) body id s

/-- The entries, where every verb has its result. -/
def entriesDone : List Entry → Option (List (Byte × Byte × List Byte))
  | [] => some []
  | e :: t => match e.res, entriesDone t with
    | some (st, r), some l => some ((e.op, st, r) :: l)
    | _, _ => none

/-- A late result arrives at its place; the reply follows once every verb has one (R179, R392, R418). -/
def resolveNow (tok : Tok) (st : Byte) (bytes : List Byte) (s : State) : State :=
  match s.cl.waiting.find? fun w => w.id == tok.id with
  | none => s
  | some w =>
    let st' := if st = stOk then w.late else st
    let w' := { w with entries := w.entries.modify tok.idx fun e => { e with res := some (st', bytes) } }
    match entriesDone w'.entries with
    | some es =>
      finishClause w.req es w.id { s with cl.waiting := s.cl.waiting.filter fun x => x.id != w.id }
    | none => { s with cl.waiting := s.cl.waiting.map fun x => if x.id = w.id then w' else x }

/-- A late result; while the NP is blocked it is held until the block ends (R23, Table 1-5). -/
def resolve (tok : Tok) (st : Byte) (bytes : List Byte) (s : State) : State :=
  if npBlocked s then { s with cl.held := s.cl.held ++ [(tok, st, bytes)] } else resolveNow tok st bytes s

/-- The results held during a block reach their places (Table 1-5). -/
def releaseHeld (s : State) : State :=
  s.cl.held.foldl (fun s r => resolveNow r.1 r.2.1 r.2.2 s) { s with cl.held := [] }

/-- A late result where a verb waits for it. -/
def resolveOpt (tok : Option Tok) (st : Byte) (bytes : List Byte) (s : State) : State :=
  match tok with
  | some t => resolve t st bytes s
  | none => s

/-! ## Events -/

/-- Fields of EVT.PORT (Table 16-9). -/
def portFields (s : State) (p : Port) (old new reason : Byte) : List Byte :=
  let x := s.ports.get p
  [BitVec.ofNat 8 p.val, old, new] ++ leBytes 2 x.state.k ++ orFFFF x.c ++ [reason]

/-- Fields of EVT.POWER (Table 16-9). -/
def powerFields (s : State) (cause : Byte) : List Byte :=
  [cause, pflags s, platch s] ++ leBytes 2 s.pw.vin ++ leBytes 2 (vresShown s) ++ leSigned 2 s.pw.tAvg

/-- Fields of EVT.TIME (Table 16-9): E is 0 for causes 1 and 2. -/
def timeFields (s : State) (cause : Byte) : List Byte :=
  [cause, wtq s] ++ leSigned 4 (if cause = 0 then s.ka.lastE else 0) ++ leBytes 6 (wtN s)

/-- An event body (Table 16-8). -/
def eventBody (op : Byte) (stamp : W48) (fields : List Byte) : List Byte :=
  [0x81] ++ leBytes 6 stamp.toNat ++ [op, BitVec.ofNat 8 fields.length] ++ fields

/-- An event occurs (R356): its fields and stamp are taken now, and its holdoff drawn from 0 to H in 10 ms
steps. With report address 0x0000 the node sends none (R352). -/
def raise (op : Byte) (port : Nat) (fields : List Byte) (stamp : W48) (s : State) : State :=
  if s.cfg.notify.addr = 0 then s
  else
    let (d, s) := drawN (10 * s.cfg.notify.h.toNat) s
    let e : PEvent := { op := op, port := port, fields := fields, stamp := stamp, at_ := s.now,
                        due := s.now + 10 * Config.msPs * d }
    { s with ev.held := s.ev.held ++ [e] }

/-- EVT.PORT for a change of port `p`'s reported state (R281). -/
def raisePort (p : Port) (old new reason : Byte) (s : State) : State :=
  raise 0xF1 p.val (portFields s p old new reason) s.ka.wt s

/-- EVT.POWER with a cause. -/
def raisePower (cause : Byte) (s : State) : State := raise 0xF2 0 (powerFields s cause) s.ka.wt s

/-- EVT.TIME with a cause. -/
def raiseTime (cause : Byte) (s : State) : State := raise 0xF3 0 (timeFields s cause) s.ka.wt s

/-- An event's frame (R441). -/
def eventFrame (op : Byte) (body : List Byte) (dst src sq : W16) : OutFrame :=
  { dst := dst, src := src, seq := sq, body := body, rate := 0, op := op, attempts := 0, clause := none }

/-- Whether an event can enter its queue now: a free place with no reply waiting (R174). -/
def eventPlace (s : State) : Bool :=
  if s.cfg.notify.addr = localSrc then s.svc.out.isNone && s.svc.backlog.isEmpty
  else decide (s.span.outQ.length < Config.queuePlaces) && s.span.overflow.isEmpty

/-- An event enters its queue with the report address in force (R352, R441); an unaddressed node sends none on
Spanline (R147). -/
def enterEvent (op : Byte) (stamp : W48) (fields : List Byte) (s : State) : State :=
  let body := eventBody op stamp fields
  if s.cfg.notify.addr = 0 then s
  else if s.cfg.notify.addr = localSrc then
    let (sq, s) := takeSeq s
    placeImage (eventFrame op body localSrc localSrc sq) true s
  else if unaddressed s then s
  else
    let (sq, s) := takeSeq s
    putOut (eventFrame op body s.cfg.notify.addr s.cfg.addr sq) s

/-- Some report address can be reached: not 0x0000, and an address of its own for Spanline (R147, R352). -/
def reportsGo (s : State) : Bool :=
  s.cfg.notify.addr != 0 && (s.cfg.notify.addr == localSrc || !unaddressed s)

/-- The later of two occurrences of one kind. -/
def laterMark (a b : Mark) : Mark := if a.at_ < b.at_ then b else a

/-- A mark of the event's kind, and of its port for EVT.PORT (R174); with an earlier mark of the kind it is one mark, of the
later occurrence. -/
def markEvent (m : Mark) (s : State) : State :=
  let same := fun (x : Mark) => x.op == m.op && x.port == m.port
  { s with ev.marks := (s.ev.marks.filter fun x => !same x)
                       ++ [(s.ev.marks.filter same).foldl laterMark m] }

/-- The cause or reason byte of an event's fields (Table 16-9): the last byte of EVT.PORT, the first of the others. -/
def eventCause (e : PEvent) : Byte := if e.op = 0xF1 then e.fields.getLast?.getD 0 else e.fields.headD 0

/-- The mark an event leaves (R174). -/
def markOf (e : PEvent) : Mark := { op := e.op, port := e.port, stamp := e.stamp, cause := eventCause e, at_ := e.at_ }

/-- The latest occurrence a marked event reports, with the present state: its own, or one of its kind whose holdoff still
runs (R174, R357). -/
def latestOf (m : Mark) (s : State) : Mark :=
  ((s.ev.held.filter fun e => e.op == m.op && e.port == m.port).map markOf).foldl laterMark m

/-- The byte of FSEQ an EVT.FAIL carries for port `p`: 0x00 without a changed page (Table 16-9). -/
def failSeqByte (s : State) (p : Port) : Byte :=
  if (s.fail.mask.toNat / 16 ^ p.val) % 16 = 0 then 0 else s.fail.fseq.get p

/-- The map as the debounce has it now, whether or not its boundary has come. -/
def liveMap (s : State) : Tab Byte :=
  s.fail.cells.filterMap fun e => if e.2.map = 0 then none else some (e.1, e.2.map)

/-- Fields of EVT.FAIL from the present map (R354, Table 16-9). -/
def failFields (s : State) : List Byte :=
  leBytes 2 s.fail.mask.toNat ++ summary s ++ allPorts.map (failSeqByte s)

/-- The EVT.FAIL of a mark or of its own holdoff enters its queue. In POLL mode, or where no report address can be reached,
it is discarded; its pages stay in the mask (R352, R353) [27]. -/
def enterFail (s : State) : State :=
  if s.cfg.notify.push && reportsGo s then enterEvent 0xF0 s.fail.stamp (failFields s) s else s

/-- The fields of a marked event, from the present state (R174, R356). -/
def markFields (m : Mark) (s : State) : List Byte :=
  if m.op = 0xF1 then
    let p := portOf (BitVec.ofNat 8 m.port)
    portFields s p (pstate s p).code (pstate s p).code m.cause
  else if m.op = 0xF2 then powerFields s m.cause
  else if m.op = 0xF3 then timeFields s m.cause
  else s.ev.bootFields

/-- Marked events are built once places free, in the order of their marks (R174); `n` bounds the passes. -/
def buildMarks : Nat → State → State
  | 0, s => s
  | n + 1, s =>
    match s.ev.marks with
    | [] => s
    | m :: t =>
      if !eventPlace s then s
      else if m.op = 0xF0 then buildMarks n (enterFail { s with ev.marks := t })
      else
        let l := latestOf m s
        buildMarks n (enterEvent l.op l.stamp (markFields l s) { s with ev.marks := t })

/-- Waiting replies take the free places of the outbound queue (R174). -/
def fillQueue (s : State) : State :=
  let n := Config.queuePlaces - s.span.outQ.length
  sendIdle { s with span.outQ := s.span.outQ ++ s.span.overflow.take n, span.overflow := s.span.overflow.drop n }

/-- A node whose address was cleared sends none of its waiting frames but claim replies (R147). A frame in its attempt is
left to end. -/
def dropUnsent (s : State) : State :=
  let n := if s.span.tx = some .queue then 1 else 0
  let ok := sendable s
  let q := s.span.outQ.drop n ++ s.span.overflow
  let t := { s with
    span.outQ := s.span.outQ.take n ++ (s.span.outQ.drop n).filter ok
    span.overflow := s.span.overflow.filter ok
    span.lates := if s.span.tx = some .late then s.span.lates else s.span.lates.filter fun l => ok l.frame
    span.roll := if unaddressed s then s.span.roll.map fun r => { r with slot := none, frame := none } else s.span.roll }
  (q.filter fun f => !ok f).foldl (fun s f => replyGone f.clause s) t

/-- The next waiting reply enters the empty service mailbox (R174). -/
def fillLocal (s : State) : State :=
  match s.svc.out, s.svc.backlog with
  | none, f :: t => placeImage f false { s with svc.backlog := t }
  | _, _ => s

/-- A place has freed: waiting replies, then marked events (R174); during an NV block they wait on (Table 1-5). -/
def settleQueues (s : State) : State := if npBlocked s then s else buildMarks 16 (fillLocal (fillQueue s))

/-! ## Persistent settings -/

/-- The operations of a configuration copy into A (0x02) or B (0x03): 11 programs and 1 erase (Table 12-4). -/
def configOps (copy : Bool) : List NvOp :=
  let sec := if copy then 3 else 2
  [.intent sec, .erase sec, .done sec] ++ (List.range 8).map (NvOp.cfgPage copy) ++ [.cfgValid copy]

/-- The copy a new configuration goes into: the one not in use, copy B on equal generations (R324). -/
def configTarget (s : State) : Bool :=
  match s.nv.copyA, s.nv.copyB with
  | some a, some b => decide (b.gen ≤ a.gen)
  | some _, none => true
  | none, _ => false

/-- A persistent setting changed: a configuration copy is written as housekeeping, one for every change (R330, R342). -/
def persist (s : State) : State :=
  { s with nv.jobs := s.nv.jobs ++ [{ kind := .config, user := false, op := 0, ops := configOps (configTarget s),
                                      tok := none, failed := false }] }

/-- A user job is running (R319). -/
def userJob (s : State) : Bool := s.nv.jobs.any (·.user)

/-- A job joins the queue. -/
def addJob (j : Job) (s : State) : State := { s with nv.jobs := s.nv.jobs ++ [j] }

end Sys2Proof.Machine
end

