-- ==== Sys2Proof/Machine/Render.lean ====
section
/-!
DEFINITION. The render engine (11): curves, lanes, effects, the eight stages, concealment, quantisation and the
values of a port's slots. Every function is of the state and the render time alone (R14).
-/
namespace Sys2Proof.Machine

/-! ## Curves -/

/-- The greatest number below 2 ^ k above `acc` that `ok` admits, found bit by bit; `ok` is monotone. -/
def bitSearch (ok : Nat → Bool) : Nat → Nat → Nat
  | 0, acc => acc
  | k + 1, acc => bitSearch ok k (if ok (acc + 2 ^ k) then acc + 2 ^ k else acc)

/-- 65 535 × (i / 256) ^ (n / 5), to the nearest integer: y is reached when (2y - 1) ^ 5 × 256 ^ n is at most
131 070 ^ 5 × i ^ n. -/
def powCurve (n i : Nat) : Nat :=
  bitSearch (fun y => decide ((2 * y - 1) ^ 5 * 256 ^ n ≤ 131070 ^ 5 * i ^ n)) 16 0

/-- 65 535 × 10 ^ (3 × (i / 256 - 1)), to the nearest integer. -/
def logCurve (i : Nat) : Nat :=
  bitSearch (fun y => decide ((2 * y - 1) ^ 256 * 10 ^ (3 * (256 - i)) ≤ 131070 ^ 256)) 16 0

/-- P[0] to P[64] of SINE: 65 535 × (1 - cos 2πu) / 2 to the nearest integer (R297, Table 11-3). -/
def sineTable : List Nat :=
  [0, 10, 39, 89, 158, 246, 355, 482, 630, 796, 982, 1187, 1411, 1654, 1915, 2196]
  ++ [2494, 2811, 3146, 3499, 3869, 4257, 4662, 5084, 5522, 5977, 6448, 6935, 7438, 7956, 8488, 9036]
  ++ [9597, 10173, 10762, 11365, 11980, 12608, 13248, 13900, 14563, 15237, 15922, 16616, 17321, 18035, 18758, 19489]
  ++ [20228, 20975, 21728, 22489, 23256, 24028, 24806, 25588, 26375, 27166, 27960, 28756, 29556, 30357, 31160, 31963]
  ++ [32768]

/-- P[i] of SINE for every i, by its two symmetries. -/
def sinePoint (i : Nat) : Nat :=
  let j := if i ≤ 128 then i else 256 - i
  if j ≤ 64 then sineTable.getD j 0 else 65535 - sineTable.getD (128 - j) 0

/-- P[i] of built-in curves 1 to 11 (R297, Table 11-3). -/
def builtinPoint (c i : Nat) : Nat :=
  if c = 1 then rndN (65535 * i ^ 2) (256 ^ 2)
  else if c = 2 then powCurve 11 i
  else if c = 3 then powCurve 13 i
  else if c = 4 then (if i = 0 then 0 else logCurve i)
  else if c = 5 then rndN (65535 * (3 * i ^ 2 * 256 - 2 * i ^ 3)) (256 ^ 3)
  else if c = 6 then (if i < 128 then 0 else 65535)
  else if c = 7 then rndN (65535 * (256 ^ 2 - (256 - i) ^ 2)) (256 ^ 2)
  else if c = 8 then sinePoint i
  else if c = 9 then rndN (65535 * (if i ≤ 128 then 2 * i else 512 - 2 * i)) 256
  else if c = 10 then rndN (65535 * i) 256
  else (if i < 64 then 65535 else 0)

/-- What an id without a table reads as. -/
def curveBlank (_ : Nat) : List W16 := []

/-- The user table of a curve id; empty where it holds none. -/
def userTable (s : State) (c : Nat) : List W16 := tget curveBlank s.rd.curves c

/-- The curve has a table: built-in 1 to 11, or a user curve that holds one. -/
def hasTable (s : State) (c : Nat) : Bool :=
  if c = 0 then false else if c < 12 then true else !(userTable s c).isEmpty

/-- P[i] of a curve that has a table. -/
def curvePoint (s : State) (c i : Nat) : Nat :=
  if c < 12 then builtinPoint c i else ((userTable s c).getD i 0).toNat

/-- A curve evaluated at x from 0 to 65 535 (R296); LIN, and a user curve without a table, are the identity (R297). -/
def evalCurve (s : State) (c x : Nat) : Nat :=
  if hasTable s c then
    let i := x * 256 / 65535
    let f := x * 256 - i * 65535
    if i = 256 then curvePoint s c 256
    else
      let a : Int := curvePoint s c i
      let b : Int := curvePoint s c (i + 1)
      (a + rnd ((b - a) * f) 65535).toNat
  else x

/-! ## Lanes and effects -/

/-- An unlisted lane: held at 0x0000 (R295). -/
def laneBlank (_ : Nat) : Lane := {}
/-- An unlisted effect: none (R298). -/
def effectBlank (_ : Nat) : Effect := {}

/-- The value of a lane at render time `t` (R294). -/
def laneAt (s : State) (l : Lane) (t : Nat) : Nat :=
  if t < l.t0.toNat then l.l0.toNat
  else if l.d = 0 ∨ t - l.t0.toNat ≥ l.d.toNat then l.l1.toNat
  else
    let x := (t - l.t0.toNat) * 65535 / l.d.toNat
    let y := evalCurve s l.c.toNat x
    let a : Int := l.l0.toNat
    let b : Int := l.l1.toNat
    (a + rnd ((b - a) * y) 65535).toNat

/-- The lane of a zone's channel. -/
def zoneLane (s : State) (z c : Nat) : Lane := tget laneBlank s.rd.lanes (z * 4 + c)

/-- A zone's effect. -/
def zoneEffect (s : State) (z : Nat) : Effect := tget effectBlank s.rd.effects z

/-- The effect input x_e (R298). -/
def effectInput (t phase period : Nat) : Nat := (t + phase * period / 4096) % period * 65535 / period

/-- Stage 2's change of a channel (R298, Table 11-1). -/
def effectAdd (s : State) (e : Effect) (c t phase : Nat) : Int :=
  if e.period.toNat = 0 ∨ e.depth = 0 ∨ e.mask.getLsbD c = false then 0
  else
    let y := evalCurve s e.curve.toNat (effectInput t phase e.period.toNat)
    rnd (e.depth.toNat * y) 65535 - e.depth.toNat / 2

/-! ## Deck entries -/

/-- Byte `o` of entry `g` of the active bank. -/
def deckByte (s : State) (g o : Nat) : Nat := (tget deckBlank s.rd.active (g * 24 + o)).toNat
/-- FLAGS b0. -/
def isExclude (s : State) (g : Nat) : Bool := Nat.testBit (deckByte s g 1) 0
/-- FLAGS b1. -/
def isSource (s : State) (g : Nat) : Bool := Nat.testBit (deckByte s g 1) 1
/-- FLAGS b2. -/
def isTarget (s : State) (g : Nat) : Bool := Nat.testBit (deckByte s g 1) 2
/-- FLAGS b3. -/
def isDither (s : State) (g : Nat) : Bool := Nat.testBit (deckByte s g 1) 3
/-- PHASE [11:0]. -/
def deckPhase (s : State) (g : Nat) : Nat := (deckByte s g 2 + 256 * deckByte s g 3) % 4096
/-- G[c]. -/
def deckGain (s : State) (g c : Nat) : Nat := deckByte s g (4 + 2 * c) + 256 * deckByte s g (5 + 2 * c)
/-- n0 to n3. -/
def deckNeigh (s : State) (g : Nat) : List Nat :=
  let v := ofLe (deckBytes s.rd.active (g * 24 + 12) 6)
  [bits v 0 12, bits v 12 12, bits v 24 12, bits v 36 12]
/-- w. -/
def deckWeight (s : State) (g : Nat) : Nat := deckByte s g 18

/-! ## Stages -/

/-- Stages 1 and 2 in render mode. -/
def renderInput (s : State) (t g c : Nat) : Int :=
  let z := deckByte s g 0
  (laneAt s (zoneLane s z c) t : Int) + effectAdd s (zoneEffect s z) c t (deckPhase s g)

/-- M′, the master lane at `t` after the thermal factor (R92, R299). -/
def masterPrime (s : State) (t : Nat) : Nat := laneAt s s.rd.master t * s.pw.f / 65536

/-- Stages 3 to 6 on a channel's stage 2 value (Table 11-1). -/
def stage6 (s : State) (mp g c : Nat) (v2 : Int) : Nat :=
  let v3 := (max 0 (min v2 65535)).toNat
  let v4 := rndN (v3 * mp) 65535
  let v5 := evalCurve s (s.rd.outc.toList.getD c (0, none)).1.toNat v4
  min 65535 (rndN (v5 * deckGain s g c) 32768)

/-- Channel `c` of cell `g` is a concealment source (R304). -/
def conceals (s : State) (g c : Nat) : Bool :=
  let m := mapByte s g
  s.cfg.conceal && isSource s g && !isExclude s g &&
    ((Nat.testBit (chfault m) c && fkind m == 0) || (unreach m && s.cfg.concealUnreach))

/-- A neighbour that takes an add for channel `c` from source `g` (R305). -/
def takesAdd (s : State) (g c n : Nat) : Bool :=
  let ps := s.ports.get (portOf (BitVec.ofNat 8 (n / 1024)))
  let m := mapByte s n
  n != 0xFFF && n != g && isTarget s n && !isExclude s n && ps.state.mapped
    && decide (n % 1024 < ps.cfg.n) && !unreach m && !Nat.testBit (chfault m) c

/-- The adds of a frame: neighbour, channel, amount (R305). Only cells with a map entry can be sources. -/
def adds (s : State) (v6 : Nat → Nat → Nat) : List (Nat × Nat × Nat) :=
  s.fail.map.flatMap fun e => (List.range 4).flatMap fun c =>
    if conceals s e.1 c then
      ((deckNeigh s e.1).filter (takesAdd s e.1 c)).map fun n => (n, c, rndN (v6 e.1 c * deckWeight s e.1) 256)
    else []

/-- Stage 7 (Table 11-1, R305). -/
def stage7 (l : List (Nat × Nat × Nat)) (g c v6 : Nat) : Nat :=
  min 65535 (v6 + ((l.filter fun a => a.1 == g && a.2.1 == c).map (·.2.2)).sum)

/-- The order of the 8 bits of r reversed (R307). -/
def rev8 (r : Nat) : Nat := flagBits ((lsbBits 8 r).reverse)

/-- Stage 8 (R307) for width `w` at render time `t`. -/
def stage8 (w t g v7 : Nat) (dither : Bool) : Nat :=
  if w = 16 then v7
  else
    let a := v7 * (2 ^ w - 1)
    if dither then
      let theta := rev8 ((t / 8 + 149 * g) % 256) * 256 + 128
      a / 65535 + (if a % 65535 > theta then 1 else 0)
    else (a + 32767) / 65535

/-- The wink's level at `t` on port `p`, while one runs (R377). -/
def winkLevel (s : State) (t : Nat) (p : Port) : Option Nat :=
  if winking s t && s.node.winkPorts.getLsbD p.val then
    some (if (t - s.node.winkFrom.toNat) / 1024 % 2 = 0 then 0xFFFF else 0)
  else none

/-- Channels of a FMT (R234). -/
def fmtChannels (fmt : Nat) : Nat := fmt % 4 + 1
/-- Width of a FMT in bits; 0b11 is reserved. -/
def fmtWidth (fmt : Nat) : Nat := if fmt / 4 % 4 = 0 then 8 else if fmt / 4 % 4 = 1 then 12 else 16
/-- Slot length S in T (R238). -/
def slotLen (fmt : Nat) : Nat := fmtChannels fmt * fmtWidth fmt + 4

/-- A `w`-bit value expanded to 16 bits (R240). -/
def widen (w v : Nat) : Nat := if w = 8 then v * 257 else if w = 12 then v * 16 + v / 256 else v

/-- Stages 3 to 8 for every cell of port `p` and all four channels, from the stage 2 values (R292, R293, R377): those beyond
the port's format are computed and not sent. -/
def renderSlots (s : State) (t : Nat) (input : Nat → Nat → Int) (p : Port) : List (List Nat) :=
  let cfg := (s.ports.get p).cfg
  let mp := masterPrime s t
  let v6 := fun g c => stage6 s mp g c (input g c)
  let l := adds s v6
  (List.range cfg.n).map fun i =>
    let g := cellIndex p i
    (List.range 4).map fun c =>
      if isExclude s g then 0
      else
        let v7 := match winkLevel s t p with
          | some v => v
          | none => stage7 l g c (v6 g c)
        stage8 (fmtWidth cfg.fmt.toNat) t g v7 (isDither s g)

/-- The values port `p` sends while the render engine stands: those of its last rendered frame (R94); a cell or format that
frame does not hold has a free value [71]. -/
def frozenSlots (s : State) (p : Port) : List (List Nat) :=
  let x := s.ports.get p
  let free := fun i c => Config.frozenValue (cellIndex p i) c % 2 ^ fmtWidth x.cfg.fmt.toNat
  (List.range x.cfg.n).map fun i => (List.range 4).map fun c =>
    match x.rendered[i]? with
    | some v => if x.renderedFmt = x.cfg.fmt then v.getD c 0 else free i c
    | none => free i c

/-- The DATA values of port `p` at render time `t` in render mode. -/
def renderPort (s : State) (t : Nat) (p : Port) : List (List Nat) := renderSlots s t (renderInput s t) p

/-! ## Order keys -/

/-- Key `a` is strictly later than key `b` (R187, R192): by WT, then SRC, then serial SEQ. -/
def laterThan (a : Option Key) (b : Key) : Bool :=
  match a with
  | none => false
  | some a =>
    if a.wt ≠ b.wt then decide (a.wt.toNat > b.wt.toNat)
    else if a.src ≠ b.src then decide (a.src.toNat > b.src.toNat)
    else newer a.seq b.seq

/-- One lane set, unless its key is strictly later (R192). -/
def setLane (z c : Nat) (k : Key) (f : Lane → Lane) (s : State) : State :=
  let l := zoneLane s z c
  if laterThan l.key k then s
  else { s with rd.lanes := tset laneBlank s.rd.lanes (z * 4 + c) { f l with key := some k } }

/-- The lanes a selector and a mask name, each set by `f`, which sees the lane as it stands (R192, R295). -/
def setLanes (zs cs : List Nat) (k : Key) (f : Lane → Lane) (s : State) : State :=
  zs.foldl (fun s z => cs.foldl (fun s c => setLane z c k f s) s) s

/-- The master lane set, unless its key is strictly later. -/
def setMaster (k : Key) (f : Lane → Lane) (s : State) : State :=
  if laterThan s.rd.master.key k then s else { s with rd.master := { f s.rd.master with key := some k } }

/-- One zone's effect set, unless its key is strictly later. -/
def setEffect (z : Nat) (k : Key) (e : Effect) (s : State) : State :=
  if laterThan (zoneEffect s z).key k then s
  else { s with rd.effects := tset effectBlank s.rd.effects z { e with key := some k } }

end Sys2Proof.Machine
end

