-- ==== Sys2Proof/Machine/Ports.lean ====
section
/-!
DEFINITION. The string port engine (09, 10, 13): forward frames, maintenance items, observations and the failure
map, port states, reset with presence, restarts and reconfiguration.
-/
namespace Sys2Proof.Machine

/-! ## Frames -/

/-- The bit time T in picoseconds (Table 9-1). -/
def bitPs (rate : Byte) : Nat := if rate = 0 then 100000 else if rate = 1 then 50000 else 25000

/-- TYPE codes (Table 9-5). -/
def tyData : Nat := 1
/-- CONFIG. -/
def tyConfig : Nat := 2
/-- QUERY. -/
def tyQuery : Nat := 3
/-- KEEP. -/
def tyKeep : Nat := 15

/-- A frame of this TYPE carries slots. -/
def hasSlots (ty : Nat) : Bool := ty == tyData || ty == tyConfig

/-- The header of a forward frame (Table 9-4). -/
def headerOf (ty fmt : Nat) (fseq : Byte) (side latch : Bool) : W32 :=
  header32 (ty + 16 * fmt + 256 * fseq.toNat + 65536 * side.toNat + 131072 * latch.toNat)

/-- A slot of `w`-bit values with its CRC (R238, R239). -/
def slotOf (w : Nat) (vals : List Nat) : Slot :=
  { values := vals.map (BitVec.ofNat 16), crc := BitVec.ofNat 4 (crc4 (vals.flatMap (lsbBits w))) }

/-- The slot's CRC is right for `w`-bit values (R239, R286). -/
def slotGood (w : Nat) (x : Slot) : Bool := (slotOf w (x.values.map (·.toNat))).crc == x.crc

/-- The gap before a KEEP, QUERY or CENSUS frame, after the EOF start of the frame before it (R233, R272). -/
def longGap (x : PortState) : Nat := (12 * x.cfg.n + 16) * bitPs x.cfg.rate

/-- Port `p` sends a forward frame whose first PRE transition is at `start` (R231 to R235, R249, R271, R273). The
SIDE word in force changes with FSEQ mod 64 = 0 (R405). -/
def sendForward (p : Port) (ty fmt : Nat) (latch : Bool) (rate : Byte) (slots : List (List Nat)) (start : Nat)
    (s : State) : State :=
  upPort p (fun x =>
    let fseq := x.fseq + 1
    let side := if fseq.toNat % 64 = 0 then s.cfg.side.get p else x.side
    let tBit := bitPs rate
    let sl := if hasSlots ty then slotLen fmt else 0
    let hold := (x.cfg.n * sl + 68) * tBit
    { x with
      fseq := fseq
      side := side
      freeAt := start + hold
      eofAt := start + hold - 16 * tBit
      last := some { header := headerOf ty fmt fseq (Nat.testBit side.toNat (fseq.toNat % 64)) latch
                     slots := slots.map (slotOf (fmtWidth fmt)) }
      framed := true
      keepDue := false
      awaits := if x.cfg.stub then x.awaits
        else x.awaits ++ [{ type := ty, fmt := fmt, fseq := fseq,
                            due := start + (x.cfg.n * (sl + 16) + 54) * tBit + 10 * Config.usPs }]
      firstAt := if x.ready then x.firstAt else some (x.firstAt.getD start) }) s

/-! ## Readiness (R90) -/

/-- Port `p` is ready. -/
def markReady (p : Port) (s : State) : State := upPort p (fun x => { x with ready := true }) s

/-- Every configured port is ready (R90). -/
def allReady (s : State) : Bool := allPorts.all fun p => !(s.ports.get p).cfg.enable || (s.ports.get p).ready

/-! ## Requests that a reset or a disable cuts (R393) -/

/-- Whether a port still holds a CONFIG request of the verb. -/
def configLeft (tok : Tok) (s : State) : Bool :=
  allPorts.any fun p => (s.ports.get p).configs.any fun c => c.tok == tok

/-- CONFIG requests of port `p` that are not run: PARTIAL, once no other port holds one of the same verb. -/
def cutConfigs (p : Port) (s : State) : State :=
  let l := (s.ports.get p).configs
  let s := upPort p (fun x => { x with configs := [] }) s
  l.foldl (fun s c =>
    let s := upPorts (fun _ x => { x with configs := x.configs.map fun d =>
      if d.tok = c.tok then { d with cut := true } else d }) s
    if configLeft c.tok s then s else resolve c.tok stPartial (List.replicate 8 0) s) s

/-- Requests on port `p` whose item is not run (R393): PARTIAL with the result fields at their none values. -/
def cutRequests (p : Port) (s : State) : State :=
  let x := s.ports.get p
  let s := upPort p (fun x => { x with idents := [], probes := [] }) s
  let s := x.probes.foldl (fun s t => resolve t stPartial [0, 0, 0, 0xFF, 0xFF] s) s
  let s := x.idents.foldl (fun s i => resolve i.tok stPartial (List.replicate (8 * i.count) 0) s) s
  cutConfigs p s

/-- A CONFIG frame of port `p` has ended: the verb has its result once every port of it has (R392, R406). -/
def configDone (p : Port) (s : State) : State :=
  match (s.ports.get p).configs with
  | c :: t =>
    if c.sent then
      let s := upPort p (fun x => { x with configs := t }) s
      if configLeft c.tok s then s
      else if c.cut then resolve c.tok stPartial (List.replicate 8 0) s
      else resolve c.tok stOk (leBytes 8 c.word.toNat) s
    else s
  | [] => s

/-! ## Maintenance items (R272) -/

/-- The order of R272. -/
def Maint.rank : Maint → Nat
  | .reset => 0
  | .census => 1
  | .status => 2
  | .identity => 3

/-- An item joins those waiting, in the order of R272; one already waiting serves. -/
def addItem (p : Port) (m : Maint) (s : State) : State :=
  upPort p (fun x =>
    if x.items.any fun i => i.1 == m then x
    else { x with items := (x.items.filter fun i => i.1.rank < m.rank) ++ [(m, s.now)]
                            ++ (x.items.filter fun i => m.rank < i.1.rank) }) s

/-- A reset that must end before DATA frames go on: after boot, an enable, a change or a restart. -/
def ResetWhy.holds : ResetWhy → Bool
  | .boot => true
  | .enable => true
  | .resume => true
  | _ => false

/-- A reset with presence is wanted for a reason (R281). One already running or waiting for a boot, an enable or a
restart serves a probe's request too. -/
def wantReset (p : Port) (w : ResetWhy) (s : State) : State :=
  let x := s.ports.get p
  let waits := x.items.any fun i => i.1 == .reset
  if !w.holds && (x.cur == some .reset || (waits && x.why.holds)) then s
  else addItem p .reset (upPort p (fun x => { x with why := w }) s)

/-- The port holds its DATA frames for a reset. -/
def holding (x : PortState) : Bool :=
  x.why.holds && (x.cur == some .reset || x.items.any fun i => i.1 == .reset)

/-- The bound of an item in picoseconds (Table 10-3, R277); half-microseconds count. -/
def itemBound (x : PortState) (m : Maint) : Nat :=
  let tBit := bitPs x.cfg.rate
  let loop := if x.cfg.stub then 0 else 2 * tBit + 8 * Config.usPs
  let half := x.cfg.n * 500000
  match m with
  | .reset => 105 * Config.usPs
  | .census => (24 * x.cfg.n + 110) * tBit + 34 * Config.usPs + half + loop
  | .status => (36 * x.cfg.n + 86) * tBit + 28 * Config.usPs + half + loop
  | .identity => (88 * x.cfg.n + 86) * tBit + 30 * Config.usPs + half + loop

/-- An item, or an answer the node has discarded, holds SnO. -/
def busyItem (x : PortState) : Bool := x.cur.isSome || x.discarded

/-- `now` from which a frame with the long gap may start, as far as frames go (R233). -/
def gapEnd (x : PortState) : Nat := max x.freeAt (if x.last.isNone then 0 else x.eofAt + longGap x)

/-- SnO is free and, after a forward frame, the gap of R233 and R272 has passed. -/
def itemGap (x : PortState) (now : Nat) : Bool := !busyItem x && decide (gapEnd x ≤ now)

/-- The mean of the accepted intervals (R309). -/
def meanInterval (s : State) : Nat := s.rd.intervals.sum / s.rd.intervals.length

/-- Picoseconds of one free-running period (R308). -/
def freePeriod (f : Nat) : Nat := Config.foscPs * rndN 160000000 f

/-- Ticks that WT advances in the next `n` tick periods (R195). -/
def advance (n : Nat) (k : KeepAlive) : Int := n + (if k.slew = 0 then 0 else slewUnit k * slewSteps n k)

/-- Tick periods until WT has advanced by `d`, with its slew (R195). -/
def periodsTo (d : Nat) (k : KeepAlive) : Nat :=
  ((List.range (2 * d + 1)).find? fun n => decide ((d : Int) ≤ advance n k)).getD d

/-- `now` of the next boundary the frame clock would place without SYNC edges (R308). -/
def nextByClock (s : State) : Nat :=
  if s.cfg.freeRun then s.rd.lastNow + freePeriod s.cfg.frameValue
  else s.now - s.ka.sub + Config.tickPs * periodsTo (s.cfg.frameValue - wtN s % s.cfg.frameValue) s.ka

/-- `now` of the next boundary as far as the node can tell (R309). -/
def nextBoundary (s : State) : Nat :=
  if s.rd.syncLocked && !s.rd.intervals.isEmpty then s.rd.lastNow + meanInterval s else nextByClock s

/-- `now` by which an item must have ended: 8 µs after the next boundary, or 20 µs before the next input header
expected in relay mode (R272, R289). None where no interval is known yet. -/
def itemLimit (s : State) : Option Nat :=
  if s.relay.on then
    (if s.relay.gap = 0 then none else some (s.relay.hdrAt.getD 0 + s.relay.gap - 20 * Config.usPs))
  else some (nextBoundary s + 8 * Config.usPs)

/-- An item can finish in the time left (R272). A port that holds its DATA frames has no next frame start. -/
def canFinish (s : State) (x : PortState) (m : Maint) : Bool :=
  holding x || match itemLimit s with
    | some l => decide (s.now + itemBound x m ≤ l)
    | none => true

/-- The items may run on port `p`: RUN, VIO good, the port not stopped and not S0 in relay mode. -/
def portLive (s : State) (x : PortState) : Bool :=
  inRun s && !s.pw.vioLow && !x.stopped && x.state != .relay

/-- The width of an item's pulse in picoseconds (Table 9-11). -/
def pulseWidth (m : Maint) : Nat :=
  match m with
  | .reset => 60 * Config.usPs
  | .census => 8 * Config.usPs
  | .status => 2 * Config.usPs
  | .identity => 4 * Config.usPs

/-- The earliest start of a query pulse after the last forward frame, a QUERY (R258). -/
def pulseFrom (x : PortState) : Nat := x.eofAt + x.cfg.n * 16 * bitPs x.cfg.rate + 2 * Config.usPs

/-- Item `m` is in progress on port `p`, its pulse from `at_` on. -/
def beginItem (p : Port) (m : Maint) (at_ : Nat) (s : State) : State :=
  upPort p (fun x => { x with items := x.items.filter fun i => i.1 != m, cur := some m
                              pulse := some { at_ := at_, width := pulseWidth m } }) s

/-- A query item begins: its QUERY frame, and its pulse at the first instant allowed [68]: on a loop after the frame's return
or its deadline (R256, R258, R277). -/
def startQuery (p : Port) (m : Maint) (s : State) : State :=
  let x := s.ports.get p
  let s := sendForward p tyQuery x.cfg.fmt.toNat false x.cfg.rate [] s.now s
  let y := s.ports.get p
  beginItem p m (((y.awaits.filter fun a => a.fseq == y.fseq).map (·.due)).foldl max (pulseFrom y)) s

/-- Item `m` starts on port `p`: a reset drives SnO low, the others begin with a QUERY frame (R258, R262, R275 to R278). -/
def startItem (p : Port) (m : Maint) (s : State) : State :=
  match m with
  | .reset => beginItem p .reset s.now s
  | m => startQuery p m s

/-- The return of frame `a` has ended, or is known not to come: a pulse that waited for it may begin (R258, R277). -/
def returnEnded (p : Port) (a : Await) (s : State) : State :=
  upPort p (fun x =>
    if x.cur.isSome && a.type == tyQuery && a.fseq == x.fseq then
      { x with pulse := x.pulse.map fun u => if s.now < u.at_ then { u with at_ := max s.now (pulseFrom x) } else u }
    else x) s

/-! ## When a boundary falls (R308, R309) -/

/-- The WT value of a WT-locked boundary that falls now: WT, or the value it passed at the start of this tick period where
a slew counted two (R15, R195). -/
def lockedT (s : State) : Option W48 :=
  if wtN s % s.cfg.frameValue = 0 then some s.ka.wt
  else if wtPassed s = true ∧ (wtN s - 1) % s.cfg.frameValue = 0 then some (s.ka.wt - 1)
  else none

/-- SYNC edges have set the period: two have been accepted since SYNC-locked timing took effect (R309). -/
def syncPeriod (s : State) : Bool := s.rd.syncLocked && !s.rd.intervals.isEmpty

/-- The render time of a boundary placed now without a SYNC edge (R15). -/
def renderNow (s : State) : W48 := if s.cfg.freeRun || syncPeriod s then s.ka.wt else (lockedT s).getD s.ka.wt

/-- The frame clock's own boundary, by the mode and value of FRAME.RATE. A WT-locked boundary that has been placed while WT
holds its value is not placed again. -/
def clockDue (s : State) : Bool :=
  if s.cfg.freeRun then decide (s.rd.lastNow + freePeriod s.cfg.frameValue ≤ s.now)
  else s.ka.startIn == 0 && match lockedT s with
    | some t => !(s.rd.lastT == t && decide (wtSince s ≤ s.rd.lastNow))
    | none => false

/-- A boundary is placed now without a SYNC edge (R309). -/
def boundaryDue (s : State) : Bool :=
  inRun s && !(s.relay.on && s.relay.input == .receiving) &&
    if syncPeriod s then s.rd.syncHold && decide (s.rd.lastNow + meanInterval s ≤ s.now) else clockDue s

/-! ## Observations and the map -/

/-- The lowest channel of a nibble of faults. -/
def lowestBit (v : Nat) : Option Nat := (List.range 4).find? fun c => Nat.testBit v c

/-- One channel's debounce step: the count and the map bit after a valid observation (R345). -/
def debounce (f : Nat) (seen cur : Bool) (n : Nat) : Nat × Bool :=
  if seen = cur then (0, cur)
  else if n + 1 ≥ (if seen then f else 8) then (0, seen) else (n + 1, cur)

/-- A valid word's step of a cell (R345 to R348). -/
def observeValid (f : Nat) (w : W12) (x : CellFail) : CellFail :=
  let fault := w.toNat % 16
  let bitOf := fun c => Nat.testBit fault c
  let old := fun c => Nat.testBit x.map.toNat c
  let r0 := debounce f (bitOf 0) (old 0) x.n0
  let r1 := debounce f (bitOf 1) (old 1) x.n1
  let r2 := debounce f (bitOf 2) (old 2) x.n2
  let r3 := debounce f (bitOf 3) (old 3) x.n3
  let ch := flagBits [r0.2, r1.2, r2.2, r3.2]
  let kd : BitVec 2 := BitVec.ofNat 2 (w.toNat / 16)
  let keep := fun c (on : Bool) (k : Option (BitVec 2)) =>
    if on then (if lowestBit fault = some c then some kd else k) else none
  let k0 := keep 0 r0.2 x.k0
  let k1 := keep 1 r1.2 x.k1
  let k2 := keep 2 r2.2 x.k2
  let k3 := keep 3 r3.2 x.k3
  let fk : Nat := match lowestBit ch with
    | none => 0
    | some c => ([k0, k1, k2, k3].getD c none).elim (fkind x.map) (·.toNat)
  { x with
    map := BitVec.ofNat 8 (ch + 16 * fk)
    n0 := r0.1, n1 := r1.1, n2 := r2.1, n3 := r3.1, bad := 0
    k0 := k0, k1 := k1, k2 := k2, k3 := k3
    hot := w.getLsbD 9
    supply := w.getLsbD 7
    wdog := w.getLsbD 6 }

/-- An invalid word's step of a cell: STALE after three in a row (R345, R347). -/
def observeInvalid (x : CellFail) : CellFail :=
  { x with bad := min 3 (x.bad + 1), map := if x.bad + 1 ≥ 3 then x.map ||| 0x40 else x.map }

/-- A status word is valid: its number of 1 bits is odd (R248, R344). -/
def wordValid (w : W12) : Bool := ones 12 w.toNat % 2 == 1

/-- The render time the next boundary will have, as far as the node can tell (R15). -/
def nextRender (s : State) : W48 :=
  if s.rd.syncLocked || s.cfg.freeRun then
    s.ka.wt + BitVec.ofNat 48 ((s.ka.sub + (nextBoundary s - s.now)) / Config.tickPs)
  else s.ka.wt + BitVec.ofNat 48 (s.cfg.frameValue - wtN s % s.cfg.frameValue)

/-- An EVT.FAIL is in the outbound queue, or in the service mailbox where events go to 0xFFFE (R220, R355). -/
def failQueued (s : State) : Bool :=
  s.span.outQ.any (fun f => f.op == 0xF0) || s.svc.out.any fun im => im.op == 0xF0

/-- A queued EVT.FAIL that has not begun its first attempt, or whose reading has not begun. -/
def failFresh (s : State) : Bool :=
  s.span.outQ.any (fun f => f.op == 0xF0 && f.attempts == 0) || s.svc.out.any fun im => im.op == 0xF0 && !im.begun

/-- A frame of the outbound queue, the EVT.FAIL not begun replaced by one of `body` and `sq`. -/
def newFail (sq : W16) (body : List Byte) (f : OutFrame) : OutFrame :=
  if f.op = 0xF0 ∧ f.attempts = 0 then { f with seq := sq, body := body } else f

/-- An image of the service mailbox, the EVT.FAIL not begun replaced likewise. -/
def newFailImage (sq : W16) (body : List Byte) (im : SvcImage) : SvcImage :=
  if im.op = 0xF0 ∧ im.begun = false then { im with bytes := frameBytes (eventFrame 0xF0 body localSrc localSrc sq) }
  else im

/-- A queued EVT.FAIL that has not begun its first attempt is replaced in its place by one rebuilt from the present
map, which reports every page in the mask (R162, R355). While the NP is blocked that waits for the end of the block
(R23). -/
def replaceFail (s : State) : State :=
  if !failFresh s then s
  else if npBlocked s then { s with fail.redo := true }
  else
    let s := { s with fail.mask := s.fail.mask ||| s.fail.late, fail.late := 0, fail.due := none, fail.redo := false }
    let (sq, s) := takeSeq s
    let body := eventBody 0xF0 s.fail.stamp (failFields s)
    { s with span.outQ := s.span.outQ.map (newFail sq body), svc.out := s.svc.out.map (newFailImage sq body) }

/-- The block has ended: the EVT.FAIL that the map outdated is rebuilt (R23, R355). -/
def redoFail (s : State) : State :=
  if s.fail.redo then replaceFail { s with fail.redo := false } else s

/-- EVT.FAIL was sent in full: its pages are reported, later changes want the next one (R353 to R355). -/
def failSent (s : State) : State :=
  { s with fail.mask := s.fail.late, fail.late := 0, fail.lastEnd := some s.now }

/-- The holdoff of the next EVT.FAIL, from the map update that calls for it; a marked one has had its own (R354). -/
def drawFail (s : State) : State :=
  if s.fail.due.isSome || s.ev.marks.any (fun m => m.op == 0xF0) then s
  else
    let (d, s) := drawN (10 * s.cfg.notify.h.toNat) s
    { s with fail.due := some (s.now + 10 * Config.msPs * d) }

/-- A page of the map changed by the debounce, with the FSEQ that completed it (R353 to R355). -/
def pageChanged (p : Port) (pos : Nat) (fseq : Byte) (s : State) : State :=
  let s := { s with fail.fresh := true, fail.fseqNext := s.fail.fseqNext.set p.val fseq }
  if s.cfg.notify.push then
    drawFail { s with fail.coming := s.fail.coming ||| BitVec.ofNat 16 (2 ^ (cellIndex p pos / 256)) }
  else s

/-- One status word for position `pos` of port `p` (R344 to R348). -/
def observe (p : Port) (fseq : Byte) (pos : Nat) (w : W12) (s : State) : State :=
  let s := if wordValid w then s else upPort p (fun x => { x with parity := bump x.parity }) s
  let g := cellIndex p pos
  let x := tget cellBlank s.fail.cells g
  if unreach (tget mapBlank s.fail.map g) || unreach x.map then s
  else
    let y := if wordValid w then observeValid s.cfg.notify.f.toNat w x else observeInvalid x
    let s := { s with fail.cells := tset cellBlank s.fail.cells g y }
    if y.map = x.map then s else pageChanged p pos fseq s

/-- Status words in position order, for positions below N (R273, R275, R344). -/
def observeAll (p : Port) (fseq : Byte) : Nat → List W12 → State → State
  | _, [], s => s
  | pos, w :: t, s =>
    let s := if pos < (s.ports.get p).cfg.n then observe p fseq pos w s else s
    observeAll p fseq (pos + 1) t s

/-- Observations of one return or answer. None outside RUN or while VIO is low (R344). -/
def observations (p : Port) (fseq : Byte) (ws : List W12) (s : State) : State :=
  if inRun s && !s.pw.vioLow then observeAll p fseq 0 ws s else s

/-- UNREACH as the port state has it, for positions 0 to n - 1 of port `p`, from position `k` on (R281, R348). -/
def unreachFrom (p : Port) (n k : Nat) (t : Tab CellFail) : Tab CellFail :=
  let lo := 1024 * p.val
  let hi := lo + 1024
  (t.filter fun e => e.1 < lo)
  ++ (t.filter fun e => lo ≤ e.1 && e.1 < lo + min n k && !unreach e.2.map)
  ++ ((List.range (n - k)).map fun i => (lo + k + i, ({ map := 0x80 } : CellFail)))
  ++ (t.filter fun e => hi ≤ e.1)

/-- The first UNREACH position under a port state (Table 10-5). -/
def PState.reach (n : Nat) : PState → Nat
  | .broken k => min n k
  | .nochain => 0
  | _ => n

/-- The port engine sets and clears UNREACH at a boundary (R281). -/
def applyUnreach (p : Port) (s : State) : State :=
  if s.fail.unreach.getLsbD p.val then
    let x := s.ports.get p
    { s with fail.cells := unreachFrom p x.cfg.n (x.state.reach x.cfg.n) s.fail.cells }
  else s

/-- The pages whose changes come into force join the mask, or wait for the event after the one that is queued (R354,
R355). -/
def takePages (s : State) : State :=
  let f := s.fail
  let s := if failQueued s then { s with fail.late := f.late ||| f.coming } else { s with fail.mask := f.mask ||| f.coming }
  { s with
    fail.coming := 0
    fail.fseq := Vector.ofFn fun i => if (f.coming.toNat / 16 ^ i.val) % 16 = 0 then f.fseq.get i else f.fseqNext.get i }

/-- The map changes of this boundary take effect together, with render time `t` (R20, R21, R348, R357); a queued EVT.FAIL
not begun then reports the map as it is now (R354, R355). -/
def commitMap (t : W48) (s : State) : State :=
  let was := s.fail.map
  let s := takePages (eachPort applyUnreach s)
  let s := { s with
    fail.map := liveMap s
    fail.unreach := 0
    fail.stamp := if s.fail.fresh then t else s.fail.stamp
    fail.fresh := false }
  if s.fail.map = was then s else replaceFail s

/-- Entries of port `p` at or above position `n` are removed at once (R283). -/
def trimMap (p : Port) (n : Nat) (s : State) : State :=
  let lo := 1024 * p.val + n
  let hi := 1024 * (p.val + 1)
  { s with fail.cells := tclear lo hi s.fail.cells, fail.map := tclear lo hi s.fail.map }

/-! ## Port states -/

/-- The port takes a state (R279, R281): UNREACH follows at the next boundary, and each change of the reported state
is one EVT.PORT. -/
def changeState (p : Port) (new : PState) (reason : Byte) (s : State) : State :=
  let old := pstate s p
  let s := upPort p (fun x => { x with state := new, ready := x.ready || new.isDown }) s
  let s := { s with fail.unreach := s.fail.unreach ||| BitVec.ofNat 4 (2 ^ p.val) }
  if old = new then s else raisePort p old.code new.code reason s

/-- A first state after boot, not reported (R281). -/
def firstState (p : Port) (new : PState) (s : State) : State :=
  let s := upPort p (fun x => { x with state := new, ready := x.ready || new.isDown }) s
  { s with fail.unreach := s.fail.unreach ||| BitVec.ofNat 4 (2 ^ p.val) }

/-- Every PORT.PROBE pending on the port has its result (R408). -/
def serveProbes (p : Port) (s : State) : State :=
  let x := s.ports.get p
  let res := x.state.code :: leBytes 2 x.state.k ++ orFFFF x.c
  x.probes.foldl (fun s t => resolve t stOk res s) (upPort p (fun x => { x with probes := [] }) s)

/-- The outcome of a census probe: count C (R278, R279, Table 10-4). -/
def probeOutcome (p : Port) (c : Nat) (s : State) : State :=
  let s := upPort p (fun x => { x with c := some c, tries := 3 }) s
  let x := s.ports.get p
  let better := match x.state with
    | .broken k => decide (c > k)
    | _ => false
  if better && !x.second then wantReset p .probe (upPort p (fun x => { x with second := true }) s)
  else
    let s := upPort p (fun x => { x with second := false }) s
    if c = 0 then wantReset p .zero s
    else
      let new := if c ≥ x.cfg.n then (if x.cfg.stub || x.returned then PState.ok else .broken x.cfg.n)
        else .broken c
      serveProbes p (changeState p new 0 s)

/-- A chain answered the reset: a port cycle is counted, and the state follows from why the reset ran; the probe after the
next DATA frame sets it anew (R279, R281, R338, Table 10-4). -/
def chainFound (p : Port) (why : ResetWhy) (s : State) : State :=
  let s := upPort p (fun x => { x with returned := false, fresh := true, stopped := false, sinceQ := 0, tries := 3,
                                       second := true })
    { s with cnt.cycles := s.cnt.cycles.set p.val (bump (s.cnt.cycles.get p)) }
  match why with
  | .boot => firstState p .ok s
  | .enable => changeState p .ok 2 s
  | .resume => s
  | .probe => s
  | .zero => serveProbes p (changeState p (.broken 0) 0 s)

/-- No chain answered the reset (R279, R281). -/
def chainAbsent (p : Port) (why : ResetWhy) (s : State) : State :=
  let s := upPort p (fun x => { x with fresh := false, second := false, stopped := false,
                                       items := x.items.filter fun i => i.1 != .identity }) s
  cutRequests p (serveProbes p (match why with
    | .boot => firstState p .nochain s
    | .enable => changeState p .nochain 2 s
    | _ => changeState p .nochain 0 s))

/-- The presence sample of a reset (R262, R279, R281, R338): what the port becomes, and what follows. SnO may be driven 45 µs
after the release (Table 9-12). A probe asked for before the reset is served by the one that follows it. -/
def presence (p : Port) (present : Bool) (s : State) : State :=
  let why := (s.ports.get p).why
  let s := upPort p (fun x => { x with
    cur := none, pulse := none, awaits := [], evidence := 0, srNext := none, srAcc := [], framed := false
    items := x.items.filter fun i => i.1 != .census
    freeAt := max s.now (((x.pulse.map fun u => u.at_ + u.width).getD 0) + 45 * Config.usPs) }) s
  if present then chainFound p why s else chainAbsent p why s

/-- One more frame or cycle with break evidence; three in a row start a probe (R274, R275). -/
def breakEvidence (p : Port) (s : State) : State :=
  let n := (s.ports.get p).evidence + 1
  if n ≥ 3 then addItem p .census (upPort p (fun x => { x with evidence := 0 }) s)
  else upPort p (fun x => { x with evidence := n }) s

/-- Evidence counts only on a port in OK (R274, R275). -/
def evidenceIfOk (p : Port) (bad : Bool) (s : State) : State :=
  if pstate s p = .ok then
    (if bad then breakEvidence p s else upPort p (fun x => { x with evidence := 0 }) s)
  else s

/-! ## Identity collection (R249) -/

/-- A received word of 64 bits is a valid identity word: CRC right and VENDOR not 0x00. -/
def identValid (w : W64) : Bool := word64Ok w && bits w.toNat 32 8 != 0

/-- An unlisted identity word: none held. -/
def idBlank (_ : Nat) : W64 := 0

/-- SR of one return enters the collection; bit 63 completes it for the positions that every return has carried (R249). -/
def collectSr (fseq : Byte) (ws : List W12) (x : PortState) : PortState :=
  let b := fseq.toNat % 64
  if b = 0 ∨ x.srNext = some fseq then
    let base : Tab W64 := if b = 0 then [] else x.srAcc
    let n := min ws.length (if b = 0 then x.cfg.n else min x.cfg.n x.srLen)
    let acc := (List.range n).foldl (fun (t : Tab W64) i =>
      if (ws.getD i 0).getLsbD 10 then tset idBlank t i (tget idBlank t i ||| BitVec.ofNat 64 (2 ^ b)) else t) base
    if b = 63 then
      { x with
        srNext := none
        srAcc := []
        srLen := 0
        ids := (List.range n).foldl (fun (t : Tab W64) i =>
          let w := tget idBlank acc i
          tset idBlank t i (if identValid w then w else 0)) x.ids }
    else { x with srNext := some (fseq + 1), srAcc := acc, srLen := n }
  else { x with srNext := none, srAcc := [] }

/-- The bytes of the identity words held for positions `first` onward (R407). -/
def identBytes (x : PortState) (first n : Nat) : List Byte :=
  (List.range n).flatMap fun i => leBytes 8 (tget idBlank x.ids (first + i)).toNat

/-! ## DATA frames at a boundary -/

/-- The configuration word of CELL.SIDECFG (Table 9-9). -/
def sideWord (wdog : Byte) (failsafe : W16) (cls : Byte) (poweron : W16) (top : Nat) : W64 :=
  word64 (wdog.toNat + 2 ^ 8 * failsafe.toNat + 2 ^ 24 * cls.toNat + 2 ^ 32 * poweron.toNat + 2 ^ 48 * top)

/-- The four 16-bit values of a CONFIG slot. -/
def wordSlot (w : W64) : List Nat := (List.range 4).map fun i => bits w.toNat (16 * i) 16

/-- The slots of a CONFIG frame: the word for FIRST to LAST, and a word no cell may apply elsewhere (R406). -/
def configSlots (n : Nat) (c : ConfigReq) : List (List Nat) :=
  let other := word64 (c.word.toNat % 2 ^ 48 + 2 ^ 48 * 0xFF)
  (List.range n).map fun i => wordSlot (if c.first ≤ i ∧ i ≤ c.last then c.word else other)

/-- A DATA or CONFIG frame may start on the port at this boundary (R269). -/
def sendsData (s : State) (x : PortState) : Bool :=
  portLive s x && (x.state.running || (x.state == .nochain && x.fresh))

/-- What the port sends now that SnO is free, from `start` on: DATA with the LATCH given, or the CONFIG frame that takes its
place (R269, R275, R276, R278, R286, R406). `cells` holds four channels for each cell; the frame carries those of its format
(R293). -/
def emitFrame (p : Port) (cells : List (List Nat)) (start : Nat) (latch : Bool) (s : State) : State :=
  let x := s.ports.get p
  match x.configs with
  | c :: t =>
    if c.sent then s
    else sendForward p tyConfig 0xB false x.cfg.rate (configSlots x.cfg.n c) start
      (upPort p (fun x => { x with configs := { c with sent := true } :: t }) s)
  | [] =>
    let fmt := x.cfg.fmt.toNat
    let s := sendForward p tyData fmt latch x.cfg.rate (cells.map (·.take (fmtChannels fmt))) start s
    let stand := s.pw.frozen
    let s := upPort p (fun x => { x with rendered := if stand then x.rendered else cells
                                         renderedFmt := if stand then x.renderedFmt else x.cfg.fmt
                                         sinceQ := x.sinceQ + 1, fresh := false }) s
    let s := if x.fresh then addItem p .identity (addItem p .census s) else s
    let cyc := x.cfg.stub || (match x.state with
      | .broken _ => true
      | _ => false)
    if cyc && decide (x.sinceQ + 1 ≥ x.cfg.q.toNat) then
      addItem p .status (upPort p (fun x => { x with sinceQ := 0 }) s)
    else s

/-- The parameters a port takes at its next boundary; in relay mode the rate is that of the input (R283, R284). -/
def nextCfg (p : Port) (s : State) : PortCfg :=
  let c := s.cfg.ports.get p
  { c with rate := if s.relay.on then (s.ports.get p).cfg.rate else c.rate }

/-- The frame of a boundary on port `p`, its first PRE transition due at `start`, where SnO is tested (R269, R270): the frame,
or a SKIP. An item in progress may end by then; not so one at whose boundary the port's parameters change (R283). -/
def boundaryFrame (p : Port) (cells : List (List Nat)) (start : Nat) (latch : Bool) (s : State) : State :=
  let x := s.ports.get p
  if !sendsData s x then s
  else if holding x || decide (start < x.freeAt) || (busyItem x && x.cfg != nextCfg p s) then countSkip p s
  else if busyItem x then upPort p (fun x => { x with due := some { cells := cells, latch := latch, start := start } }) s
  else emitFrame p cells start latch s

/-- A KEEP frame on port `p`, after the gap of R233 (R79, R290). -/
def sendKeep (p : Port) (start : Nat) (s : State) : State :=
  let x := s.ports.get p
  sendForward p tyKeep x.cfg.fmt.toNat false x.cfg.rate [] (max start (gapEnd x)) s

/-- The frame that waited for an item is sent where SnO is free at its instant (R270). -/
def settleDue (p : Port) (s : State) : State :=
  let x := s.ports.get p
  match x.due with
  | none => s
  | some d =>
    if busyItem x then s
    else if sendsData s x && decide (s.now ≤ d.start) && decide (x.freeAt ≤ d.start) then
      emitFrame p d.cells d.start d.latch (upPort p (fun x => { x with due := none }) s)
    else countSkip p s

/-- A KEEP of R290 that waited for SnO. -/
def settleKeep (p : Port) (s : State) : State :=
  let x := s.ports.get p
  if x.keepDue && !busyItem x && portLive s x && x.state.running then sendKeep p s.now s else s

/-- SnO is free again: what waited for it is sent. -/
def settleLine (p : Port) (s : State) : State := settleKeep p (settleDue p s)

/-- Whatever held or waited for SnO ends. -/
def PortState.still (x : PortState) : PortState :=
  { x with cur := none, pulse := none, discarded := false, due := none, keepDue := false, items := [], awaits := [] }

/-! ## Restart and reconfiguration -/

/-- What a reset with presence after a stop means for the port (R281, R283). -/
def restartWhy (x : PortState) (new : PortCfg) : ResetWhy :=
  if new.enable && !x.cfg.enable then .enable else if x.state = .off then .boot else .resume

/-- A configured port restarts: parameters in force, reset with presence, then frames (R64, R65, R78, R82, R283).
While VIO is low the restart waits for it (R65). -/
def restartPort (p : Port) (s : State) : State :=
  let new := s.cfg.ports.get p
  let x := s.ports.get p
  if x.state = .relay then s
  else if new.enable then
    if s.pw.vioLow then upPort p (fun y => { y.still with stopped := true }) s
    else
      wantReset p (restartWhy x new)
        (upPort p (fun y => { y.still with cfg := new, stopped := false }) (if new.n < x.cfg.n then trimMap p new.n s else s))
  else s

/-- Every port stops: frames, items and awaited returns end. -/
def stopPorts (s : State) : State :=
  upPorts (fun _ x => if x.cfg.enable then { x.still with stopped := true } else x) s

/-- The port is turned off (R267, R283, Table 10-6). -/
def turnOff (p : Port) (s : State) : State :=
  let s := cutRequests p s
  let s := changeState p .off 2 s
  let s := trimMap p 0 s
  upPort p (fun x => { x.still with cfg := s.cfg.ports.get p, stopped := false, release := true, ready := false,
                                    firstAt := none }) s

/-- A stored change takes effect at the port's own boundary (R22, R283, Table 10-6). In relay mode the rate is that of
the input (R284). -/
def reconfigure (p : Port) (s : State) : State :=
  let x := s.ports.get p
  let new := nextCfg p s
  if x.cfg = new ∨ x.state = .relay ∨ busyItem x = true then s
  else if !new.enable then (if x.cfg.enable then turnOff p s else upPort p (fun y => { y with cfg := new }) s)
  else if x.stopped || s.pw.vioLow then s
  else if !x.cfg.enable then
    wantReset p .enable (upPort p (fun y => { y with cfg := new, release := false }) s)
  else if x.cfg.n = new.n ∧ x.cfg.rate = new.rate ∧ x.cfg.stub = new.stub then
    upPort p (fun y => { y with cfg := new, sinceQ := if x.cfg.q = new.q then y.sinceQ else 0 }) s
  else
    let s := cutRequests p s
    let s := upPort p (fun y => { y with cfg := new, items := [], awaits := [] }) s
    wantReset p .enable (if new.n < x.cfg.n then trimMap p new.n s else s)

end Sys2Proof.Machine
end

