-- ==== Sys2Proof/Machine/Nv.lean ====
section
/-!
DEFINITION. The non-volatile store (12) and what the node keeps in it: the journal, sector headers, scene slots,
counter records, the security configuration (17), the jobs with their operations, and the end of each job.
-/
namespace Sys2Proof.Machine

/-! ## The journal (R325 to R328) -/

/-- Base address of J0 (false) or J1 (true). -/
def jBase (j : Bool) : Nat := if j then 0x1000 else 0

/-- Slot `k` of a journal sector. -/
def jSlot (m : Memory) (j : Bool) (k : Nat) : List Byte :=
  (List.range 64).map fun i => tget nvBlank m (jBase j + 64 * k + i)

/-- All bytes 0xFF. -/
def allFf (l : List Byte) : Bool := l.all (· == 0xFF)

/-- A record's CRC matches (R325; key records too, Table 17-3). -/
def recOk (r : List Byte) : Bool := fieldLe r 60 4 == crc32 (r.take 60)

/-- The valid records of a journal sector, in slot order; a slot of 0xFF alone is free (R325). -/
def jRecords (m : Memory) (j : Bool) : List (List Byte) :=
  ((List.range 64).map (jSlot m j)).filter fun r => !allFf r && recOk r

/-- The free slots of a journal sector. -/
def jFree (m : Memory) (j : Bool) : Nat := ((List.range 64).filter fun k => allFf (jSlot m j k)).length

/-- JSEQ of a record. -/
def recSeq (r : List Byte) : Nat := fieldLe r 4 4
/-- TYPE of a record. -/
def recType (r : List Byte) : Nat := fieldLe r 0 1
/-- SECTOR of a record. -/
def recSector (r : List Byte) : Nat := fieldLe r 2 1

/-- The highest JSEQ among records; 0 with none. -/
def maxSeq (l : List (List Byte)) : Nat := l.foldl (fun a r => max a (recSeq r)) 0

/-- The live journal sector, true for J1 (R327). -/
def liveJ (m : Memory) : Bool := decide (maxSeq (jRecords m true) > maxSeq (jRecords m false))

/-- The COUNTERS record with the highest JSEQ among records (R341). -/
def newestCounters (l : List (List Byte)) : Option (List Byte) :=
  (l.filter fun r => recType r == 3).foldl
    (fun a r => match a with
      | some x => if recSeq x < recSeq r then some r else some x
      | none => some r) none

/-- The latest COUNTERS record of the store. -/
def latestCounters (m : Memory) : Option (List Byte) := newestCounters (jRecords m false ++ jRecords m true)

/-- Sectors with an ERASE-INTENT and no later ERASE-DONE among records (R326). -/
def pendingOf (l : List (List Byte)) : List Nat :=
  ((l.filter fun r => recType r == 1 && !(l.any fun d =>
    recType d == 2 && recSector d == recSector r && decide (recSeq d > recSeq r))).map recSector).eraseDups

/-- A sector is being erased, or its erase was cut short: the live journal sector holds its ERASE-INTENT and no later
ERASE-DONE (R326). -/
def sectorPending (m : Memory) (sec : Nat) : Bool := (pendingOf (jRecords m (liveJ m))).contains sec

/-- The journal sector an intent or done for `sec` is written in (R326). -/
def jFor (m : Memory) (sec : Nat) : Bool := if sec = 0 then true else if sec = 1 then false else liveJ m

/-- The bytes of a record (Table 12-6). -/
def recBytes (ty sec seq : Nat) (payload : List Byte) : List Byte :=
  let b := [BitVec.ofNat 8 ty, 0, BitVec.ofNat 8 sec, 0] ++ leBytes 4 seq ++ payload
  b ++ leBytes 4 (crc32 b)

/-- Where the next record of a journal sector goes: its first free slot. -/
def jNext (m : Memory) (j : Bool) : Option Nat := (List.range 64).find? fun k => allFf (jSlot m j k)

/-- A record is programmed in journal sector `j`, with the next JSEQ. -/
def writeRec (j : Bool) (ty sec : Nat) (payload : List Byte) (s : State) : State :=
  let n := s.nv.jseq + 1
  let s := { s with nv.jseq := n }
  match jNext s.nv.mem j with
  | some k => nvProgram (jBase j + 64 * k) (recBytes ty sec n payload) s
  | none => s

/-! ## Sector headers (R321 to R324) -/

/-- The VALID bytes. -/
def validBytes : List Byte := [0xA5, 0x5A, 0xC3, 0x3C]

/-- The first 16 bytes of a sector header (Table 12-5). -/
def headTop (kind gen len count aux : Nat) : List Byte :=
  [0x5A, 0xD3, BitVec.ofNat 8 kind, 0x01] ++ leBytes 4 gen ++ leBytes 2 len ++ leBytes 2 count ++ leBytes 4 aux

/-- A headered sector with the VALID bytes left at 0xFF (R323). -/
def sectorBytes (kind gen count aux : Nat) (payload : List Byte) : List Byte :=
  let top := headTop kind gen payload.length count aux
  top ++ leBytes 4 (crc32 (top ++ payload)) ++ List.replicate 8 0 ++ List.replicate 4 0xFF ++ payload

/-- A sector is valid for a location of KIND `kind` (R323). -/
def sectorValid (s : State) (sec kind : Nat) : Bool :=
  let b := 4096 * sec
  let h := nvBytesAt s b 32
  h.take 2 == [0x5A, 0xD3] && fieldLe h 2 1 == kind && fieldLe h 3 1 == 1 && h.drop 28 == validBytes
    && decide (fieldLe h 8 2 ≤ 4064)
    && fieldLe h 16 4 == crc32 (h.take 16 ++ nvBytesAt s (b + 32) (fieldLe h 8 2))

/-- GEN of a sector. -/
def sectorGen (s : State) (sec : Nat) : Nat := fieldLe (nvBytesAt s (4096 * sec) 32) 4 4
/-- LENGTH of a sector. -/
def sectorLen (s : State) (sec : Nat) : Nat := fieldLe (nvBytesAt s (4096 * sec) 32) 8 2
/-- COUNT of a sector. -/
def sectorCount (s : State) (sec : Nat) : Nat := fieldLe (nvBytesAt s (4096 * sec) 32) 10 2
/-- AUX of a sector. -/
def sectorAux (s : State) (sec : Nat) : Nat := fieldLe (nvBytesAt s (4096 * sec) 32) 12 4

/-- The pages of `l` at a page-aligned address. -/
def pagesOf (a : Nat) (l : List Byte) : List NvOp :=
  (List.range ((l.length + 255) / 256)).map fun k => .page (a + 256 * k) ((l.drop (256 * k)).take 256)

/-- The operations of a headered sector: journalled erase, its `pages` pages, VALID (R323, Table 12-4). A page past the
payload is erased, and stays so. -/
def sectorOps (pages sec : Nat) (l : List Byte) : List NvOp :=
  [.intent sec, .erase sec, .done sec]
    ++ pagesOf (4096 * sec) (l ++ List.replicate (256 * pages - l.length) (0xFF : Byte)) ++ [.valid sec]

/-- Pages of a scene slot (Table 12-4). -/
def scenePages : Nat := 16

/-- Pages of a user-curve sector (Table 12-4). -/
def curvePages : Nat := 15

/-- The operations of a journalled erase (R326). -/
def eraseOps (sec : Nat) : List NvOp := [.intent sec, .erase sec, .done sec]

/-! ## Scenes (R334 to R337) -/

/-- The sector of a scene slot. -/
def sceneSector (slot : Nat) : Nat := 0x40 + slot

/-- The slot holds a valid scene (R323, R334); from its ERASE-INTENT on it reads as empty (R335). -/
def sceneValid (s : State) (slot : Nat) : Bool :=
  let sec := sceneSector slot
  sectorValid s sec 3 && decide (sectorCount s sec ≤ 254) && sectorLen s sec == 16 * sectorCount s sec
    && !sectorPending s.nv.mem sec

/-- A zone record's own status (R335, Table 14-1): reserved bits or curve 12 to 15 BAD_ARG, above 47 RANGE. -/
def recordStatus (r : List Byte) : Byte :=
  firstStatus [firstBad [(decide (fieldLe r 2 1 ≥ 32) || fieldLe r 3 1 != 0, stBadArg)], curveStatus (r.getD 1 0)]

/-- The records of 16 bytes in a byte list. -/
def recordsOf (n : Nat) (l : List Byte) : List (List Byte) := (List.range n).map fun i => (l.drop (16 * i)).take 16

/-- The records of a slot. -/
def sceneRecords (s : State) (slot : Nat) : List (List Byte) :=
  let sec := sceneSector slot
  recordsOf (sectorCount s sec) (nvBytesAt s (4096 * sec + 32) (sectorLen s sec))

/-- The slot can be recalled (R336). -/
def sceneUsable (s : State) (slot : Nat) : Bool :=
  sceneValid s slot && (sceneRecords s slot).all fun r => recordStatus r == stOk

/-- A user job writes or erases the slot (R336). -/
def sceneBusy (s : State) (slot : Nat) : Bool :=
  s.nv.jobs.any fun j => match j.kind with
    | .scene k _ _ => k == slot
    | .sceneErase k => k == slot
    | .nvErase sec => sec == sceneSector slot
    | .nvWrite a _ _ => a / 4096 == sceneSector slot
    | _ => false

/-- One lane set by the boot scene, with the null key: a lane that a clause has set stays (R89, R192). -/
def bootLane (z c : Nat) (f : Lane → Lane) (s : State) : State :=
  let l := zoneLane s z c
  if l.key.isSome then s else { s with rd.lanes := tset laneBlank s.rd.lanes (z * 4 + c) (f l) }

/-- One record applied to its lanes with origin `o` and key `k`, none for the boot scene (R89, R295, R336). Start
levels are the lanes' values at `o` in `pre`, the state before the scene (R190). -/
def applyRecord (pre : State) (aux : Nat) (o : W48) (k : Option Key) (s : State) (r : List Byte) : State :=
  let flags := r.getD 2 0
  let d := if flags.getLsbD 4 then aux else fieldLe r 4 4
  let z := fieldLe r 0 1
  (chansOf flags).foldl (fun s c =>
    let f := fun (l : Lane) =>
      { l with l0 := BitVec.ofNat 16 (laneAt pre (zoneLane pre z c) o.toNat), l1 := BitVec.ofNat 16 (fieldLe r (8 + 2 * c) 2),
               t0 := o, d := BitVec.ofNat 32 d, c := r.getD 1 0 }
    match k with
    | some k => setLane z c k f s
    | none => bootLane z c f s) s

/-- A slot's records applied in order; where two name one lane, the later stands (R336). -/
def applyScene (pre : State) (slot : Nat) (o : W48) (k : Option Key) (s : State) : State :=
  (sceneRecords s slot).foldl (applyRecord pre (sectorAux s (sceneSector slot)) o k) s

/-- The zones of a selector that some entry of the active bank names, ascending (R337). -/
def capturedZones (s : State) (sel : Byte) : List Nat :=
  let used := (List.range 4096).map fun g => deckByte s g 0
  (zonesOf sel).filter fun z => used.contains z

/-- A captured zone's record at render time `t` (R337). -/
def captureRecord (s : State) (t : Nat) (deffade : Nat) (z : Nat) : List Byte :=
  [BitVec.ofNat 8 z, 0, 0x1F, 0] ++ leBytes 4 deffade
    ++ (List.range 4).flatMap fun c => leBytes 2 (laneAt s (zoneLane s z c) t)

/-! ## Counters (R338 to R341) -/

/-- An unlisted on-time: 0. -/
def zeroNat (_ : Nat) : Nat := 0

/-- Base sector of a counter bank, false A, true B. -/
def bankSector (b : Bool) : Nat := if b then 8 else 4

/-- The bank a full save goes into: the alternate one, A where no record exists (R112, R341). -/
def altBank (s : State) : Bool :=
  match s.cnt.bank with
  | some b => !b
  | none => false

/-- The bank's four sectors are erased. -/
def bankErased (m : Memory) (b : Bool) : Bool := (List.range 4).all fun i => sectorBlank m (bankSector b + i)

/-- The bank is fully erased: blank, and no erase of one of its sectors was cut short or waits for its ERASE-DONE (R112,
R329). -/
def bankReady (s : State) (b : Bool) : Bool :=
  bankErased s.nv.mem b && (List.range 4).all fun i => !sectorPending s.nv.mem (bankSector b + i)

/-- Page `k` of a counter bank as SRAM holds it (R339). -/
def counterPageBytes (s : State) (k : Nat) : List Byte :=
  (List.range 64).flatMap fun i => leBytes 4 (tget zeroNat s.cnt.onTime (64 * k + i))

/-- The COUNTERS payload (Table 12-7). -/
def counterPayload (s : State) (kind : Nat) (bank : Bool) : List Byte :=
  [bit bank, BitVec.ofNat 8 kind, 0, 0]
    ++ leBytes 4 (crc32 (nvBytesAt s (4096 * bankSector bank) 16384))
    ++ leBytes 4 s.cnt.pon ++ leBytes 4 s.cnt.pup ++ allPorts.flatMap (fun p => leBytes 4 (s.cnt.cycles.get p))
    ++ leBytes 4 (if kind = 1 then s.cnt.pon - s.cnt.ponSaved else 0) ++ leBytes 6 (wtN s) ++ List.replicate 10 0

/-- A COUNTERS record is programmed, with what it brings (R116, R340). A summary keeps the bank of the last complete
image. -/
def writeCounters (kind : Nat) (bank : Bool) (s : State) : State :=
  let s := writeRec (liveJ s.nv.mem) 3 0 (counterPayload s kind bank) s
  { s with
    cnt.bank := some bank
    cnt.saveWt := s.ka.wt
    cnt.coarse := kind == 1
    cnt.since := if kind = 1 then s.cnt.pon - s.cnt.ponSaved else 0
    cnt.ponSaved := if kind = 1 then s.cnt.ponSaved else s.cnt.pon }

/-- The 65 programs of a full save into a bank (R339). -/
def saveOps (bank : Bool) : List NvOp := (List.range 64).map (NvOp.counterPage bank) ++ [.counterRec bank]

/-- The erase of a counter bank: 8 programs and 4 erases (Table 12-4). -/
def bankEraseJob (bank : Bool) : Job :=
  { kind := .bankErase, user := false, op := 0,
    ops := (List.range 4).flatMap (fun i => eraseOps (bankSector bank + i)), tok := none, failed := false }

/-! ## Security configuration (R450 to R453) -/

/-- A security change applied (R423, R434, R438, R453, R456 to R461). -/
def applySec (ch : SecChange) (x : Security) : Security :=
  match ch with
  | .protect v _ => { x with prot := v }
  | .lock on _ => { x with locked := on }
  | .newKey k kcv r => { x with kgen := x.kgen + 1, kcv := kcv, krec := some r, key := some k }
  | .verified slot crc =>
    let v := x.verified ||| BitVec.ofNat 2 slot
    let r := x.reject &&& ~~~ BitVec.ofNat 2 slot
    if slot = 1 then { x with verified := v, reject := r, acrc := crc } else { x with verified := v, reject := r, bcrc := crc }
  | .rejected slot => { x with reject := x.reject ||| BitVec.ofNat 2 slot, verified := x.verified &&& ~~~ BitVec.ofNat 2 slot }
  | .pending slot => { x with pending := slot }
  | .unpend => { x with pending := 0 }
  | .begun slot =>
    { x with
      reject := x.reject &&& ~~~ BitVec.ofNat 2 slot
      verified := x.verified &&& ~~~ BitVec.ofNat 2 slot
      pending := 0 }
  | .touched slot =>
    { x with
      reject := x.reject &&& ~~~ BitVec.ofNat 2 slot
      verified := x.verified &&& ~~~ BitVec.ofNat 2 slot
      pending := if x.pending = slot then 0 else x.pending }
  | .confirmed slot => { x with confirmed := slot, pending := 0 }
  | .rejectBoot slot =>
    { x with
      reject := x.reject ||| BitVec.ofNat 2 slot
      verified := x.verified &&& ~~~ BitVec.ofNat 2 slot
      pending := 0
      confirmed := if x.confirmed = slot then 0 else x.confirmed }
  | .freset on =>
    if on then { x with locked := false, prot := 0, krec := none, key := none, freset := true }
    else { x with freset := false }

/-- A change that comes into force with its commit and not before (R437, R456, R457, R461). -/
def SecChange.atCommit : SecChange → Bool
  | .newKey _ _ _ => true
  | .confirmed _ => true
  | .freset _ => true
  | _ => false

/-- The security configuration a commit of `ch` stores. -/
def secStored (ch : SecChange) (x : Security) : Security := if ch.atCommit then applySec ch x else x

/-- The payload of the security configuration (Table 17-4). -/
def secPayload (x : Security) : List Byte :=
  [BitVec.ofNat 8 x.prot.toNat, bit x.locked] ++ leBytes 4 x.kgen ++ leBytes 4 x.kcv.toNat
    ++ [match x.krec with
        | some r => BitVec.ofNat 8 r
        | none => 0xFF,
        bit x.freset, BitVec.ofNat 8 x.confirmed, BitVec.ofNat 8 x.pending, BitVec.ofNat 8 x.verified.toNat,
        BitVec.ofNat 8 x.reject.toNat] ++ leBytes 4 x.acrc.toNat ++ leBytes 4 x.bcrc.toNat ++ List.replicate 8 0

/-- Sector of a security configuration copy, false A, true B. -/
def secSector (copy : Bool) : Nat := if copy then 0xFB else 0xFA

/-- The copy the next security configuration goes into (R324). -/
def secTarget (s : State) : Bool :=
  match s.sec.copy with
  | some c => !c
  | none => false

/-- The operations of a security configuration copy. -/
def secOps (copy : Bool) : List NvOp :=
  eraseOps (secSector copy) ++ [.secPage copy, .secValid copy]

/-- A security configuration commit, with what must be programmed before it. -/
def secJob (ch : SecChange) (before : List NvOp) (tok : Option Tok) (s : State) : Job :=
  { kind := .security ch, user := false, op := 0, ops := before ++ secOps (secTarget s), tok := tok, failed := false }

/-- The key record (Table 17-3). -/
def keyRecord (kgen : Nat) (key : List Byte) (kcv : W32) : List Byte :=
  let b := leBytes 4 kgen ++ key ++ leBytes 4 kcv.toNat ++ List.replicate 36 0
  b ++ leBytes 4 (crc32 b)

/-- Slot `i` of the key store; a sector that is not valid reads as empty (R323, R450). -/
def keySlot (s : State) (i : Nat) : List Byte :=
  if sectorValid s 0xF9 5 then nvBytesAt s (0xF9000 + 64 + 64 * i) 64 else List.replicate 64 0xFF

/-- The header sector of the key store: LENGTH 0, bytes 32 to 63 0x00 (R450). -/
def keyStoreBytes : List Byte := sectorBytes 5 0 0 0 [] ++ List.replicate 32 0

/-! ## Firmware slots (R430, R458) -/

/-- Base address of a patch slot, 1 A, 2 B. -/
def slotBase (slot : Nat) : Nat := if slot = 1 then 0xC0000 else 0xDC000

/-- The target slot of a session: the inactive one, A when only ROM runs (R430). -/
def targetSlot (s : State) : Nat := if s.fw.run = 1 then 2 else 1

/-- The SIZE recorded for a slot. -/
def slotSize (s : State) (slot : Nat) : Nat := if slot = 1 then s.fw.sizeA else s.fw.sizeB

/-- The image bytes of a slot. -/
def slotImage (s : State) (slot : Nat) : List Byte := nvBytesAt s (slotBase slot) (slotSize s slot)

/-! ## Regions (R314, R315, R317) -/

/-- A sector is in a raw region (Table 12-2), leaving out the live deck area and the active patch slot. -/
def rawSector (s : State) (sec : Nat) : Bool :=
  (decide (0x10 ≤ sec) && decide (sec < 0x80))
  || (decide (0x80 ≤ sec) && decide (sec < 0x98) && s.cfg.deckLive != some false)
  || (decide (0x98 ≤ sec) && decide (sec < 0xB0) && s.cfg.deckLive != some true)
  || (decide (0xB1 ≤ sec) && decide (sec < 0xC0))
  || (decide (0xC0 ≤ sec) && decide (sec < 0xDC) && s.fw.run != 1)
  || (decide (0xDC ≤ sec) && decide (sec < 0xF8) && s.fw.run != 2)

/-- NVPROT protects quarter `q` (Table 12-3). -/
def protectedQ (s : State) (q : Nat) : Bool :=
  if s.sec.prot = 0 then false
  else if s.sec.prot = 1 then q == 3
  else if s.sec.prot = 2 then q == 2 || q == 3
  else true

/-- A security change in force at once and committed as housekeeping, where it changes anything. -/
def commitSec (ch : SecChange) (s : State) : State :=
  let y := applySec ch s.sec
  if y = s.sec then s else addJob (secJob ch [] none s) { s with sec := y }

/-- The patch slot an address lies in; 0 for none. -/
def slotAt (a : Nat) : Nat := if 0xC0000 ≤ a ∧ a < 0xDC000 then 1 else if 0xDC000 ≤ a ∧ a < 0xF8000 then 2 else 0

/-- A patch slot is blank. -/
def slotBlank (m : Memory) (slot : Nat) : Bool := m.all fun e => slotAt e.1 != slot

/-- A raw write or erase in the inactive patch slot: any session for it ends, and the slot is EMPTY or INCOMPLETE
(R422). -/
def touchSlot (a : Nat) (s : State) : State :=
  let slot := slotAt a
  if slot = 0 then s
  else
    let b := BitVec.ofNat 2 slot
    let s := match s.fw.session with
      | some f => if f.slot = slot then { s with fw.session := none } else s
      | none => s
    commitSec (.touched slot)
      { s with fw.partials := if slotBlank s.nv.mem slot then s.fw.partials &&& ~~~ b else s.fw.partials ||| b }

/-! ## Operations (R318) -/

/-- Base address of a configuration copy. -/
def cfgBase (copy : Bool) : Nat := if copy then 0x3000 else 0x2000

/-- The 2016 payload bytes of configuration copy GEN `g`: internal, a free value (R330). -/
def cfgPayload (g : Nat) : List Byte := (List.range 2016).map fun i => Config.cfgByte g (32 + i)

/-- Page `k` of configuration copy GEN `g` (R321, R330). -/
def cfgPageBytes (g k : Nat) : List Byte := ((sectorBytes 1 g 0 0 (cfgPayload g)).drop (256 * k)).take 256

/-- GEN of the next configuration copy (R324). -/
def nextCfgGen (s : State) : Nat :=
  max (match s.nv.copyA with | some c => c.gen | none => 0) (match s.nv.copyB with | some c => c.gen | none => 0) + 1

/-- Base address of a deck area, false A, true B. -/
def areaBase (b : Bool) : Nat := if b then 0x98000 else 0x80000

/-- The bytes of a program as it is asked for: address and data. None for an erase. -/
def opBytes (j : Job) (o : NvOp) (s : State) : Option (Nat × List Byte) :=
  match o with
  | .page a d => some (a, d)
  | .counterPage b k => some (4096 * bankSector b + 256 * k, counterPageBytes s k)
  | .deckPage b k => some (areaBase b + 256 * k, deckBytes s.rd.active (256 * k) 256)
  | .cfgPage c k => some (cfgBase c + 256 * k, cfgPageBytes (match s.nv.writing with | some w => w.gen | none => 0) k)
  | .cfgValid c => some (cfgBase c + 28, validBytes)
  | .valid sec => some (4096 * sec + 28, validBytes)
  | .secPage c =>
    match j.kind with
    | .security ch => some (4096 * secSector c, sectorBytes 6 (s.sec.gen + 1) 0 0 (secPayload (secStored ch s.sec)))
    | _ => none
  | .secValid c => some (4096 * secSector c + 28, validBytes)
  | _ => none

/-- Data as a failed or cut program leaves it: each bit programmed or not, a free value. -/
def tornData (n a : Nat) (d : List Byte) : List Byte :=
  (List.range d.length).map fun i => d.getD i 0xFF ||| Config.tornByte n (a + i)

/-- A configuration copy loses its validity when its sector is erased. -/
def dropCopy (sec : Nat) (s : State) : State :=
  if sec = 2 then { s with nv.copyA := none } else if sec = 3 then { s with nv.copyB := none } else s

/-- The content a configuration copy takes when its first page is programmed. -/
def takeConfig (o : NvOp) (s : State) : State :=
  match o with
  | .cfgPage _ 0 =>
    let st := match s.nv.newDeck with
      | some (area, crcs) => { s.cfg with deckLive := some area, deckCrcs := crcs }
      | none => s.cfg
    { s with nv.writing := some { gen := nextCfgGen s, settings := st } }
  | _ => s

/-- A configuration copy takes over with its VALID (R324); a descriptor waiting in it becomes live (R331). -/
def commitCopy (c : Bool) (s : State) : State :=
  match s.nv.writing with
  | none => s
  | some w =>
    let s := if c then { s with nv.copyB := some w } else { s with nv.copyA := some w }
    let s := match s.nv.newDeck with
      | some (area, crcs) =>
        if w.settings.deckLive = some area ∧ w.settings.deckCrcs = crcs then
          { s with cfg.deckLive := some area, cfg.deckCrcs := crcs, nv.newDeck := none } else s
      | none => s
    { s with nv.cfgGen := w.gen, nv.writing := none }

/-- A record whose program failed or was cut: its slot and JSEQ are used up, its bytes are a free value. -/
def tornRec (j : Bool) (ty sec : Nat) (payload : List Byte) (s : State) : State :=
  let n := s.nv.jseq + 1
  let s := { s with nv.jseq := n }
  match jNext s.nv.mem j with
  | some k => spend (nvProgram (jBase j + 64 * k) (tornData s.draws (jBase j + 64 * k) (recBytes ty sec n payload)) s)
  | none => s

/-- A record is programmed, or left torn. -/
def putRec (ok : Bool) (j : Bool) (ty sec : Nat) (payload : List Byte) (s : State) : State :=
  if ok then writeRec j ty sec payload s else tornRec j ty sec payload s

/-- What an operation leaves in the store and the node when it ends; with `ok` false it failed verification and what
it touched is a free value. -/
def opEffect (j : Job) (o : NvOp) (ok : Bool) (s : State) : State :=
  match o with
  | .intent sec => putRec ok (jFor s.nv.mem sec) 1 sec (List.replicate 52 0) s
  | .done sec => putRec ok (jFor s.nv.mem sec) 2 sec (List.replicate 52 0) s
  | .erase sec =>
    let s := dropCopy sec (nvEraseSec sec s)
    if ok then s
    else spend (nvProgram (4096 * sec) ((List.range 4096).map fun i => Config.tornByte s.draws (4096 * sec + i)) s)
  | .counterRec b =>
    if ok then writeCounters 2 b s else tornRec (liveJ s.nv.mem) 3 0 (counterPayload s 2 b) s
  | .carry sec =>
    match latestCounters s.nv.mem with
    | some r => putRec ok (sec == 1) 3 0 ((r.drop 8).take 52) s
    | none => s
  | o =>
    let s := takeConfig o s
    match opBytes j o s with
    | none => s
    | some (a, d) =>
      if ok then
        let s := nvProgram a d s
        match o with
        | .cfgValid c => commitCopy c s
        | .secValid c => { s with sec.copy := some c, sec.gen := s.sec.gen + 1 }
        | _ => s
      else spend (nvProgram a (tornData s.draws a d) s)

/-- A program's read-back: every written byte as asked (R316, R331, R432). -/
def readBack (a : Nat) (d : List Byte) (s : State) : Bool := nvBytesAt s a d.length == d

/-! ## Ends of jobs -/

/-- Pages of a deck area still to program. -/
def deckPagesLeft (ops : List NvOp) : Nat :=
  (ops.filter fun o => match o with
    | .deckPage _ _ => true
    | _ => false).length

/-- The CRC-32 of each sector of a deck area as the store holds it. -/
def areaCrcs (s : State) (b : Bool) : List W32 :=
  (List.range 24).map fun i => BitVec.ofNat 32 (crc32 (nvBytesAt s (areaBase b + 4096 * i) 4096))

/-- The CRC-32 of each sector of the active bank (R331). -/
def bankCrcs (s : State) : List W32 :=
  (List.range 24).map fun i => BitVec.ofNat 32 (crc32 (deckBytes s.rd.active (4096 * i) 4096))

/-- A commit of the security configuration brings its change into force (R423, R438, R453, R456, R459 to R461). -/
def secCommitted (ch : SecChange) (s : State) : State :=
  let s := { s with sec := secStored ch s.sec }
  match ch with
  | .confirmed _ => { s with fw.trial := false }
  | _ => s

/-- A commit failed: what took effect at its boundary goes back (R423, R438). -/
def secFailed (ch : SecChange) (s : State) : State :=
  match ch with
  | .protect v before => if s.sec.prot = v then { s with sec.prot := before } else s
  | .lock on before => if s.sec.locked = on then { s with sec.locked := before } else s
  | _ => s

/-- The result of a verb whose security change was committed, or failed (R418, R423, R437, R438). -/
def secResult (ch : SecChange) (ok : Bool) (s : State) : Byte × List Byte :=
  let st := if ok then stOk else stNvFailed
  match ch with
  | .protect _ _ => (st, [BitVec.ofNat 8 s.sec.prot.toNat])
  | .lock _ _ => (st, [bit s.sec.locked])
  | .newKey _ _ _ => (st, leBytes 4 s.sec.kgen)
  | _ => (st, [])

/-- The sectors a factory reset erases, other than the key store (R456). -/
def factorySectors : List Nat :=
  [2, 3] ++ (List.range 0x34).map (· + 0x0C) ++ (List.range 0x80).map (· + 0x40)

/-- The next stage of a factory reset after its first commit, and after its erasures (R456). -/
def factoryErasures (m : Memory) : List NvOp :=
  eraseOps 0xF9 ++ [.page 0xF9000 keyStoreBytes, .valid 0xF9]
    ++ (factorySectors.filter fun sec => !sectorBlank m sec).flatMap eraseOps

/-- What the end of a job does (R319, R331, R340, R385 to R388, R414, R418, R421, R422, R431 to R438, R456). -/
def finishJob (j : Job) (s : State) : State :=
  let st := if j.failed then stNvFailed else stOk
  match j.kind with
  | .nvWrite a d asked =>
    resolveOpt j.tok (if j.failed then stNvFailed else if d.length < asked then stPartial else stOk) (leBytes 2 d.length)
      (touchSlot a s)
  | .nvErase sec => resolveOpt j.tok st [] (touchSlot (4096 * sec) s)
  | .scene _ count cut =>
    resolveOpt j.tok (if j.failed then stNvFailed else if cut then stPartial else stOk) [BitVec.ofNat 8 count] s
  | .sceneErase _ => resolveOpt j.tok st [] s
  | .deckSave _ pages _ cut =>
    resolveOpt j.tok (if cut then stPartial else st) (leBytes 2 pages)
      (if j.failed || cut then { s with nv.newDeck := none } else s)
  | .counterSave =>
    let s := { s with nv.bankDue := some (s.now + Config.secPs) }
    resolveOpt j.tok st ([s.cfg.period] ++ leBytes 4 (if j.failed then 0 else s.nv.jseq)) s
  | .fwErase => resolveOpt j.tok st [BitVec.ofNat 8 (targetSlot s)] (if j.failed then { s with fw.session := none } else s)
  | .fwPage _ _ held =>
    resolveOpt j.tok st (leBytes 4 held) (if j.failed then { s with fw.session := none } else s)
  | .config => s
  | .curves => s
  | .periodicSave => { s with nv.bankDue := some (s.now + Config.secPs) }
  | .bankErase => if j.failed then { s with nv.bankDue := some (s.now + Config.secPs) } else s
  | .journalSwitch => s
  | .eraseDone => s
  | .security ch =>
    let s := if j.failed then secFailed ch s else secCommitted ch s
    let r := secResult ch (!j.failed) s
    let s := resolveOpt j.tok r.1 r.2 s
    match ch with
    | .freset true =>
      if j.failed then { s with sec.factory := false }
      else addJob { kind := .factoryErase, user := false, op := 0, ops := factoryErasures s.nv.mem, tok := none,
                    failed := false } s
    | .freset false => { s with pw.resetReq := some { waits := none, due := some s.now } }
    | _ => s
  | .factoryErase => addJob (secJob (.freset false) [] none s) s

/-- A deck save moves on: all pages programmed, each sector is read back against its CRC-32, and the descriptor waits
for the configuration copy at the end of the job (R331). -/
def deckSaveStep (o : NvOp) (j : Job) (s : State) : Job × State :=
  match j.kind, o with
  | .deckSave area pages crcs cut, .deckPage _ _ =>
    let crcs := if pages = 0 then bankCrcs s else crcs
    let j := { j with kind := .deckSave area (pages + 1) crcs cut }
    if pages + 1 = 384 ∧ cut = false then
      if areaCrcs s area = crcs then (j, { s with nv.newDeck := some (area, crcs) })
      else ({ j with failed := true }, s)
    else (j, s)
  | _, _ => (j, s)

/-- What a job that is abandoned still carries out: the program in progress (`running`), and an erase that its ERASE-INTENT has
begun, with its ERASE-DONE (R326) [74]. -/
def opsKept (running : Bool) (ops : List NvOp) : List NvOp :=
  match ops with
  | .intent a :: .erase b :: .done c :: _ => if running then [.intent a, .erase b, .done c] else []
  | .erase b :: .done c :: _ => [.erase b, .done c]
  | .done c :: _ => [.done c]
  | o :: _ => if running then [o] else []
  | [] => []

/-- A deck save with pages still to program is cut by a bank flip: once a program in progress has ended it answers
PARTIAL with the pages written (R331). -/
def cutJob (running : Bool) (j : Job) : Job :=
  match j.kind with
  | .deckSave area pages crcs _ =>
    if deckPagesLeft j.ops = 0 then j
    else { j with kind := .deckSave area pages crcs true, ops := opsKept running j.ops }
  | _ => j

/-- Jobs without operations left end. -/
def endEmpty (s : State) : State :=
  let l := s.nv.jobs.filter fun j => j.ops.isEmpty
  l.foldl (fun s j => finishJob j s) { s with nv.jobs := s.nv.jobs.filter fun j => !j.ops.isEmpty }

/-- A bank flip meets the running deck save (R331). -/
def cutDeckSave (s : State) : State :=
  let r := match s.nv.running with
    | some (_, user) => user
    | none => false
  endEmpty { s with nv.jobs := s.nv.jobs.map (cutJob r) }

/-- The journal switch of R327, where it is due: fewer than 8 free slots, nothing pending, a COUNTERS record exists. -/
def journalCheck (s : State) : State :=
  let m := s.nv.mem
  let l := liveJ m
  if jFree m l < 8 ∧ (latestCounters m).isSome = true ∧ pendingOf (jRecords m l) = []
      ∧ s.nv.jobs.all (fun j => j.kind != .journalSwitch) = true then
    let o := if l then 0 else 1
    { s with nv.jobs := { kind := .journalSwitch, user := false, op := 0, ops := eraseOps o ++ [.carry o], tok := none,
                          failed := false } :: s.nv.jobs }
  else s

end Sys2Proof.Machine
end

