-- ==== Sys2Proof/Machine/VerbsNode.lean ====
section
/-!
DEFINITION. Node, addressing, roll-call and time verbs (14): for each verb its checks (`chk`), its effect at a
boundary (`eff`) and its answer (`ans`), which is taken after every clause of the boundary (R391).
-/
namespace Sys2Proof.Machine

/-- The boundary a verb takes effect at, and the clause it stands in. -/
structure Bd where
  /-- Render time of the boundary (R15). -/
  t : W48
  /-- Origin o of fades, effects and winks: apply-at WT, or the render time (R190, R295). -/
  org : W48
  /-- Order key of the clause (R192). -/
  key : Key
  /-- The clause's header. -/
  q : Req
  /-- Where a late result goes. -/
  tok : Tok
  /-- The state before the clause (R190). -/
  pre : State

/-- An answer: the state after reading, and status with result bytes. -/
abbrev Ans := State × (Byte × List Byte)

/-- OK with result bytes, nothing changed by the reading. -/
def okAns (s : State) (r : List Byte) : Ans := (s, (stOk, r))

/-! ## ID.READ, NODE.STATUS, NODE.RESET, factory reset, NODE.REST -/

/-- ID.READ (Table 14-2). -/
def ansIdRead (s : State) : Ans :=
  okAns s (leBytes 8 s.node.uid.toNat ++ [s.node.member.code, BitVec.ofNat 8 s.node.member.ports]
    ++ leBytes 2 s.node.member.cells ++ leBytes 2 s.node.member.nvKb ++ leBytes 2 s.node.member.ramKb
    ++ [if s.node.member.harvester then 3 else 0, Config.romMajor, Config.romMinor] ++ leBytes 2 s.cfg.addr.toNat)

/-- NODE.STATUS (Table 14-2); reading clears ADDR_CONTEST (R158, R366). -/
def ansNodeStatus (s : State) : Ans :=
  ({ s with node.contest := false },
   (stOk, [s.pw.cause] ++ leBytes 2 (nodeFlags s) ++ [wtq s] ++ (allPorts.map fun p => (pstate s p).code)
      ++ [BitVec.ofNat 8 s.cl.timed.length] ++ leSigned 2 s.pw.tAvg))

/-- The conditions of a factory reset; its 60 s count up to the take-up of its clause (R225, R367). -/
def chkFactoryReset (confirm : Byte) (q : Req) (s : State) : Byte :=
  firstBad [(confirm != 0xA5, stBadArg),
    (q.mbox != .svc || s.pw.gp3 || decide (s.now > s.pw.bootAt + 60 * Config.secPs), stNotSupported)]

/-- Those of them that are checked again as it falls due. -/
def dueFactoryReset (confirm : Byte) (q : Req) (s : State) : Byte :=
  firstBad [(confirm != 0xA5, stBadArg), (q.mbox != .svc || s.pw.gp3, stNotSupported)]

/-- A factory reset starts with its first commit (R456); it sends no reply, and SVC is silent until its reset (R225). -/
def effFactoryReset (s : State) : State :=
  addJob (secJob (.freset true) [] none s) { s with sec.factory := true }

/-- NODE.RESET (R367). -/
def chkNodeReset (mode confirm : Byte) (q : Req) (s : State) : Byte :=
  firstStatus [firstBad [(confirm != 0xA5 || decide (mode.toNat > 1), stBadArg)],
    if mode = 1 then chkFactoryReset confirm q s else stOk]

/-- NODE.RESET as it falls due. -/
def dueNodeReset (mode confirm : Byte) (q : Req) (s : State) : Byte :=
  firstStatus [firstBad [(confirm != 0xA5 || decide (mode.toNat > 1), stBadArg)],
    if mode = 1 then dueFactoryReset confirm q s else stOk]

/-- NODE.RESET mode 0 waits for its clause's reply (R367). -/
def effNodeReset (mode : Byte) (b : Bd) (s : State) : State :=
  if mode = 1 then effFactoryReset s
  else { s with pw.resetReq := some { waits := some b.tok.id, due := none } }

/-- NODE.REST (R71, R368, Table 14-2). -/
def chkNodeRest (mode keep : Byte) (hold : W16) (s : State) : Byte :=
  firstBad [(decide (mode.toNat > 2) && mode != 0xFF, stBadArg), (decide (keep.toNat > 1) && keep != 0xFF, stBadArg),
    (hold != 0 && (decide (hold.toNat < 50) || decide (hold.toNat > 60000)), stRange), (poor s, stNotSupported)]

/-- NODE.REST's effect (R81, R368). -/
def effNodeRest (mode keep : Byte) (hold : W16) (b : Bd) (s : State) : State :=
  let s := persist { s with
    cfg.restOk := if mode = 0 then false else if mode = 1 then true else s.cfg.restOk
    cfg.keep := if keep = 0 then false else if keep = 1 then true else s.cfg.keep
    cfg.restHold := if hold = 0 then s.cfg.restHold else hold.toNat }
  let s := if hold = 0 then s else restartHold s
  if mode = 2 then { s with pw.shelfReq := some (some b.tok.id) } else s

/-- NODE.REST's result. -/
def ansNodeRest (s : State) : Ans := okAns s ([bit s.cfg.restOk, bit s.cfg.keep] ++ leBytes 2 s.cfg.restHold)

/-! ## Addresses and groups -/

/-- ADDR.SET (R370). -/
def chkAddrSet (addr : W16) (uid : W64) (lk : Byte) (s : State) : Byte :=
  firstStatus [firstBad [(decide (addr.toNat > 0x0FFF), stRange), (uid != s.node.uid, stBadArg)], lk]

/-- ADDR.SET's effect: in force from the boundary (R370); what waits and may no longer be sent is dropped (R147). -/
def effAddrSet (addr : W16) (s : State) : State := dropUnsent (persist { s with cfg.addr := addr })

/-- The node answers an ADDR.CLAIM (R371). -/
def claimAnswers (value mask : W64) (q : Req) (s : State) : Bool :=
  (s.node.uid &&& mask == value &&& mask) && !q.noreply
    && (q.kind == .individual || (unaddressed s && (q.kind == .broadcast || q.kind == .unaddressed)))

/-- ADDR.CLAIM's effect: a holdoff from 0 to SPREAD × 10 ms in steps of 100 µs (R371). -/
def effAddrClaim (value mask : W64) (spread : Byte) (b : Bd) (s : State) : State :=
  if claimAnswers value mask b.q s then
    let (d, s) := drawN (100 * spread.toNat) s
    { s with span.claims := s.span.claims ++ [{ due := s.now + 100 * Config.usPs * d, req := b.q, body := [],
                                                id := b.tok.id }] }
  else s

/-- ADDR.CLAIM's result. -/
def ansAddrClaim (s : State) : Ans := okAns s (leBytes 8 s.node.uid.toNat ++ [s.node.member.code])

/-- GROUP.SET (R373). -/
def chkGroupSet (op : Byte) (lk : Byte) : Byte := firstStatus [firstBad [(decide (op.toNat > 2), stBadArg)], lk]

/-- GROUP.SET's effect. -/
def effGroupSet (op : Byte) (map : BitVec 256) (s : State) : State :=
  persist { s with cfg.groups := if op = 0 then map else if op = 1 then s.cfg.groups ||| map else s.cfg.groups &&& ~~~ map }

/-- GROUP.READ. -/
def ansGroupRead (s : State) : Ans := okAns s (leBytes 32 s.cfg.groups.toNat)

/-! ## Roll-call -/

/-- ROLLCALL (R374). -/
def chkRollcall (base : W16) (count kind : Byte) : Byte :=
  firstBad [(decide (kind.toNat > 3), stBadArg),
    (base == 0 || decide (base.toNat + count.toNat > 0x0FFF), stRange)]

/-- The node's address lies in the range (R164). -/
def inRollRange (base : Nat) (count : Nat) (s : State) : Bool :=
  !unaddressed s && decide (base ≤ s.cfg.addr.toNat) && decide (s.cfg.addr.toNat < base + count)

/-- Table 14-4 from offset 3 on. -/
def rollBytes (kind : Nat) (s : State) : List Byte :=
  if kind = 1 then
    leBytes 2 (sat 16 (overPorts (faultyOf s))) ++ leBytes 2 (sat 16 (overPorts (unreachOf s)))
      ++ leBytes 2 (sat 16 (overPorts (staleOf s)))
      ++ [BitVec.ofNat 8 (downPorts s + 16 * s.span.skipMark.toNat),
          BitVec.ofNat 8 (sat 8 (overPorts fun p => countCells s p (·.hot)))]
  else if kind = 2 then leBytes 2 s.pw.vin ++ leBytes 2 (vresShown s) ++ [pflags s, wtq s]
  else if kind = 3 then
    leBytes 8 s.node.uid.toNat ++ leBytes 2 (nodeFlags s) ++
      [wtq s, BitVec.ofNat 8 (allPorts.foldl (fun a p => a + (pstate s p).code2 * 4 ^ p.val) 0)]
  else []

/-- A kind-1 reply starts the SKIP marks afresh (Table 14-4). -/
def rollRead (kind : Nat) (s : State) : State := if kind = 1 then { s with span.skipMark := 0 } else s

/-- ROLLCALL outside R164: an ordinary reply (R376). -/
def ansRollcall (base : W16) (count kind : Byte) (s : State) : Ans :=
  if inRollRange base.toNat (count.toNat + 1) s then
    (rollRead kind.toNat s, (stOk, rollBytes kind.toNat s))
  else okAns s []

/-! ## WINK -/

/-- WINK (R377). -/
def chkWink (seconds : W16) (ports : Byte) (s : State) : Byte :=
  firstBad [(!highZero 4 ports, stBadArg), (decide (seconds.toNat > 600), stRange),
    (maskBeyond s.node.member ports, stNotSupported)]

/-- WINK's effect, with origin o (R377). -/
def effWink (seconds : W16) (ports : Byte) (b : Bd) (s : State) : State :=
  { s with node.winkFrom := b.org, node.winkSecs := seconds.toNat, node.winkPorts := BitVec.ofNat 4 ports.toNat }

/-! ## Time -/

/-- TIME.KEYSTONE is accepted from Spanline only (R378). -/
def chkTimeKeystone (q : Req) : Byte := firstBad [(q.mbox == .svc, stNotSupported)]

/-- e = K - Ws (R194). -/
def keyError (k stamp : W48) : Int := (k.toNat : Int) - stamp.toNat

/-- ACTION of TIME.KEYSTONE (Table 7-6, R378): 0 none, 1 slew, 2 step. -/
def keyAction (lost : Bool) (e : Int) : Byte :=
  if lost || decide (e.natAbs > 256) then 2 else if e.natAbs ≤ 2 then 0 else 1

/-- TIME.KEYSTONE's effect: the correction waits for the boundary (R194 to R196); LOST ends with the first accepted
keystone, and POOR after a boot that returned to the LFXO (R70, R110, R193). -/
def effTimeKeystone (k : W48) (b : Bd) (s : State) : State :=
  let e := keyError k b.q.stamp
  let c := match keyAction s.ka.lost e with
    | 2 => Corr.step e
    | 1 => Corr.slew e
    | _ => Corr.slew 0
  { s with
    ka.corr := some c
    ka.lastE := e
    ka.ksAt := some s.now
    ka.good := true
    ka.lost := false
    ka.poorHeld := false
    fw.sawKey := true }

/-- TIME.KEYSTONE's result (R378). -/
def ansTimeKeystone (k : W48) (b : Bd) (s : State) : Ans :=
  let e := keyError k b.q.stamp
  okAns s (leSigned 4 e ++ [keyAction b.pre.ka.lost e])

/-- The slew still to run, one waiting for its boundary included (R379). -/
def slewLeft (s : State) : Int :=
  match s.ka.corr with
  | some (.slew e) => e
  | _ => s.ka.slew

/-- TIME.READ (R379). -/
def ansTimeRead (b : Bd) (s : State) : Ans :=
  okAns s (leBytes 6 b.t.toNat ++ [wtq s] ++ leSigned 4 s.ka.lastE
    ++ (match s.ka.ksAt with
        | some a => leBytes 4 (sat 32 ((s.now - a) / Config.tickPs))
        | none => leBytes 4 0xFFFFFFFF) ++ leSigned 2 (slewLeft s))

/-- FRAME.RATE (R380). -/
def chkFrameRate (mode : Byte) (value : W16) : Byte :=
  firstBad [(decide (mode.toNat > 1) && mode != 0xFF, stBadArg),
    (mode == 0 && (decide (value.toNat < 8) || decide (value.toNat > 255)), stRange),
    (mode == 1 && (decide (value.toNat < 16) || decide (value.toNat > 512)), stRange)]

/-- FRAME.RATE's effect (R310, R380). -/
def effFrameRate (mode : Byte) (value : W16) (s : State) : State :=
  if mode = 0xFF then s
  else persist { s with
    cfg.freeRun := mode == 1
    cfg.frameValue := value.toNat
    cfg.sync := if s.cfg.sync = 2 then 0 else s.cfg.sync
    rd.syncLocked := false
    rd.syncHold := false }

/-- FRAME.RATE's result (R380). -/
def ansFrameRate (s : State) : Ans :=
  okAns s (if s.rd.syncLocked then [2] ++ leBytes 2 (s.cfg.frameValue + (if s.cfg.freeRun then 0x8000 else 0))
    else [bit s.cfg.freeRun] ++ leBytes 2 s.cfg.frameValue)

/-- SYNC.CFG (R381). -/
def chkSyncCfg (mode : Byte) : Byte := firstBad [(decide (mode.toNat > 2) && mode != 0xFF, stBadArg)]

/-- SYNC.CFG's effect (R309, R310, R381). -/
def effSyncCfg (mode : Byte) (s : State) : State :=
  if mode = 0xFF then s
  else
    let s := persist { s with cfg.sync := mode }
    if mode = 2 then
      (if s.rd.syncLocked then s
       else { s with rd.syncLocked := true, rd.edgeAt := none, rd.intervals := [], rd.syncHold := false })
    else { s with rd.syncLocked := false, rd.syncHold := false }

/-- R309 places boundaries without accepted edges. -/
def syncHolding (s : State) : Bool := s.rd.syncLocked && (s.rd.intervals.isEmpty || s.rd.syncHold)

/-- SYNC.CFG's result (R381). -/
def ansSyncCfg (s : State) : Ans :=
  okAns s ([s.cfg.sync, bit (syncHolding s)] ++ leBytes 2 (meanInterval s / Config.usPs))

end Sys2Proof.Machine
end

