-- ==== Sys2Proof/Machine/VerbsDeck.lean ====
section
/-!
DEFINITION. Deck, staging and curve verbs (07, 12, 15): checks, effects and answers.
-/
namespace Sys2Proof.Machine

/-! ## Staging (R198 to R201, Table 7-7) -/

/-- Bytes `lo` to `hi - 1` of the bank overlap a load still running, which covers every entry it has a byte in (R400). -/
def loadOverlaps (lo hi : Nat) (s : State) : Bool :=
  s.st.loads.any fun l =>
    let a := 4096 * l.first / 24 * 24
    let e := (4096 * (l.first + l.count) + 23) / 24 * 24
    decide (lo < e) && decide (a < hi)

/-- The refusals of Table 7-7 that name no range: no stage, another owner, a commit armed. -/
def stageStatus (q : Req) (s : State) : Byte :=
  match s.st.owner with
  | none => stNoStage
  | some o => firstBad [(o != owner q, stStageConflict), (s.st.commit.isSome, stStageConflict)]

/-- A staging verb from the owner restarts the idle time (R201, R396). -/
def touchStage (s : State) : State := { s with st.lastAt := s.now }

/-- An armed commit is disarmed: PARTIAL with FLIPWT 0 (R398). -/
def disarm (s : State) : State :=
  match s.st.commit with
  | some c => resolve c.tok stPartial (List.replicate 6 0) { s with st.commit := none }
  | none => s

/-- Loads still running are abandoned: each verb reports PARTIAL with the sectors copied. R201 gives its verb no result: DESIGN
CHOICE [76]. -/
def dropLoad (s : State) : State :=
  s.st.loads.foldl (fun s l => resolve l.tok stPartial [BitVec.ofNat 8 l.done] s) { s with st.loads := [] }

/-- The stage is aborted and its content discarded (R201). -/
def abortStage (s : State) : State := { dropLoad (disarm s) with st.owner := none }

/-- STAGE.BEGIN. -/
def chkStageBegin (q : Req) (s : State) : Byte :=
  match s.st.owner with
  | none => stOk
  | some o => firstBad [(o != owner q, stStageConflict), (s.st.commit.isSome, stStageConflict)]

/-- STAGE.BEGIN's effect: the active bank copied to staging (R198, R396). -/
def effStageBegin (b : Bd) (s : State) : State :=
  touchStage { dropLoad s with st.owner := some (owner b.q), rd.staging := s.rd.active, rd.stale := none }

/-- STAGE.COMMIT (R189, R397). -/
def chkStageCommit (flags : Byte) (c : W48) (q : Req) (s : State) : Byte :=
  firstStatus [firstBad [(!highZero 1 flags, stBadArg), (flags.getLsbD 0 && c != 0, stBadArg)],
    stageStatus q s, if flags.getLsbD 0 then stOk else timeStatus s.ka.lost (wtN s) c.toNat]

/-- Render time of the boundary before the one of render time `t`. -/
def boundaryBefore (t : W48) (s : State) : W48 := if s.rd.lastT = t then s.rd.prevT else s.rd.lastT

/-- STAGE.COMMIT's effect: a flip is armed; the first boundary at or after C may have passed already (R200, R397). -/
def effStageCommit (flags : Byte) (c : W48) (b : Bd) (s : State) : State :=
  let asap := flags.getLsbD 0
  touchStage { s with st.commit := some { c := c, asap := asap, tok := b.tok
                                          missed := !asap && decide (c.toNat ≤ (boundaryBefore b.t s).toNat) } }

/-- STAGE.ABORT (R399). -/
def chkStageAbort (q : Req) (s : State) : Byte :=
  match s.st.owner with
  | none => stNoStage
  | some o => firstBad [(o != owner q, stStageConflict)]

/-- STAGE.ABORT's effect. -/
def effStageAbort (s : State) : State := abortStage s

/-! ## Deck -/

/-- Cell position of a global index beyond the member's cells or ports (R394). -/
def beyondMember (s : State) (g : Nat) : Bool :=
  decide (g % 1024 ≥ s.node.member.cells) || decide (g / 1024 ≥ s.node.member.ports)

/-- An entry's reserved bits and bytes are 0 (Table 11-4). -/
def entryOk (e : List Byte) : Bool :=
  highZero 4 (e.getD 1 0) && highZero 4 (e.getD 3 0) && (e.drop 19).all (· == 0)

/-- DECK.WRITE (R394, Table 7-7). -/
def chkDeckWrite (first : W16) (entries : List Byte) (q : Req) (s : State) : Byte :=
  let m := entries.length / 24
  let es := (List.range m).map fun i => (entries.drop (24 * i)).take 24
  firstStatus [firstBad [(decide (first.toNat + m > 4096), stRange), (!es.all entryOk, stBadArg),
      ((List.range m).any fun i => beyondMember s (first.toNat + i), stNotSupported)],
    stageStatus q s,
    firstBad [(loadOverlaps (first.toNat * 24) ((first.toNat + m) * 24) s, stStageConflict)]]

/-- DECK.WRITE's effect: entries in the staging bank (R394). -/
def effDeckWrite (first : W16) (entries : List Byte) (s : State) : State :=
  touchStage { s with rd.staging := deckPut s.rd.staging (first.toNat * 24) entries }

/-- DECK.READ (R395). -/
def chkDeckRead (bank : Byte) (first : W16) (count : Byte) (s : State) : Byte :=
  let lo := first.toNat
  firstBad [(decide (bank.toNat > 1), stBadArg), (count == 0 || decide (count.toNat > 9), stRange),
    (decide (lo + count.toNat > 4096), stRange),
    ((List.range count.toNat).any fun i => beyondMember s (lo + i), stNotSupported),
    (bank == 1 && s.st.owner.isNone, stNoStage),
    (bank == 1 && loadOverlaps (lo * 24) ((lo + count.toNat) * 24) s, stStageConflict)]

/-- Bytes of the staging bank: between a flip and the next STAGE.BEGIN free values (R200). -/
def stagingBytes (s : State) (a n : Nat) : List Byte :=
  match s.rd.stale with
  | some k => (List.range n).map fun i => Config.staleByte k (a + i)
  | none => deckBytes s.rd.staging a n

/-- DECK.READ's result. -/
def ansDeckRead (bank : Byte) (first : W16) (count : Byte) (s : State) : Ans :=
  let a := first.toNat * 24
  let n := 24 * count.toNat
  okAns s (if bank = 1 then stagingBytes s a n else deckBytes s.rd.active a n)

/-- DECK.SAVE (R317, R319, R401). -/
def chkDeckSave (lk : Byte) (s : State) : Byte :=
  firstStatus [lk, firstBad [(protectedQ s 2, stNvProtected), (userJob s, stBusyNv)]]

/-- DECK.SAVE's effect: 443 programs and 25 erases into the area that is not live (R331, Table 12-4). -/
def effDeckSave (b : Bd) (s : State) : State :=
  let area := match s.cfg.deckLive with
    | some a => !a
    | none => false
  let sec := areaBase area / 4096
  let ops := (List.range 24).flatMap (fun i => eraseOps (sec + i)) ++ (List.range 384).map (NvOp.deckPage area)
    ++ configOps (configTarget s)
  addJob { kind := .deckSave area 0 [] false, user := true, op := 0x45, ops := ops, tok := some b.tok, failed := false } s

/-- DECK.LOAD (R198, R400, Table 7-7); housekeeping jobs do not refuse it (R319). -/
def chkDeckLoad (first count : Byte) (q : Req) (s : State) : Byte :=
  let lo := 4096 * first.toNat
  let hi := 4096 * (first.toNat + count.toNat)
  firstStatus [firstBad [(decide (first.toNat > 23), stRange), (count == 0, stRange),
      (decide (first.toNat + count.toNat > 24), stRange)],
    stageStatus q s,
    firstBad [(loadOverlaps (lo / 24 * 24) ((hi + 23) / 24 * 24) s, stStageConflict), (userJob s, stBusyNv)]]

/-- DECK.LOAD's effect: the load begins (R199), behind one that still runs [75]; with no descriptor it fails at once with count 0
(R332). -/
def effDeckLoad (first count : Byte) (b : Bd) (s : State) : State :=
  touchStage { s with st.loads := s.st.loads ++ [{ first := first.toNat, count := count.toNat, done := 0,
                                                   failed := s.cfg.deckLive.isNone, tok := b.tok }] }

/-- Sectors of a load are left to copy. -/
def Load.runs (l : Load) : Bool := !l.failed && decide (l.done < l.count)

/-- Sector `i` of the image, as the store holds it in `d`, has its CRC-32 (R332). -/
def sectorGood (i : Nat) (d : List Byte) (s : State) : Bool :=
  decide (i < s.cfg.deckCrcs.length) && BitVec.ofNat 32 (crc32 d) == s.cfg.deckCrcs.getD i 0

/-- The first load that still runs takes a step. -/
def stepLoads (f : Load → Load) : List Load → List Load
  | [] => []
  | l :: t => if l.runs then f l :: t else l :: stepLoads f t

/-- The next sector of the first load that still runs is copied from the live area, or fails its check (R199, R332). -/
def loadSector (s : State) : State :=
  match s.st.loads.find? Load.runs, s.cfg.deckLive with
  | some l, some area =>
    let i := l.first + l.done
    let d := nvBytesAt s (areaBase area + 4096 * i) 4096
    if sectorGood i d s then
      { s with rd.staging := deckPut s.rd.staging (4096 * i) d
               st.loads := stepLoads (fun l => { l with done := l.done + 1 }) s.st.loads }
    else { s with st.loads := stepLoads (fun l => { l with failed := true }) s.st.loads }
  | some _, none => { s with st.loads := stepLoads (fun l => { l with failed := true }) s.st.loads }
  | none, _ => s

/-- A load into staging is running: sectors are left, or its failure has not been acted on (R200). -/
def loadRuns (s : State) : Bool := s.st.loads.any fun l => l.failed || decide (l.done < l.count)

/-- Some port is running, so a load takes one sector per frame period (R199). -/
def anyRunning (s : State) : Bool := allPorts.any fun p => (pstate s p).running

/-! ## Curves (R402, R403) -/

/-- The buffer a later chunk of CURVE.WRITE continues. -/
def curveChunkOk (id : Byte) (first : Nat) (q : Req) (s : State) : Bool :=
  match s.nv.curveBuf with
  | some f => f.id == id && f.owner == owner q && f.points.length == first
  | none => false

/-- CURVE.WRITE. -/
def chkCurveWrite (id flags : Byte) (first : W16) (points : List W16) (q : Req) (s : State) : Byte :=
  firstBad [(decide (id.toNat < 16), stBadArg), (decide (id.toNat > 47), stRange), (!highZero 1 flags, stBadArg),
    (flags.getLsbD 0 && (first != 0 || !points.isEmpty), stBadArg),
    (decide (first.toNat > 256), stRange),
    (first != 0 && !curveChunkOk id first.toNat q s, stBadArg),
    (decide (first.toNat + points.length > 257), stRange)]

/-- The headered sector of a user curve (R333). -/
def curveSector (id : Nat) : Nat := if id < 44 then 0x0C + (id - 16) / 7 else 0xB0

/-- A curve was replaced: its sector is to be rewritten within 1 s (R333). -/
def curveChanged (id : Nat) (s : State) : State :=
  let sec := curveSector id
  if s.nv.curveDirty.any fun e => e.1 == sec then s
  else { s with nv.curveDirty := s.nv.curveDirty ++ [(sec, s.now)] }

/-- The points held after a chunk. -/
def curvePoints (first : W16) (points : List W16) (s : State) : List W16 :=
  if first = 0 then points
  else match s.nv.curveBuf with
    | some f => f.points ++ points
    | none => points

/-- CURVE.WRITE's effect: the buffer grows, and 257 points replace the curve (R402). -/
def effCurveWrite (id flags : Byte) (first : W16) (points : List W16) (b : Bd) (s : State) : State :=
  if flags.getLsbD 0 then
    let s := match s.nv.curveBuf with
      | some f => if f.id = id then { s with nv.curveBuf := none } else s
      | none => s
    curveChanged id.toNat { s with rd.curves := tset curveBlank s.rd.curves id.toNat [] }
  else
    let ps := curvePoints first points s
    if ps.length = 257 then
      curveChanged id.toNat { s with rd.curves := tset curveBlank s.rd.curves id.toNat ps, nv.curveBuf := none }
    else { s with nv.curveBuf := some { id := id, owner := owner b.q, points := ps, lastAt := s.now } }

/-- CURVE.WRITE's result: points held after the chunk, which are FIRST + m. -/
def ansCurveWrite (first : W16) (points : List W16) (s : State) : Ans :=
  okAns s (leBytes 2 (first.toNat + points.length))

/-- CURVE.READ. -/
def chkCurveRead (id : Byte) (first : W16) (count : Byte) : Byte :=
  firstStatus [firstBad [(id == 0, stBadArg)], curveStatus id,
    firstBad [(decide (first.toNat > 256), stRange), (count == 0 || decide (count.toNat > 100), stRange),
      (decide (first.toNat + count.toNat > 257), stRange)]]

/-- CURVE.READ's result: the points in force. -/
def ansCurveRead (id : Byte) (first : W16) (count : Byte) (s : State) : Ans :=
  let held := hasTable s id.toNat
  okAns s (bit held :: (List.range count.toNat).flatMap fun i =>
    leBytes 2 (if held then curvePoint s id.toNat (first.toNat + i) else 0))

end Sys2Proof.Machine
end

