-- ==== Sys2Proof/Machine/VerbsFail.lean ====
section
/-!
DEFINITION. Failure, counter and statistics verbs (15, R410 to R416): checks, effects and answers.
-/
namespace Sys2Proof.Machine

/-! ## FAIL.SUMMARY, FAIL.MAP -/

/-- FAIL.SUMMARY's result (R410). -/
def ansFailSummary (s : State) : Ans := okAns s (summary s)

/-- FAIL.MAP (R4, R411). -/
def chkFailMap (page mode first count : Byte) (s : State) : Byte :=
  firstBad [(decide (mode.toNat > 1), stBadArg), (decide (page.toNat > 15), stRange),
    (mode == 1 && (first != 0 || count != 0), stBadArg),
    (mode == 0 && (count == 0 || decide (count.toNat > 128) || decide (first.toNat + count.toNat > 256)), stRange),
    (decide (page.toNat / 4 ≥ s.node.member.ports) || decide (page.toNat % 4 * 256 ≥ s.node.member.cells),
      stNotSupported)]

/-- FAIL.MAP's result: map bytes, or the mask of entries that are not 0x00 (R411). -/
def ansFailMap (page mode first count : Byte) (s : State) : Ans :=
  let g := page.toNat * 256
  okAns s ([page, first] ++
    if mode = 0 then (List.range count.toNat).map fun i => mapByte s (g + first.toNat + i)
    else packBits 32 fun i => mapByte s (g + i) != 0)

/-! ## FAIL.NOTIFY (R351, R412) -/

/-- FAIL.NOTIFY. -/
def chkFailNotify (args : Option (W16 × Byte × Byte × Byte × Byte)) : Byte :=
  match args with
  | none => stOk
  | some (addr, mode, f, _, i) =>
    firstBad [(!(addr == 0 || addr == localSrc || (decide (0x2000 ≤ addr.toNat) && decide (addr.toNat ≤ 0x2FFF))), stRange),
      (decide (mode.toNat > 1), stBadArg), (f == 0 || decide (f.toNat > 15), stRange), (i == 0, stRange)]

/-- Pages with an entry whose CHFAULT or STALE is not 0. -/
def faultPages (s : State) : W16 :=
  s.fail.cells.foldl (fun m e =>
    if chfault e.2.map != 0 || stale e.2.map then m ||| BitVec.ofNat 16 (2 ^ (e.1 / 256)) else m) 0

/-- FAIL.NOTIFY's effect (R412). -/
def effFailNotify (args : Option (W16 × Byte × Byte × Byte × Byte)) (s : State) : State :=
  match args with
  | none => s
  | some (addr, mode, f, h, i) =>
    let was := s.cfg.notify.push
    let s := persist { s with cfg.notify := { addr := addr, push := mode == 1, f := f, h := h, i := i } }
    if mode = 0 then
      { s with fail.mask := 0, fail.late := 0, fail.coming := 0, fail.due := none
               ev.marks := s.ev.marks.filter fun m => m.op != 0xF0 }
    else if was then s
    else
      let m := faultPages s
      if m = 0 then s
      else
        let (d, s) := drawN (10 * h.toNat) s
        { s with fail.mask := m, fail.due := some (s.now + 10 * Config.msPs * d) }

/-- FAIL.NOTIFY's result: the settings in force. -/
def ansFailNotify (s : State) : Ans :=
  let n := s.cfg.notify
  okAns s (leBytes 2 n.addr.toNat ++ [bit n.push, n.f, n.h, n.i])

/-! ## Counters -/

/-- COUNTER.READ (R413). A position the member lacks reads 0: Table 15-1 lists no NOT_SUPPORTED for this verb, where R4
has one for any verb that names such a position: DESIGN CHOICE [80]. -/
def chkCounterRead (what : Byte) (first : W16) (count : Byte) : Byte :=
  firstBad [(decide (what.toNat > 1), stRange), (what == 0 && (first != 0 || count != 0), stBadArg),
    (what == 1 && (count == 0 || decide (count.toNat > 56) || decide (first.toNat + count.toNat > 4096)), stRange)]

/-- COUNTER.READ's result. -/
def ansCounterRead (what : Byte) (first : W16) (count : Byte) (s : State) : Ans :=
  let c := s.cnt
  okAns s (if what = 0 then
      leBytes 4 c.pon ++ leBytes 4 c.pup ++ allPorts.flatMap (fun p => leBytes 4 (c.cycles.get p))
        ++ [BitVec.ofNat 8 (flagBits [c.coarse, c.lost])] ++ leBytes 4 (if c.coarse then c.since else 0)
        ++ leBytes 6 c.saveWt.toNat ++ [s.cfg.period]
    else (List.range count.toNat).flatMap fun i => leBytes 4 (tget zeroNat c.onTime (first.toNat + i)))

/-- COUNTER.SAVE (R319, R414). -/
def chkCounterSave (flags period : Byte) (s : State) : Byte :=
  firstBad [(!highZero 2 flags, stBadArg), (period != 0 && !flags.getLsbD 1, stBadArg),
    (flags.getLsbD 0 && userJob s, stBusyNv)]

/-- An operation of a save into a counter bank, its first page apart. -/
def NvOp.saveGoing : NvOp → Bool
  | .counterPage _ k => k != 0
  | .counterRec _ => true
  | _ => false

/-- A save into the alternate bank has begun and not ended. -/
def saveBegun (s : State) : Bool :=
  s.nv.jobs.any (fun j => (j.kind == .periodicSave || j.kind == .counterSave) && j.ops.head?.any NvOp.saveGoing)
    || s.nv.running.any fun r => match r.1 with
      | .counterPage _ _ => true
      | _ => false

/-- The alternate bank is ready, or an erase of it is on its way, or a save is being written into it. -/
def bankTended (s : State) : Bool :=
  bankReady s (altBank s) || s.nv.jobs.any (fun j => j.kind == .bankErase) || saveBegun s

/-- The alternate bank is erased before a save into it, where no erase of it is on its way (R112, R414). -/
def readyBank (s : State) : State := if bankTended s then s else addJob (bankEraseJob (altBank s)) s

/-- COUNTER.SAVE's effect: the period, and a save as a user job behind any counter-bank erase (R414). -/
def effCounterSave (flags period : Byte) (b : Bd) (s : State) : State :=
  let s := if flags.getLsbD 1 then persist { s with cfg.period := period } else s
  if flags.getLsbD 0 then
    let s := readyBank s
    addJob { kind := .counterSave, user := true, op := 0x64, ops := saveOps (altBank s), tok := some b.tok,
             failed := false } s
  else s

/-- COUNTER.SAVE's result without a save. -/
def ansCounterSave (flags : Byte) (s : State) : Option Ans :=
  if flags.getLsbD 0 then none else some (okAns s ([s.cfg.period] ++ leBytes 4 0))

/-! ## CONCEAL.CFG, LINK.STATS -/

/-- CONCEAL.CFG (R415). -/
def chkConcealCfg (flags : Option Byte) : Byte :=
  match flags with
  | none => stOk
  | some f => firstBad [(!highZero 2 f, stBadArg)]

/-- CONCEAL.CFG's effect. -/
def effConcealCfg (flags : Option Byte) (s : State) : State :=
  match flags with
  | none => s
  | some f => persist { s with cfg.conceal := f.getLsbD 0, cfg.concealUnreach := f.getLsbD 1 }

/-- CONCEAL.CFG's result. -/
def ansConcealCfg (s : State) : Ans := okAns s [BitVec.ofNat 8 (flagBits [s.cfg.conceal, s.cfg.concealUnreach])]

/-- LINK.STATS (R416). -/
def chkLinkStats (mode : Byte) : Byte := firstBad [(decide (mode.toNat > 1), stBadArg)]

/-- The link statistics cleared (R359, R416); TX_DROPPED is not one of them. -/
def clearStats (s : State) : State :=
  upPorts (fun _ x => { x with tol := 0, parity := 0, skip := 0 })
    { s with span.crc := 0, span.partials := 0, span.overrun := 0, span.retries := 0, span.sentAfterCancel := 0,
             span.contests := 0 }

/-- LINK.STATS's result (Tables 13-3, 15-6), with its clearing form. -/
def ansLinkStats (mode : Byte) (s : State) : Ans :=
  let x := s.span
  (if mode = 1 then clearStats s else s,
   (stOk, [x.crc, x.partials, x.overrun, x.retries, x.sentAfterCancel, x.contests].flatMap (leBytes 4)
      ++ allPorts.flatMap fun p =>
        let y := s.ports.get p
        leBytes 4 y.tol ++ leBytes 4 y.parity ++ leBytes 4 y.skip))

end Sys2Proof.Machine
end

