-- ==== Sys2Proof/Machine/VerbsLevel.lean ====
section
/-!
DEFINITION. Level and scene verbs (14): checks, effects and answers.
-/
namespace Sys2Proof.Machine

/-! ## Levels (R382, Table 11-2) -/

/-- LEVEL.SET. -/
def chkLevelSet (mask : Byte) : Byte := maskStatus mask

/-- LEVEL.SET's effect: a step to the level at o, the curve unchanged. -/
def effLevelSet (zone mask : Byte) (level : W16) (b : Bd) (s : State) : State :=
  setLanes (zonesOf zone) (chansOf mask) b.key
    (fun l => { l with l0 := level, l1 := level, t0 := b.org, d := 0 }) s

/-- FADE.START. -/
def chkFadeStart (mask flags curve : Byte) : Byte :=
  firstStatus [maskStatus mask, firstBad [(!highZero 1 flags, stBadArg)], curveStatus curve]

/-- One lane of a FADE.START: the start level as stated, or the lane's value at o before the clause (R190). -/
def fadeLane (flags : Byte) (start target : W16) (dur : W32) (curve : Byte) (b : Bd) (z c : Nat) (l : Lane) : Lane :=
  { l with
    l0 := if flags.getLsbD 0 then BitVec.ofNat 16 (laneAt b.pre (zoneLane b.pre z c) b.org.toNat) else start
    l1 := target
    t0 := b.org
    d := dur
    c := curve }

/-- FADE.START's effect. -/
def effFadeStart (zone mask flags : Byte) (start target : W16) (dur : W32) (curve : Byte) (b : Bd) (s : State) : State :=
  (zonesOf zone).foldl (fun s z => (chansOf mask).foldl (fun s c =>
    setLane z c b.key (fadeLane flags start target dur curve b z c) s) s) s

/-- FADE.STOP. -/
def chkFadeStop (mask : Byte) : Byte := maskStatus mask

/-- One lane of a FADE.STOP: held at its value at o before the clause, the curve unchanged. -/
def stopLane (b : Bd) (z c : Nat) (l : Lane) : Lane :=
  let v := BitVec.ofNat 16 (laneAt b.pre (zoneLane b.pre z c) b.org.toNat)
  { l with l0 := v, l1 := v, t0 := b.org, d := 0 }

/-- FADE.STOP's effect. -/
def effFadeStop (zone mask : Byte) (b : Bd) (s : State) : State :=
  (zonesOf zone).foldl (fun s z => (chansOf mask).foldl (fun s c => setLane z c b.key (stopLane b z c) s) s) s

/-- EFFECT.SET. -/
def chkEffectSet (mask curve : Byte) (period : W32) : Byte :=
  firstStatus [maskStatus mask, curveStatus curve, firstBad [(decide (period.toNat < 8), stRange)]]

/-- EFFECT.SET's effect (R298). -/
def effEffectSet (zone mask curve : Byte) (depth : W16) (period : W32) (b : Bd) (s : State) : State :=
  (zonesOf zone).foldl (fun s z => setEffect z b.key
    { curve := curve, period := period, depth := depth, mask := BitVec.ofNat 4 mask.toNat, key := none } s) s

/-- EFFECT.CLEAR's effect: no effect, with the clause's key (R192, R298). -/
def effEffectClear (zone : Byte) (b : Bd) (s : State) : State :=
  (zonesOf zone).foldl (fun s z => setEffect z b.key {} s) s

/-- MASTER.SET. -/
def chkMasterSet (flags curve : Byte) : Byte :=
  firstStatus [firstBad [(!highZero 1 flags, stBadArg)], curveStatus curve]

/-- MASTER.SET's effect (R299). -/
def effMasterSet (flags : Byte) (start target : W16) (dur : W32) (curve : Byte) (b : Bd) (s : State) : State :=
  setMaster b.key (fun l =>
    { l with
      l0 := if flags.getLsbD 0 then BitVec.ofNat 16 (laneAt b.pre b.pre.rd.master b.org.toNat) else start
      l1 := target
      t0 := b.org
      d := dur
      c := curve }) s

/-- OUTCURVE.SET. -/
def chkOutcurveSet (classes curve : Byte) : Byte :=
  firstStatus [firstBad [(!highZero 4 classes || classes == 0, stBadArg)], curveStatus curve]

/-- One output curve set, unless its key is strictly later (R192, R300). -/
def setOutCurve (c : Port) (k : Key) (curve : Byte) (s : State) : State :=
  if laterThan (s.rd.outc.get c).2 k then s else { s with rd.outc := s.rd.outc.set c.val (curve, some k) }

/-- OUTCURVE.SET's effect. -/
def effOutcurveSet (classes curve : Byte) (b : Bd) (s : State) : State :=
  allPorts.foldl (fun s c => if classes.getLsbD c.val then setOutCurve c b.key curve s else s) s

/-- LEVEL.READ (R383, Table 14-5). -/
def ansLevelRead (zone : Byte) (b : Bd) (s : State) : Ans :=
  let t := b.t.toNat
  let e := zoneEffect s zone.toNat
  let node := zone == 0xFF
  okAns s (((List.range 4).flatMap fun c => leBytes 2 (if node then 0 else laneAt s (zoneLane s zone.toNat c) t))
    ++ leBytes 2 (laneAt s s.rd.master t) ++ leBytes 2 (masterPrime s t) ++ s.rd.outc.toList.map (·.1)
    ++ (if node then List.replicate 8 0
        else [e.curve, BitVec.ofNat 8 e.mask.toNat] ++ leBytes 2 e.depth.toNat ++ leBytes 4 e.period.toNat))

/-! ## Scenes -/

/-- A scene slot above 63 is RANGE (Table 14-1). -/
def slotStatus (slot : Byte) : Byte := firstBad [(decide (slot.toNat > 63), stRange)]

/-- SCENE.RECALL (R336, R384). -/
def chkSceneRecall (slot : Byte) (s : State) : Byte :=
  firstStatus [slotStatus slot,
    firstBad [(sceneBusy s slot.toNat, stBusyNv), (!sceneUsable s slot.toNat, stBadArg)]]

/-- SCENE.RECALL as it falls due: a slot that is empty or not valid then is BAD_ARG (R336). -/
def dueSceneRecall (slot : Byte) (s : State) : Byte :=
  firstStatus [slotStatus slot, firstBad [(!sceneUsable s slot.toNat, stBadArg)]]

/-- SCENE.RECALL's effect. -/
def effSceneRecall (slot : Byte) (b : Bd) (s : State) : State := applyScene b.pre slot.toNat b.org (some b.key) s

/-- SCENE.CAPTURE (R317, R319, R385). -/
def chkSceneCapture (slot : Byte) (s : State) : Byte :=
  firstStatus [slotStatus slot, firstBad [(protectedQ s 1, stNvProtected), (userJob s, stBusyNv)]]

/-- The job that writes a scene slot (R335). -/
def sceneJob (slot aux : Nat) (records : List (List Byte)) (cut : Bool) (op : Byte) (tok : Tok) : Job :=
  { kind := .scene slot records.length cut, user := true, op := op,
    ops := sectorOps scenePages (sceneSector slot) (sectorBytes 3 0 records.length aux records.flatten), tok := some tok,
    failed := false }

/-- SCENE.CAPTURE's effect: the lanes at the boundary's render time, then a user job (R337, R385). -/
def effSceneCapture (slot zone : Byte) (deffade : W32) (b : Bd) (s : State) : State :=
  let zs := capturedZones s zone
  let recs := (zs.take 254).map (captureRecord s b.t.toNat deffade.toNat)
  addJob (sceneJob slot.toNat deffade.toNat recs (decide (zs.length > 254)) 0x31 b.tok) s

/-- The buffer a later chunk of SCENE.WRITE continues (R386). -/
def sceneChunkOk (slot : Byte) (offset : Nat) (q : Req) (s : State) : Bool :=
  match s.nv.sceneBuf with
  | some f => f.slot == slot && f.owner == owner q && f.records.length == 16 * offset
  | none => false

/-- SCENE.WRITE (R335, R386). -/
def chkSceneWrite (slot flags : Byte) (offset : W16) (records : List Byte) (q : Req) (s : State) : Byte :=
  let m := records.length / 16
  firstStatus [slotStatus slot, firstBad [(!highZero 1 flags, stBadArg)],
    firstStatus ((recordsOf m records).map recordStatus),
    firstBad [(protectedQ s 1, stNvProtected),
      (offset != 0 && !sceneChunkOk slot offset.toNat q s, stBadArg),
      (decide (offset.toNat + m > 254), stRange),
      (flags.getLsbD 0 && userJob s, stBusyNv)]]

/-- The buffer after a chunk (R386). -/
def sceneChunk (slot : Byte) (offset : W16) (deffade : W32) (records : List Byte) (b : Bd) (s : State) : SceneBuf :=
  match s.nv.sceneBuf with
  | some f =>
    if offset = 0 then { slot := slot, owner := owner b.q, deffade := deffade, records := records, lastAt := s.now }
    else { f with records := f.records ++ records, lastAt := s.now }
  | none => { slot := slot, owner := owner b.q, deffade := deffade, records := records, lastAt := s.now }

/-- SCENE.WRITE's effect: the buffer grows; the LAST chunk starts the job (R386). -/
def effSceneWrite (slot flags : Byte) (offset : W16) (deffade : W32) (records : List Byte) (b : Bd) (s : State) : State :=
  let f := sceneChunk slot offset deffade records b s
  if flags.getLsbD 0 then
    let n := f.records.length / 16
    addJob (sceneJob slot.toNat f.deffade.toNat (recordsOf n f.records) false 0x32 b.tok) { s with nv.sceneBuf := none }
  else { s with nv.sceneBuf := some f }

/-- SCENE.READ (R387). -/
def chkSceneRead (slot : Byte) (offset : W16) (len : Byte) : Byte :=
  firstStatus [slotStatus slot,
    firstBad [(decide (offset.toNat > 4095), stRange), (len == 0 || decide (len.toNat > 200), stRange)]]

/-- SCENE.READ's result, clipped to TOTAL. -/
def ansSceneRead (slot : Byte) (offset : W16) (len : Byte) (s : State) : Ans :=
  let sec := sceneSector slot.toNat
  let total := if sceneValid s slot.toNat then 32 + sectorLen s sec else 0
  okAns s (leBytes 2 total ++ nvBytesAt s (4096 * sec + offset.toNat) (min len.toNat (total - offset.toNat)))

/-- SCENE.ERASE (R317, R319, R388). -/
def chkSceneErase (slot : Byte) (s : State) : Byte :=
  firstStatus [slotStatus slot, firstBad [(protectedQ s 1, stNvProtected), (userJob s, stBusyNv)]]

/-- SCENE.ERASE's effect: a user job. -/
def effSceneErase (slot : Byte) (b : Bd) (s : State) : State :=
  addJob { kind := .sceneErase slot.toNat, user := true, op := 0x34, ops := eraseOps (sceneSector slot.toNat),
           tok := some b.tok, failed := false } s

/-- SCENE.LIST (R389). -/
def chkSceneList (boot : Option Byte) : Byte :=
  match boot with
  | some v => firstBad [(decide (v.toNat > 63) && v != 0xFF, stRange)]
  | none => stOk

/-- SCENE.LIST's effect: the boot scene, where one is given. -/
def effSceneList (boot : Option Byte) (s : State) : State :=
  match boot with
  | some v => persist { s with cfg.bootScene := v }
  | none => s

/-- SCENE.LIST's result. -/
def ansSceneList (s : State) : Ans := okAns s (packBits 8 (sceneValid s) ++ [s.cfg.bootScene])

end Sys2Proof.Machine
end

