-- ==== Sys2Proof/Machine/VerbsNv.lean ====
section
/-!
DEFINITION. NV verbs (16, R420 to R423): checks, effects and answers.
-/
namespace Sys2Proof.Machine

/-- NV.READ (R4, R420). -/
def chkNvRead (addr : W32) (len : Byte) (s : State) : Byte :=
  firstBad [(len == 0 || decide (len.toNat > 224), stRange), (decide (addr.toNat + len.toNat > Config.nvBytes), stRange),
    (decide (addr.toNat + len.toNat > 1024 * s.node.member.nvKb), stNotSupported)]

/-- NV.READ's result: the bytes as the store holds them; the key store reads 0xFF (R314, R420). -/
def ansNvRead (addr : W32) (len : Byte) (s : State) : Ans :=
  okAns s ((List.range len.toNat).map fun i =>
    let a := addr.toNat + i
    if a / Config.sectorBytes = 0xF9 then 0xFF else nvByte s a)

/-- NV.WRITE (R315, R317, R319, R421). -/
def chkNvWrite (addr : W32) (lk : Byte) (s : State) : Byte :=
  let a := addr.toNat
  firstStatus [firstBad [(!rawSector s (a / Config.sectorBytes), stRange),
      (decide (a ≥ 1024 * s.node.member.nvKb), stNotSupported)], lk,
    firstBad [(protectedQ s (a / 0x40000), stNvProtected), (userJob s, stBusyNv)]]

/-- The bytes of an NV.WRITE up to the end of its page (R316). -/
def pageCut (a : Nat) (data : List Byte) : List Byte := data.take (256 - a % 256)

/-- NV.WRITE's effect: a user job; a firmware session in that slot ends (R316, R422). -/
def effNvWrite (addr : W32) (data : List Byte) (b : Bd) (s : State) : State :=
  let a := addr.toNat
  let d := pageCut a data
  addJob { kind := .nvWrite a d data.length, user := true, op := 0x71, ops := [.page a d], tok := some b.tok,
           failed := false } (touchSlot a s)

/-- NV.ERASE (R315, R317, R319, R422). -/
def chkNvErase (sector : Byte) (lk : Byte) (s : State) : Byte :=
  firstStatus [firstBad [(!rawSector s sector.toNat, stRange),
      (decide (4096 * sector.toNat ≥ 1024 * s.node.member.nvKb), stNotSupported)], lk,
    firstBad [(protectedQ s (sector.toNat / 64), stNvProtected), (userJob s, stBusyNv)]]

/-- NV.ERASE's effect: a user job. -/
def effNvErase (sector : Byte) (b : Bd) (s : State) : State :=
  addJob { kind := .nvErase sector.toNat, user := true, op := 0x72, ops := eraseOps sector.toNat, tok := some b.tok,
           failed := false } (touchSlot (4096 * sector.toNat) s)

/-- NV.PROTECT (R423). -/
def chkNvProtect (v : Byte) (lk : Byte) : Byte := firstStatus [firstBad [(!highZero 2 v && v != 0xFF, stBadArg)], lk]

/-- NV.PROTECT's effect: in force from its boundary, then committed (R317, R423). -/
def effNvProtect (v : Byte) (b : Bd) (s : State) : State :=
  if v = 0xFF then s
  else
    let n := BitVec.ofNat 2 v.toNat
    addJob (secJob (.protect n s.sec.prot) [] (some b.tok) s) { s with sec.prot := n }

/-- NV.PROTECT's result where nothing is committed. -/
def ansNvProtect (v : Byte) (s : State) : Option Ans :=
  if v = 0xFF then some (okAns s [BitVec.ofNat 8 s.sec.prot.toNat]) else none

/-- Operations left in all jobs. -/
def opsLeft (s : State) : Nat := (s.nv.jobs.map fun j => j.ops.length).sum

/-- Opcode of the running user job, 0x00 with none. -/
def userOp (s : State) : Byte :=
  match s.nv.jobs.find? (·.user) with
  | some j => j.op
  | none => 0

/-- NV.STATUS's result (Table 16-2). -/
def ansNvStatus (s : State) : Ans :=
  okAns s ([userOp s] ++ leBytes 2 (sat 16 (opsLeft s)) ++ [BitVec.ofNat 8 s.sec.prot.toNat, bit (liveJ s.nv.mem)]
    ++ leBytes 4 s.nv.jseq
    ++ [match s.cfg.deckLive with
        | none => 0xFF
        | some a => bit a, BitVec.ofNat 8 (sat 8 s.nv.repaired.length)] ++ leBytes 4 s.nv.cfgGen)

end Sys2Proof.Machine
end

