-- ==== Sys2Proof/Machine/VerbsPort.lean ====
section
/-!
DEFINITION. Port, cell and relay verbs (15, R404 to R409): checks, effects and answers. An answer is none where the
result comes later (R392).
-/
namespace Sys2Proof.Machine

/-! ## PORT.CFG, PORT.STATUS, PORT.CENSUS -/

/-- The parameters PORT.CFG carries. -/
def portCfgOf (flags rate fmt : Byte) (n : W16) (interval : Byte) : PortCfg :=
  { enable := flags.getLsbD 0, stub := flags.getLsbD 1, rate := rate, fmt := fmt, n := n.toNat, q := interval }

/-- PORT.CFG (R4, R393, R404, Table 10-1). -/
def chkPortCfg (port flags rate fmt : Byte) (n : W16) (interval : Byte) (lk : Byte) (s : State) : Byte :=
  firstStatus [firstBad [(decide (port.toNat > 3), stRange),
      (!highZero 2 flags || decide (rate.toNat > 2) || !highZero 4 fmt || decide (fmt.toNat / 4 = 3), stBadArg),
      (n == 0 || decide (n.toNat > 1024) || interval == 0, stRange)],
    portStatusOf s.node.member port, firstBad [(decide (n.toNat > s.node.member.cells), stNotSupported)], lk]

/-- PORT.CFG's effect: stored; it takes effect under R283. -/
def effPortCfg (port flags rate fmt : Byte) (n : W16) (interval : Byte) (s : State) : State :=
  persist { s with cfg.ports := s.cfg.ports.set (portOf port).val (portCfgOf flags rate fmt n interval) }

/-- PORT.STATUS. -/
def chkPortStatus (port : Byte) (s : State) : Byte := portStatusOf s.node.member port

/-- PORT.CFG bytes 1 to 6 as stored. -/
def portCfgBytes (c : PortCfg) : List Byte :=
  [BitVec.ofNat 8 (flagBits [c.enable, c.stub]), c.rate, c.fmt] ++ leBytes 2 c.n ++ [c.q]

/-- PORT.STATUS's result (R280, Table 15-4). -/
def ansPortStatus (port : Byte) (s : State) : Ans :=
  let p := portOf port
  let x := s.ports.get p
  okAns s (x.state.code :: leBytes 2 x.state.k ++ orFFFF x.c ++ orFFFF x.w ++ leBytes 4 x.skip ++ [x.fseq]
    ++ portCfgBytes (s.cfg.ports.get p))

/-- PORT.CENSUS's result. -/
def ansPortCensus (s : State) : Ans :=
  okAns s (allPorts.flatMap fun p =>
    let x := s.ports.get p
    x.state.code :: orFFFF x.c ++ orFFFF x.w)

/-! ## CELL.SIDECFG (R405, R406) -/

/-- The ports of a mask. -/
def maskPorts (m : Byte) : List Port := allPorts.filter fun p => m.getLsbD p.val

/-- The lowest port of a mask. -/
def lowestPort (m : Byte) : Port := (maskPorts m).headD 0

/-- A port that is off or S0 in relay mode (R393). -/
def portAway (s : State) (p : Port) : Bool :=
  match pstate s p with
  | .off => true
  | .relay => true
  | _ => false

/-- Position `pos` lies at or beyond k of a port in BROKEN@k (R406, R407). -/
def beyondBreak (s : State) (p : Port) (pos : Nat) : Bool :=
  match pstate s p with
  | .broken k => decide (pos ≥ k)
  | _ => false

/-- CELL.SIDECFG (R4, R181, R393, R405, R406): arguments, what the member lacks, then the ports' state. -/
def chkCellSidecfg (ports mode : Byte) (first last : W16) (wdog : Byte) (failsafe : W16) (cls : Byte) (poweron : W16)
    (s : State) : Byte :=
  let ps := maskPorts ports
  firstBad [(!highZero 4 ports || ports == 0 || decide (mode.toNat > 2), stBadArg),
    (mode != 1 && (first != 0 || last != 0), stBadArg),
    (mode == 2 && (wdog != 0 || failsafe != 0 || cls != 0 || poweron != 0), stBadArg),
    (mode == 1 && (decide (first.toNat > last.toNat) || decide (last.toNat ≥ 1024)), stRange),
    (maskBeyond s.node.member ports || (mode == 1 && decide (last.toNat ≥ s.node.member.cells)), stNotSupported),
    (mode == 1 && ps.any (portAway s), stBadArg),
    (mode == 1 && ps.any (fun p => decide (last.toNat ≥ (s.ports.get p).cfg.n)), stRange),
    (mode == 1 && ps.any (fun p => pstate s p == .nochain), stPortDown),
    (mode == 1 && ps.any (fun p => beyondBreak s p last.toNat), stNoCell)]

/-- CELL.SIDECFG's effect: the stored side words, or one CONFIG frame wanted on each port (R405, R406). -/
def effCellSidecfg (ports mode : Byte) (first last : W16) (wdog : Byte) (failsafe : W16) (cls : Byte) (poweron : W16)
    (b : Bd) (s : State) : State :=
  let w := sideWord wdog failsafe cls poweron 0
  if mode = 0 then
    persist { s with cfg.side := (maskPorts ports).foldl (fun v p => v.set p.val w) s.cfg.side }
  else if mode = 1 then
    (maskPorts ports).foldl (fun s p => upPort p (fun x =>
      { x with configs := x.configs ++ [{ first := first.toNat, last := last.toNat, word := w, tok := b.tok,
                                          sent := false, cut := false }] }) s) s
  else s

/-- CELL.SIDECFG's result in modes 0 and 2: the word stored for the lowest port of the mask. -/
def ansCellSidecfg (ports mode : Byte) (s : State) : Option Ans :=
  if mode = 1 then none else some (okAns s (leBytes 8 (s.cfg.side.get (lowestPort ports)).toNat))

/-! ## CELL.IDENT (R407) -/

/-- CELL.IDENT (R4, R181, R393, R407): arguments, what the member lacks, then the port's state. -/
def chkCellIdent (port : Byte) (first : W16) (count : Byte) (s : State) : Byte :=
  let p := portOf port
  firstStatus [firstBad [(decide (port.toNat > 3), stRange), (count == 0 || decide (count.toNat > 28), stRange),
      (decide (first.toNat + count.toNat > 1024), stRange)],
    portStatusOf s.node.member port,
    firstBad [(decide (first.toNat + count.toNat > s.node.member.cells), stNotSupported),
      (portAway s p, stBadArg),
      (decide (first.toNat + count.toNat > (s.ports.get p).cfg.n), stRange),
      (pstate s p == .nochain, stPortDown),
      (beyondBreak s p (first.toNat + count.toNat - 1), stNoCell)]]

/-- The port's identity words come from SR at once: a loop port in OK (R407). -/
def identAtOnce (s : State) (p : Port) : Bool := pstate s p == .ok && !(s.ports.get p).cfg.stub

/-- CELL.IDENT's effect: an identity cycle on a stub port or a port in BROKEN@k. -/
def effCellIdent (port : Byte) (first : W16) (count : Byte) (b : Bd) (s : State) : State :=
  let p := portOf port
  if identAtOnce s p then s
  else addItem p .identity (upPort p (fun x =>
    { x with idents := x.idents ++ [{ first := first.toNat, count := count.toNat, tok := b.tok }] }) s)

/-- CELL.IDENT's result on a loop port in OK. -/
def ansCellIdent (port : Byte) (first : W16) (count : Byte) (b : Bd) (s : State) : Option Ans :=
  let x := s.ports.get (portOf port)
  if x.idents.any fun i => i.tok == b.tok then none
  else some (okAns s (identBytes x first.toNat count.toNat))

/-! ## PORT.PROBE (R408) -/

/-- PORT.PROBE. -/
def chkPortProbe (port kind : Byte) (s : State) : Byte :=
  firstStatus [firstBad [(decide (port.toNat > 3), stRange), (decide (kind.toNat > 1), stBadArg)],
    portStatusOf s.node.member port, firstBad [(portAway s (portOf port), stBadArg)]]

/-- PORT.PROBE's effect: a census probe, or a reset with presence and the probe after it. -/
def effPortProbe (port kind : Byte) (b : Bd) (s : State) : State :=
  let p := portOf port
  let s := upPort p (fun x => { x with probes := x.probes ++ [b.tok] }) s
  if kind = 0 then addItem p .census s else wantReset p .probe s

/-! ## RELAY.CFG (R284, R409) -/

/-- RELAY.CFG. -/
def chkRelayCfg (mode : Byte) (hold : W16) (lk : Byte) (s : State) : Byte :=
  firstStatus [firstBad [(decide (mode.toNat > 1) && mode != 0xFF, stBadArg), (mode == 0xFF && hold != 0, stBadArg),
      (decide (hold.toNat > 3600), stRange), (!s.node.member.harvester, stNotSupported)], lk]

/-- Relay mode comes into force: S0 enters RELAY (R284). -/
def relayOn (s : State) : State :=
  let s := cutRequests 0 s
  let s := changeState 0 .relay 2 s
  let s := trimMap 0 0 s
  let s := upPort 0 (fun x => { x.still with stopped := false }) s
  { s with relay := { s.relay with on := true, input := .none, headerAt := s.now, keepStop := false, hdrAt := none, gap := 0,
                                   good := [], forwarded := none, low := none } }

/-- Relay mode ends: S1 to S3 go on in render mode, S0 starts as in an enable (R284). -/
def relayOff (s : State) : State :=
  let s := { s with relay := { s.relay with on := false, input := .none } }
  let s := changeState 0 .off 2 s
  let new := s.cfg.ports.get 0
  let s := upPorts (fun p x => if p = 0 then { x with cfg := new }
    else { x with cfg.rate := (s.cfg.ports.get p).rate }) s
  if new.enable then wantReset 0 .enable s else s

/-- RELAY.CFG's effect. -/
def effRelayCfg (mode : Byte) (hold : W16) (s : State) : State :=
  if mode = 0xFF then s
  else
    let s := persist { s with cfg.relay := mode == 1, cfg.relayHold := hold.toNat }
    if mode = 1 ∧ s.relay.on = false then relayOn s
    else if mode = 0 ∧ s.relay.on = true then relayOff s
    else s

/-- RELAY.CFG's result. -/
def ansRelayCfg (s : State) : Ans :=
  okAns s [if s.relay.on then (match s.relay.input with
      | .receiving => 1
      | .none => 2
      | .lost => 3) else 0]

end Sys2Proof.Machine
end

