-- ==== Sys2Proof/Machine/Pins.lean ====
section
/-!
DEFINITION. The pins (02, Table 2-2): what the node drives on each, and its pulls, as the state has them at `now`.
-/
namespace Sys2Proof.Machine

/-- What a pin's output stage does. -/
inductive Drive
  /-- Nothing: the pull or the outside decides. -/
  | released
  | low
  | high
  /-- A Cellchain frame is on the pin. -/
  | frame
  deriving DecidableEq, Repr

/-- Pulls inside the node (Table 2-2). -/
inductive Pull
  | none
  | up50k
  | down50k
  | up4k7
  deriving DecidableEq, Repr

/-- A pin as the node holds it. -/
structure Pin where
  /-- Output stage. -/
  drive : Drive
  /-- Pull. -/
  pull : Pull
  deriving DecidableEq, Repr

/-! ## Spanline (R55 to R59, R123, R143, R145) -/

/-- The 11 bits of a character, 1 recessive (Table 5-2). -/
def charLine (mark : Bool) (b : Byte) : List Bool :=
  [false] ++ ((List.range 8).map fun i => b.getLsbD i) ++ [mark, true]

/-- The bits of a frame from the SYNC start bit on (Table 6-1); `b` are its bytes from DSTH to CRCL. -/
def lineBits (b : List Byte) : List Bool :=
  charLine false 0x55 ++ (b.take 2).flatMap (charLine true) ++ (b.drop 2).flatMap (charLine false)

/-- The node sends a dominant bit now, in its own bit timing (R123, R145). -/
def txDominant (s : State) : Bool :=
  match txFrame s with
  | some f => !(lineBits (frameBytes f)).getD ((s.now - s.span.txAt) * txRate f s / 1000000000000) true
  | none => false

/-- GP0 as DE in external-transceiver mode: high in the dominant bits the node sends, and nowhere else (R59, R143). -/
def dePin (s : State) : Pin := { drive := if txDominant s then .high else .low, pull := .none }

/-- SPA: TXD in external-transceiver mode, else a line of the integrated driver, which drives dominant bits only (R55). -/
def spaPin (s : State) : Pin :=
  { drive := if txDominant s then .low else if s.pw.extOn then .high else .released, pull := .none }

/-- SPB: the driver's other line, or the RXD input. -/
def spbPin (s : State) : Pin :=
  { drive := if txDominant s && !s.pw.extOn then .high else .released, pull := .none }

/-! ## GP0 to GP3 (R38, R428, R429) -/

/-- A GPIO mode that drives the pin. -/
def gpOutput (m : Byte) : Bool := m == 3 || m == 4

/-- The pins GPIO.RW may drive: outputs, GP0 only outside external-transceiver mode (R59, R429). -/
def gpDriven (s : State) (i : Port) : Bool := gpOutput (s.cfg.gpio.get i).mode && !(i == 0 && s.pw.extOn)

/-- A GPIO pin by its mode and output level (Table 16-3). -/
def gpPin (i : Port) (s : State) : Pin :=
  let m := (s.cfg.gpio.get i).mode
  let o := s.pw.gpOut.getLsbD i.val
  if i = 0 ∧ s.pw.extOn = true then dePin s
  else if m = 1 then { drive := .released, pull := .up50k }
  else if m = 2 then { drive := .released, pull := .down50k }
  else if m = 3 then { drive := if o then .high else .low, pull := .none }
  else if m = 4 then { drive := if o then .released else .low, pull := .none }
  else { drive := .released, pull := .none }

/-! ## Strings (R52, R64, R256, R262, R267, R288) -/

/-- A pulse holds the line low now. -/
def Pulse.lowNow (u : Pulse) (now : Nat) : Bool := decide (u.at_ ≤ now) && decide (now < u.at_ + u.width)

/-- A low stands on SnO: of the item in progress, or passed on in relay mode. -/
def lowOut (p : Port) (s : State) : Bool :=
  (s.ports.get p).pulse.any (·.lowNow s.now) || (p == 0 && s.relay.on && s.relay.low.any (·.lowNow s.now))

/-- The node leaves SnO to its pull-up: the port is off or its frames are stopped, the ports are down with VIO, an item waits
for a cell's answer, or a late answer is still on the line. -/
def snoReleased (p : Port) (s : State) : Bool :=
  let x := s.ports.get p
  x.state == .off || x.stopped || s.pw.vioDown || (x.cur.isSome && x.pulse.all fun u => decide (u.at_ ≤ s.now)) || x.discarded

/-- SnO. Between frames of a running port the line idles high (R228). -/
def snoPin (p : Port) (s : State) : Pin :=
  let x := s.ports.get p
  let busy := if p = 0 ∧ s.relay.on = true then decide (s.now < s.relay.outEnd) else decide (s.now < x.freeAt)
  if lowOut p s then { drive := .low, pull := .none }
  else if snoReleased p s then { drive := .released, pull := .up4k7 }
  else { drive := if busy then .frame else .high, pull := .none }

/-- SnR: an input. -/
def snrPin : Pin := { drive := .released, pull := .up50k }

/-! ## SYNC, LAMPEN, SVC and ATTN_N (R37, R205, R221, R311) -/

/-- SYNC: with the frame pulse output configured high for 2.0 µs from each boundary and low between, else an input. -/
def syncPin (s : State) : Pin :=
  if s.cfg.sync = 1 then
    { drive := match s.pw.syncPulse with
        | some t => if s.now < t + 2 * Config.usPs then .high else .low
        | none => .low
      pull := .none }
  else { drive := .released, pull := .down50k }

/-- LAMPEN, asserted low. -/
def lampenPin (s : State) : Pin := { drive := if s.pw.lampen then .low else .released, pull := .none }

/-- SVC between the node's own characters: released, the pull-up is outside (R205). -/
def svcPin : Pin := { drive := .released, pull := .none }

/-- ATTN_N, asserted low. -/
def attnPin (s : State) : Pin := { drive := if attn s then .low else .released, pull := .none }

/-- RESET_N and TEST: inputs. -/
def resetPin : Pin := { drive := .released, pull := .up50k }

/-- See `resetPin`. -/
def testPin : Pin := { drive := .released, pull := .down50k }

end Sys2Proof.Machine
end

