-- ==== Sys2Proof/Machine/VerbsPower.lean ====
section
/-!
DEFINITION. Power, I/O and bus verbs (16, R424 to R429, R439, R440): checks, effects and answers.
-/
namespace Sys2Proof.Machine

/-! ## POWER.STATUS, RESERVE.CFG, HARVEST.CFG -/

/-- POWER.STATUS's result (Table 16-3); reading clears PLATCH b1 and b2 (R424). -/
def ansPowerStatus (s : State) : Ans :=
  ({ s with ka.hardSince := false, ka.darkSince := false },
   (stOk, leBytes 2 s.pw.vin ++ leBytes 2 s.pw.vio ++ leBytes 2 (vresShown s) ++ leBytes 2 s.pw.vka
      ++ leBytes 2 (if harvesting s then s.ka.voc else 0) ++ [pflags s, platch s, s.ka.chg.code,
        BitVec.ofNat 8 s.ka.source] ++ leSigned 2 s.pw.tAvg ++ [wtq s]))

/-- RESERVE.CFG (R425). -/
def chkReserveCfg (mode present vchg ichg darkcut : Byte) (chold : W16) (lk : Byte) : Byte :=
  firstStatus [firstBad [(decide (mode.toNat > 1), stBadArg),
    (mode == 0 && (present != 0 || vchg != 0 || ichg != 0 || darkcut != 0 || chold != 0), stBadArg),
    (decide (darkcut.toNat > 10) || decide (vchg.toNat > 1) || decide (ichg.toNat > 3) || decide (present.toNat > 2),
      stRange)], lk]

/-- RESERVE.CFG's effect (R98, R107, R425): AUTO keeps what boot step 7 found. -/
def effReserveCfg (mode present vchg ichg darkcut : Byte) (chold : W16) (s : State) : State :=
  if mode = 0 then s
  else
    let r : ReserveCfg := { present := present, vchg := vchg, ichg := ichg, darkcut := darkcut, chold := chold }
    let here := if present = 1 then true else if present = 2 then false else s.ka.present
    persist { s with
      cfg.reserve := r
      ka.reserve := r
      ka.present := here
      ka.chg := if !here || ichg == 3 then .off
        else if charging s && decide (s.pw.vres > vchgMv r) then .terminated else s.ka.chg }

/-- RESERVE.CFG's result. -/
def ansReserveCfg (s : State) : Ans :=
  let r := s.ka.reserve
  okAns s ([r.present, r.vchg, r.ichg, r.darkcut] ++ leBytes 2 r.chold.toNat)

/-- HARVEST.CFG (R426). -/
def chkHarvestCfg (mode enable k period : Byte) (lk : Byte) (s : State) : Byte :=
  firstStatus [firstBad [(decide (mode.toNat > 1) || decide (enable.toNat > 1) || decide (k.toNat > 4)
      || decide (period.toNat > 2), stBadArg), (!s.node.member.harvester, stNotSupported)], lk]

/-- HARVEST.CFG's effect: ENABLE 0 stops the boost converter (R101, R426). -/
def effHarvestCfg (mode enable k period : Byte) (s : State) : State :=
  if mode = 0 then s
  else
    let h : HarvestCfg := { enable := enable, k := k, period := period }
    persist { s with
      cfg.harvest := h
      ka.harvest := h
      ka.hst := if enable = 0 then .stopped else if s.ka.hst = .stopped then .boost else s.ka.hst }

/-- HARVEST.CFG's result. -/
def ansHarvestCfg (s : State) : Ans :=
  let h := s.ka.harvest
  okAns s [h.enable, h.k, h.period]

/-! ## LAMPEN.SET, GPIO, TEMP.READ -/

/-- LAMPEN.SET (R427). -/
def chkLampenSet (mode : Byte) : Byte := firstBad [(decide (mode.toNat > 1) && mode != 0xFF, stBadArg)]

/-- LAMPEN.SET's effect. -/
def effLampenSet (mode : Byte) (s : State) : State :=
  if mode = 0 then { s with pw.lampHold := true, pw.lampen := false }
  else if mode = 1 then { s with pw.lampHold := false, pw.lampen := s.pw.lampen || s.pw.lampMet }
  else s

/-- LAMPEN.SET's result. -/
def ansLampenSet (s : State) : Ans := okAns s [BitVec.ofNat 8 (flagBits [s.pw.lampen, s.pw.lampHold])]

/-- GPIO.CFG (R428). -/
def chkGpioCfg (pin mode init : Byte) (s : State) : Byte :=
  firstBad [(decide (pin.toNat > 3), stRange), (decide (mode.toNat > 5) && mode != 0xFF, stBadArg),
    (mode == 5 && pin != 1, stBadArg), (decide (init.toNat > 1), stBadArg), (init != 0 && !gpOutput mode, stBadArg),
    (pin == 0 && s.pw.extOn, stNotSupported)]

/-- GPIO.CFG's effect. -/
def effGpioCfg (pin mode init : Byte) (s : State) : State :=
  if mode = 0xFF then s
  else
    let p := portOf pin
    let b : BitVec 4 := BitVec.ofNat 4 (2 ^ p.val)
    persist { s with
      cfg.gpio := s.cfg.gpio.set p.val { mode := mode, init := init }
      pw.gpOut := if init = 1 then s.pw.gpOut ||| b else s.pw.gpOut &&& ~~~ b }

/-- GPIO.CFG's result. -/
def ansGpioCfg (pin : Byte) (s : State) : Ans :=
  let g := s.cfg.gpio.get (portOf pin)
  okAns s [pin, g.mode, g.init]

/-- GPIO.RW (R429). -/
def chkGpioRw (wmask wlevel : Byte) (s : State) : Byte :=
  firstBad [(!highZero 4 wmask || !highZero 4 wlevel, stBadArg),
    (allPorts.any fun i => wmask.getLsbD i.val && !gpDriven s i, stBadArg)]

/-- GPIO.RW's effect: the masked pins driven. -/
def effGpioRw (wmask wlevel : Byte) (s : State) : State :=
  let m : BitVec 4 := BitVec.ofNat 4 wmask.toNat
  { s with pw.gpOut := (s.pw.gpOut &&& ~~~ m) ||| (BitVec.ofNat 4 wlevel.toNat &&& m) }

/-- The level a pin reads: push-pull its own, open-drain low or the outside, inputs the outside. In external-transceiver mode
GP0 is DE: low, but in the dominant bits of a frame the node is sending (R59, R143). -/
def pinLevel (s : State) (outside : BitVec 4) (i : Port) : Bool :=
  let o := s.pw.gpOut.getLsbD i.val
  if i = 0 ∧ s.pw.extOn = true then txDominant s
  else if gpDriven s i then (if (s.cfg.gpio.get i).mode = 3 then o else o && outside.getLsbD i.val)
  else outside.getLsbD i.val

/-- A GP1 conversion; 0xFFFF unless GP1 is in ADC mode (R51). -/
def adcBytes (s : State) : List Byte :=
  leBytes 2 (if (s.cfg.gpio.get 1).mode = 5 then (Config.adcIn s.draws).toNat else 0xFFFF)

/-- GPIO.RW's result: the levels after the write. -/
def ansGpioRw (s : State) : Ans :=
  (spend s, (stOk, [BitVec.ofNat 8 (flagBits (allPorts.map (pinLevel s (Config.pinIn s.draws))))] ++ adcBytes s))

/-- TEMP.READ's result. -/
def ansTempRead (s : State) : Ans :=
  (spend s, (stOk, leSigned 2 s.pw.tAvg ++ leSigned 2 s.pw.tNow ++ adcBytes s ++ leBytes 4 s.pw.f))

/-! ## SPAN.CFG, SPAN.STATUS -/

/-- SPAN.CFG (R439). -/
def chkSpanCfg (mode flags : Byte) (defrate : W32) (lk : Byte) : Byte :=
  firstStatus [firstBad [(decide (mode.toNat > 1) || !highZero 2 flags, stBadArg),
    (mode == 0 && (flags != 0 || defrate != 0), stBadArg),
    (mode == 1 && (decide (defrate.toNat < 50000) || decide (defrate.toNat > 1050000)), stRange)], lk]

/-- The termination connects while VIN is present, in RUN, REST and SHELF, outside external-transceiver mode (R57, R59). -/
def termNow (s : State) : Bool := s.cfg.term && !s.pw.extOn && decide (s.pw.vin > 0) && svcAlive s

/-- SPAN.CFG's effect. -/
def effSpanCfg (mode flags : Byte) (defrate : W32) (s : State) : State :=
  if mode = 0 then s
  else
    let s := persist { s with cfg.term := flags.getLsbD 0, cfg.ext := flags.getLsbD 1, cfg.defRate := defrate.toNat }
    { s with pw.termOn := termNow s }

/-- SPAN.CFG's result. -/
def ansSpanCfg (s : State) : Ans :=
  okAns s ([BitVec.ofNat 8 (flagBits [s.cfg.term, s.cfg.ext])] ++ leBytes 4 s.cfg.defRate ++ [lineByte s])

/-- SPAN.STATUS (R440). -/
def chkSpanStatus (mode : Byte) : Byte := firstBad [(decide (mode.toNat > 1), stBadArg)]

/-- SPAN.STATUS's result (Table 16-7), with its clearing form. -/
def ansSpanStatus (mode : Byte) (s : State) : Ans :=
  (if mode = 1 then { s with span.txDropped := 0 } else s,
   (stOk, leBytes 4 (heldRate s) ++ leBytes 4 s.span.lastRate ++ leBytes 4 s.span.txDropped
      ++ [BitVec.ofNat 8 s.span.ring.length, BitVec.ofNat 8 s.span.outQ.length, s.span.lastDrop]))

end Sys2Proof.Machine
end

