-- ==== Sys2Proof/Machine/Aes.lean ====
section
/-!
DEFINITION. AES-128 and AES-CMAC as the spec names them (R447: AES-CMAC of RFC 4493; Table 16-6: one-block
AES-128 for wrapped keys and check values). The S-box is computed from its definition, so no table is carried.
-/
namespace Sys2Proof.Machine

/-- Multiplication by x in the field of AES. -/
def xtime (a : Byte) : Byte := (a <<< 1) ^^^ (if a.getLsbD 7 then 0x1B else 0x00)

/-- Multiplication in the field of AES, over the bits of `b` from the lowest. -/
def gmulAux : Nat → Byte → Byte → Byte
  | 0, _, _ => 0
  | n + 1, a, b => (if b.getLsbD 0 then a else 0) ^^^ gmulAux n (xtime a) (b >>> 1)

/-- Multiplication in the field of AES. -/
def gmul (a b : Byte) : Byte := gmulAux 8 a b

/-- The inverse in the field: the 254th power. -/
def ginv (a : Byte) : Byte :=
  let a2 := gmul a a
  let a3 := gmul a2 a
  let a6 := gmul a3 a3
  let a12 := gmul a6 a6
  let a15 := gmul a12 a3
  let a30 := gmul a15 a15
  let a60 := gmul a30 a30
  let a120 := gmul a60 a60
  let a126 := gmul a120 a6
  let a127 := gmul a126 a
  gmul a127 a127

/-- The S-box. -/
def sbox (a : Byte) : Byte :=
  let b := ginv a
  b ^^^ b.rotateLeft 1 ^^^ b.rotateLeft 2 ^^^ b.rotateLeft 3 ^^^ b.rotateLeft 4 ^^^ 0x63

/-- The inverse S-box. -/
def sboxInv (a : Byte) : Byte :=
  ginv (a.rotateLeft 1 ^^^ a.rotateLeft 3 ^^^ a.rotateLeft 6 ^^^ 0x05)

/-- Byte by byte exclusive or. -/
def xorBytes (a b : List Byte) : List Byte := List.zipWith (· ^^^ ·) a b

/-- The next round key from the last and the round constant. -/
def nextRoundKey (k : List Byte) (rc : Byte) : List Byte :=
  match k with
  | [a0, a1, a2, a3, b0, b1, b2, b3, c0, c1, c2, c3, d0, d1, d2, d3] =>
    let w0 := [a0 ^^^ sbox d1 ^^^ rc, a1 ^^^ sbox d2, a2 ^^^ sbox d3, a3 ^^^ sbox d0]
    let w1 := xorBytes w0 [b0, b1, b2, b3]
    let w2 := xorBytes w1 [c0, c1, c2, c3]
    let w3 := xorBytes w2 [d0, d1, d2, d3]
    w0 ++ w1 ++ w2 ++ w3
  | _ => k

/-- The round keys, the first being the key itself. -/
def roundKeys : Nat → List Byte → Byte → List (List Byte)
  | 0, k, _ => [k]
  | n + 1, k, rc => k :: roundKeys n (nextRoundKey k rc) (xtime rc)

/-- The bytes of a block at the given places. -/
def permute (l : List Byte) (places : List Nat) : List Byte := places.map fun i => l.getD i 0

/-- ShiftRows. -/
def shiftRows (l : List Byte) : List Byte := permute l [0, 5, 10, 15, 4, 9, 14, 3, 8, 13, 2, 7, 12, 1, 6, 11]

/-- Inverse ShiftRows. -/
def shiftRowsInv (l : List Byte) : List Byte := permute l [0, 13, 10, 7, 4, 1, 14, 11, 8, 5, 2, 15, 12, 9, 6, 3]

/-- One column times the circulant of the four coefficients. -/
def mixColumn (c : List Byte) (m : List Byte) : List Byte :=
  [0, 1, 2, 3].map fun r => (List.range 4).foldl (fun acc j => acc ^^^ gmul (m.getD ((j + 4 - r) % 4) 0) (c.getD j 0)) 0

/-- Every column of a block mixed with the coefficients. -/
def mixColumns (m : List Byte) (l : List Byte) : List Byte :=
  mixColumn (l.take 4) m ++ mixColumn ((l.drop 4).take 4) m ++ mixColumn ((l.drop 8).take 4) m ++ mixColumn (l.drop 12) m

/-- AES-128 encryption of one block. -/
def aesEncrypt (key block : List Byte) : List Byte :=
  match roundKeys 10 key 1 with
  | k0 :: ks =>
    let s := xorBytes block k0
    let s := (ks.take 9).foldl (fun s k => xorBytes (mixColumns [2, 3, 1, 1] (shiftRows (s.map sbox))) k) s
    xorBytes (shiftRows (s.map sbox)) (ks.getD 9 [])
  | [] => []

/-- AES-128 decryption of one block (R437). -/
def aesDecrypt (key block : List Byte) : List Byte :=
  match (roundKeys 10 key 1).reverse with
  | k10 :: ks =>
    let s := xorBytes block k10
    let s := (ks.take 9).foldl
      (fun s k => mixColumns [14, 11, 13, 9] (xorBytes ((shiftRowsInv s).map sboxInv) k)) s
    xorBytes ((shiftRowsInv s).map sboxInv) (ks.getD 9 [])
  | [] => []

/-- A 16-byte value doubled in the field of CMAC (RFC 4493 subkeys). -/
def cmacDouble (l : List Byte) : List Byte :=
  let v := ofLe l.reverse
  let d := (2 * v) % 2 ^ 128
  beBytes 16 (if v ≥ 2 ^ 127 then d ^^^ 0x87 else d)

/-- Blocks of 16 bytes, the last one short or full; fuel bounds the blocks of a clause. -/
def cmacChain (key : List Byte) : Nat → List Byte → List Byte → List Byte
  | 0, x, _ => x
  | n + 1, x, m =>
    if m.length ≤ 16 then
      let k1 := cmacDouble (aesEncrypt key (List.replicate 16 0))
      let lastB := if m.length = 16 then xorBytes m k1
        else xorBytes (m ++ 0x80 :: List.replicate (15 - m.length) 0) (cmacDouble k1)
      aesEncrypt key (xorBytes x lastB)
    else cmacChain key n (aesEncrypt key (xorBytes x (m.take 16))) (m.drop 16)

/-- AES-CMAC (RFC 4493) of a message of at most 256 bytes. -/
def cmac (key m : List Byte) : List Byte := cmacChain key 17 (List.replicate 16 0) m

/-- The check value of a key: first 4 bytes of the encryption of zeros (Table 16-6), little-endian. -/
def keyCheck (key : List Byte) : W32 := BitVec.ofNat 32 (ofLe ((aesEncrypt key (List.replicate 16 0)).take 4))

end Sys2Proof.Machine
end

