-- ==== Sys2Proof/Machine/VerbsFw.lean ====
section
/-!
DEFINITION. Firmware verbs (16, R430 to R434; 17, R458, R459): checks, effects and answers.
-/
namespace Sys2Proof.Machine

/-- RESERVE_LOW is set and a reserve is present (R419). -/
def lowReserve (s : State) : Bool := s.pw.reserveLow && s.ka.present

/-- The slot pending for the next reset; 0 for none. A slot on trial is no longer pending (Table 16-5). -/
def pendingSlot (s : State) : Nat := if s.fw.trial then 0 else s.sec.pending

/-- A slot's VERIFIED bit, while it is in the state of that name (Table 16-5). -/
def slotVerified (s : State) (slot : Nat) : Bool :=
  s.sec.verified.getLsbD (slot - 1) && s.fw.run != slot && s.sec.confirmed != slot && pendingSlot s != slot

/-- State of a patch slot (Table 16-5). -/
def slotState (s : State) (slot : Nat) : Byte :=
  if s.fw.run = slot then (if s.fw.trial then 4 else 5)
  else if s.sec.confirmed = slot then 5
  else if pendingSlot s = slot then 3
  else if slotVerified s slot then 2
  else if s.sec.reject.getLsbD (slot - 1) then 6
  else if s.fw.partials.getLsbD (slot - 1) || !slotBlank s.nv.mem slot then 1
  else 0

/-- Release of a slot's image; 0 if not VERIFIED or later (Table 16-4). -/
def slotRelease (s : State) (slot : Nat) : List Byte :=
  let st := slotState s slot
  if 2 ≤ st.toNat ∧ st.toNat ≤ 5 then nvBytesAt s (slotBase slot + 6) 2 else [0, 0]

/-- Image size of a slot; 0 if EMPTY. -/
def slotSizeShown (s : State) (slot : Nat) : Nat := if slotState s slot = 0 then 0 else slotSize s slot

/-- FW.INFO's result (Table 16-4). -/
def ansFwInfo (s : State) : Ans :=
  okAns s ([BitVec.ofNat 8 s.fw.run, Config.romMajor, Config.romMinor]
    ++ ([1, 2].flatMap fun slot => slotState s slot :: slotRelease s slot ++ leBytes 4 (slotSizeShown s slot))
    ++ leBytes 4 (match s.fw.session with
        | some f => f.held
        | none => 0))

/-- FW.BEGIN (R319, R431). -/
def chkFwBegin (size : W32) (lk : Byte) (s : State) : Byte :=
  firstStatus [firstBad [(size == 0 || decide (size.toNat > 114688), stRange)], lk,
    firstBad [(s.fw.trial, stNotSupported), (userJob s, stBusyNv)]]

/-- SIZE of a slot's image recorded. -/
def setSlotSize (slot n : Nat) (s : State) : State :=
  if slot = 1 then { s with fw.sizeA := n } else { s with fw.sizeB := n }

/-- FW.BEGIN's effect: a session, its slot INCOMPLETE, any activation cancelled, and the erase (R431). -/
def effFwBegin (size : W32) (b : Bd) (s : State) : State :=
  let slot := targetSlot s
  let sec := slotBase slot / 4096
  let s := commitSec (.begun slot) (setSlotSize slot size.toNat { s with
    fw.session := some { slot := slot, owner := owner b.q, size := size.toNat, held := 0, buf := [], lastAt := s.now }
    fw.partials := s.fw.partials ||| BitVec.ofNat 2 slot })
  addJob { kind := .fwErase, user := true, op := 0x91,
           ops := (List.range ((size.toNat + 4095) / 4096)).flatMap fun i => eraseOps (sec + i), tok := some b.tok,
           failed := false } s

/-- The open session, where the clause's source owns it. -/
def ownSession (q : Req) (s : State) : Option FwSession :=
  match s.fw.session with
  | some f => if f.owner = owner q then some f else none
  | none => none

/-- Pages a chunk completes: the page programs it starts, with the rest of the buffer (R432). -/
def fwPages (f : FwSession) (data : List Byte) : List NvOp × List Byte :=
  let buf := f.buf ++ data
  let base := slotBase f.slot + (f.held - f.buf.length)
  let full := buf.length / 256
  let last := f.held + data.length = f.size
  let n := if last ∧ buf.length % 256 ≠ 0 then full + 1 else full
  ((List.range n).map fun k => NvOp.page (base + 256 * k) ((buf.drop (256 * k)).take 256),
   buf.drop (256 * n))

/-- FW.CHUNK (R432). -/
def chkFwChunk (offset : W32) (data : List Byte) (q : Req) (lk : Byte) (s : State) : Byte :=
  firstStatus [lk,
    match ownSession q s with
    | none => stBadArg
    | some f => firstBad [(offset.toNat != f.held, stBadArg), (decide (offset.toNat + data.length > f.size), stRange),
        (!(fwPages f data).1.isEmpty && userJob s, stBusyNv)]]

/-- FW.CHUNK's effect: the page buffer grows; a completed page is programmed as a user job (R432). -/
def effFwChunk (data : List Byte) (b : Bd) (s : State) : State :=
  match s.fw.session with
  | none => s
  | some f =>
    let r := fwPages f data
    let held := f.held + data.length
    let s := { s with fw.session := some { f with held := held, buf := r.2, lastAt := s.now } }
    if r.1.isEmpty then s
    else addJob { kind := .fwPage (slotBase f.slot + f.held) data held, user := true, op := 0x92, ops := r.1,
                  tok := some b.tok, failed := false } s

/-- FW.CHUNK's result, where no page is completed: the bytes held after it, which are OFFSET + m. -/
def ansFwChunk (offset : W32) (data : List Byte) (b : Bd) (s : State) : Option Ans :=
  if s.nv.jobs.any fun j => j.tok == some b.tok then none else some (okAns s (leBytes 4 (offset.toNat + data.length)))

/-- A page of the session is still being programmed (R433). -/
def fwPageRuns (s : State) : Bool :=
  s.nv.jobs.any fun j => match j.kind with
    | .fwPage _ _ _ => true
    | _ => false

/-- FW.FINISH (R433). -/
def chkFwFinish (q : Req) (lk : Byte) (s : State) : Byte :=
  firstStatus [lk,
    match ownSession q s with
    | none => stBadArg
    | some f => firstBad [(f.held != f.size, stBadArg), (fwPageRuns s, stBusyNv)]]

/-- FW.FINISH's effect: verification starts, and the session ends (R433). -/
def effFwFinish (b : Bd) (s : State) : State :=
  match s.fw.session with
  | some f => { s with fw.session := none, fw.verify := some { slot := f.slot, size := f.size, tok := b.tok } }
  | none => s

/-- The VERDICT over an image (R458, R459): 0 verified, 1 signature fails, 2 not for this member or ROM. -/
def verdict (image : List Byte) (size : Nat) (m : Member) : Nat :=
  if image.take 4 ≠ [0x5A, 0x50, 0x49, 0x01] ∨ fieldLe image 12 4 ≠ size ∨ Config.signatureHolds image = false then 1
  else if Nat.testBit (fieldLe image 4 1) (m.code.toNat - 1) = false
      ∨ fieldLe image 8 1 * 256 + fieldLe image 9 1 > Config.romMajor.toNat * 256 + Config.romMinor.toNat then 2
  else 0

/-- The VERIFIED slot an activation takes: the session target where it is one, else the other. -/
def activateSlot (s : State) : Nat :=
  let t := targetSlot s
  if slotVerified s t then t else if slotVerified s (3 - t) then 3 - t else 0

/-- FW.ACTIVATE (R419, R434). -/
def chkFwActivate (mode : Byte) (lk : Byte) (s : State) : Byte :=
  firstStatus [firstBad [(decide (mode.toNat > 2) && mode != 0xFF, stBadArg)], lk,
    firstBad [(decide (mode.toNat < 2) && activateSlot s == 0, stBadArg),
      (decide (mode.toNat < 2) && lowReserve s, stLowReserve)]]

/-- FW.ACTIVATE's effect: the choice is in force at once and stored; mode 1 resets with the timing of R367 (R434). -/
def effFwActivate (mode : Byte) (b : Bd) (s : State) : State :=
  if mode = 0 then commitSec (.pending (activateSlot s)) s
  else if mode = 1 then
    { commitSec (.pending (activateSlot s)) s with pw.resetReq := some { waits := some b.tok.id, due := none } }
  else if mode = 2 then (if pendingSlot s = 0 then s else commitSec .unpend s)
  else s

/-- FW.ACTIVATE's result: the slot pending for the next reset. -/
def ansFwActivate (s : State) : Ans :=
  okAns s [if pendingSlot s = 0 then 0xFF else BitVec.ofNat 8 (pendingSlot s)]

end Sys2Proof.Machine
end

