-- ==== Sys2Proof/Machine/VerbsSec.lean ====
section
/-!
DEFINITION. Security verbs (16, R435 to R438; 17): checks, effects and answers.
-/
namespace Sys2Proof.Machine

/-- A nonce's life (R435). -/
def nonceLife : Nat := 60 * Config.secPs

/-- SEC.CHALLENGE's result: a fresh nonce for the source, in place of its last one or, beyond four sources, of the least
recently issued (R435). -/
def ansSecChallenge (b : Bd) (s : State) : Ans :=
  let n := Config.nonce s.draws
  let src := owner b.q
  let l := s.sec.nonces.filter fun x => x.src != src
  let l := (if l.length < 4 then l else l.drop (l.length - 3)) ++ [{ src := src, value := n, at_ := s.now }]
  ({ spend s with sec.nonces := l },
   (stOk, leBytes 8 s.node.uid.toNat ++ [bit s.sec.locked, bit s.sec.key.isSome] ++ leBytes 4 s.sec.kgen
      ++ [BitVec.ofNat 8 s.sec.prot.toNat, wtq s] ++ leBytes 8 n.toNat))

/-- NONCE is the valid, unconsumed nonce issued to the source (R435, R436). -/
def nonceOk (nonce : W64) (q : Req) (s : State) : Bool :=
  s.sec.nonces.any fun x => x.src == owner q && x.value == nonce && decide (s.now < x.at_ + nonceLife)

/-- The source's nonce is consumed (R435). -/
def burnNonce (q : Req) (s : State) : State :=
  { s with sec.nonces := s.sec.nonces.filter fun x => x.src != owner q }

/-- The new key of a SEC.SETKEY: clear, or unwrapped under the key in force (R437). -/
def newKeyOf (form : Byte) (key : List Byte) (s : State) : List Byte :=
  if form = 0 then key
  else match s.sec.key with
    | some k => aesDecrypt k key
    | none => key

/-- Records of the key store that queued commits will take. -/
def keysAhead (s : State) : List Nat :=
  s.nv.jobs.filterMap fun j => match j.kind with
    | .security (.newKey _ _ r) => some r
    | _ => none

/-- The record a new key goes into: the next free slot of the key store (R453). -/
def nextKeySlot (s : State) : Option Nat :=
  (List.range 63).find? fun i => allFf (keySlot s i) && !(keysAhead s).contains i

/-- SEC.SETKEY (R436, R437, R453). -/
def chkSecSetkey (form : Byte) (nonce : W64) (key : List Byte) (kcv : W32) (q : Req) (lk : Byte) (s : State) : Byte :=
  firstStatus [firstBad [(decide (form.toNat > 1), stBadArg)], lk,
    firstBad [(form == 0 && s.sec.locked, stLocked),
      (form == 0 && q.mbox == .span && s.sec.key.isSome, stNotSupported),
      (form == 1 && s.sec.key.isNone, stBadArg),
      (form == 1 && !q.auth, stAuthRequired),
      (!nonceOk nonce q s, stBadArg),
      (keyCheck (newKeyOf form key s) != kcv, stBadArg),
      ((nextKeySlot s).isNone, stNotSupported)]]

/-- SEC.SETKEY's effect: the record, then the security configuration, whose VALID is the commit (R453). -/
def effSecSetkey (form : Byte) (key : List Byte) (kcv : W32) (b : Bd) (s : State) : State :=
  let k := newKeyOf form key s
  let s := burnNonce b.q s
  match nextKeySlot s with
  | none => s
  | some r =>
    let gen := s.sec.kgen + (keysAhead s).length + 1
    addJob (secJob (.newKey k kcv r) [.page (0xF9000 + 64 + 64 * r) (keyRecord gen k kcv)] (some b.tok) s) s

/-- SEC.LOCK (R419, R436, R438). -/
def chkSecLock (mode : Byte) (nonce : W64) (q : Req) (lk : Byte) (s : State) : Byte :=
  firstStatus [firstBad [(decide (mode.toNat > 1) && mode != 0xFF, stBadArg), (mode == 0xFF && nonce != 0, stBadArg)], lk,
    firstBad [(mode == 1 && s.sec.key.isNone, stBadArg),
      (mode != 0xFF && !nonceOk nonce q s, stBadArg),
      (mode == 1 && lowReserve s, stLowReserve)]]

/-- SEC.LOCK's effect: from its boundary, then committed; no change where the state is the one asked for (R438). -/
def effSecLock (mode : Byte) (b : Bd) (s : State) : State :=
  if mode = 0xFF then s
  else
    let s := burnNonce b.q s
    let on := mode == 1
    if s.sec.locked = on then s
    else addJob (secJob (.lock on s.sec.locked) [] (some b.tok) s) { s with sec.locked := on }

/-- SEC.LOCK's result where nothing is committed. -/
def ansSecLock (b : Bd) (s : State) : Option Ans :=
  if s.nv.jobs.any fun j => j.tok == some b.tok then none else some (okAns s [bit s.sec.locked])

end Sys2Proof.Machine
end

