-- ==== Sys2Proof/Machine/Verbs.lean ====
section
/-!
DEFINITION. The verb tables (Tables 14-1a, 15-1, 16-1): for each verb its opcode, its properties, its checks, its
effect and its answer.
-/
namespace Sys2Proof.Machine

/-- A verb's row of the verb tables. -/
structure Verb where
  /-- Opcode. -/
  op : Byte
  /-- It may stand in a clause with TIMED (R364). -/
  timed : Bool
  /-- It is protected on a LOCKED node (R446, Table 17-1). -/
  prot : Bool
  /-- Most result bytes it can give (R176). -/
  result : Nat
  /-- Its checks of arguments, resources, lock and state; the lock status is given. -/
  chk : Byte → State → Byte
  /-- Those of them that are repeated as the clause falls due (R181). -/
  again : Byte → State → Byte := chk
  /-- Its effect at the boundary. -/
  eff : Bd → State → State
  /-- Its answer after every clause of the boundary (R391); none where the result comes later (R392, R418). -/
  ans : Bd → State → Option Ans

/-- Result bytes of ROLLCALL (R376). -/
def rollLen (kind : Byte) : Nat := if kind = 1 then 8 else if kind = 2 then 6 else if kind = 3 then 12 else 0

/-- An address in Q2 or Q3, where NV.WRITE and NV.ERASE are protected (R417). -/
def upperHalf (a : Nat) : Bool := decide (a / 0x80000 = 1)

/-- Node, address, roll-call and time verbs. -/
def verbNode (i : Instr) : Option Verb :=
  match i with
  | .idRead _ => some
      { op := 0x01, timed := true, prot := false, result := 21,
        chk := fun _ _ => stOk,
        eff := fun _ s => s,
        ans := fun _ s => some (ansIdRead s) }
  | .nodeStatus _ => some
      { op := 0x02, timed := true, prot := false, result := 11,
        chk := fun _ _ => stOk,
        eff := fun _ s => s,
        ans := fun _ s => some (ansNodeStatus s) }
  | .nodeReset q mode confirm => some
      { op := 0x03, timed := mode == 0, prot := false, result := 0,
        chk := fun _ s => chkNodeReset mode confirm q s,
        again := fun _ s => dueNodeReset mode confirm q s,
        eff := fun b s => effNodeReset mode b s,
        ans := fun _ s => if mode = 1 then none else some (okAns s []) }
  | .factoryReset q confirm => some
      { op := 0x03, timed := false, prot := false, result := 0,
        chk := fun _ s => chkFactoryReset confirm q s,
        again := fun _ s => dueFactoryReset confirm q s,
        eff := fun _ s => effFactoryReset s,
        ans := fun _ _ => none }
  | .nodeRest _ mode keep hold => some
      { op := 0x04, timed := false, prot := false, result := 4,
        chk := fun _ s => chkNodeRest mode keep hold s,
        eff := fun b s => effNodeRest mode keep hold b s,
        ans := fun _ s => some (ansNodeRest s) }
  | .addrSet _ addr uid => some
      { op := 0x05, timed := false, prot := true, result := 1,
        chk := fun lk s => chkAddrSet addr uid lk s,
        eff := fun _ s => effAddrSet addr s,
        ans := fun _ s => some (okAns s [1]) }
  | .addrClaim _ value mask spread => some
      { op := 0x06, timed := false, prot := false, result := 9,
        chk := fun _ _ => stOk,
        eff := fun b s => effAddrClaim value mask spread b s,
        ans := fun _ s => some (ansAddrClaim s) }
  | .groupSet _ op map => some
      { op := 0x07, timed := false, prot := true, result := 0,
        chk := fun lk _ => chkGroupSet op lk,
        eff := fun _ s => effGroupSet op map s,
        ans := fun _ s => some (okAns s []) }
  | .groupRead _ => some
      { op := 0x08, timed := true, prot := false, result := 32,
        chk := fun _ _ => stOk,
        eff := fun _ s => s,
        ans := fun _ s => some (ansGroupRead s) }
  | .rollcall _ base count kind => some
      { op := 0x09, timed := false, prot := false, result := rollLen kind,
        chk := fun _ _ => chkRollcall base count kind,
        eff := fun _ s => s,
        ans := fun _ s => some (ansRollcall base count kind s) }
  | .wink _ seconds ports => some
      { op := 0x0A, timed := true, prot := false, result := 0,
        chk := fun _ s => chkWink seconds ports s,
        eff := fun b s => effWink seconds ports b s,
        ans := fun _ s => some (okAns s []) }
  | .timeKeystone q k => some
      { op := 0x10, timed := false, prot := false, result := 5,
        chk := fun _ _ => chkTimeKeystone q,
        eff := fun b s => effTimeKeystone k b s,
        ans := fun b s => some (ansTimeKeystone k b s) }
  | .timeRead _ => some
      { op := 0x11, timed := true, prot := false, result := 17,
        chk := fun _ _ => stOk,
        eff := fun _ s => s,
        ans := fun b s => some (ansTimeRead b s) }
  | .frameRate _ mode value => some
      { op := 0x12, timed := true, prot := false, result := 3,
        chk := fun _ _ => chkFrameRate mode value,
        eff := fun _ s => effFrameRate mode value s,
        ans := fun _ s => some (ansFrameRate s) }
  | .syncCfg _ mode => some
      { op := 0x13, timed := true, prot := false, result := 4,
        chk := fun _ _ => chkSyncCfg mode,
        eff := fun _ s => effSyncCfg mode s,
        ans := fun _ s => some (ansSyncCfg s) }
  | _ => none

/-- Level and scene verbs. -/
def verbLevel (i : Instr) : Option Verb :=
  match i with
  | .levelSet _ zone mask level => some
      { op := 0x20, timed := true, prot := false, result := 0,
        chk := fun _ _ => chkLevelSet mask,
        eff := fun b s => effLevelSet zone mask level b s,
        ans := fun _ s => some (okAns s []) }
  | .fadeStart _ zone mask flags start target dur curve => some
      { op := 0x21, timed := true, prot := false, result := 0,
        chk := fun _ _ => chkFadeStart mask flags curve,
        eff := fun b s => effFadeStart zone mask flags start target dur curve b s,
        ans := fun _ s => some (okAns s []) }
  | .fadeStop _ zone mask => some
      { op := 0x22, timed := true, prot := false, result := 0,
        chk := fun _ _ => chkFadeStop mask,
        eff := fun b s => effFadeStop zone mask b s,
        ans := fun _ s => some (okAns s []) }
  | .effectSet _ zone mask curve depth period => some
      { op := 0x23, timed := true, prot := false, result := 0,
        chk := fun _ _ => chkEffectSet mask curve period,
        eff := fun b s => effEffectSet zone mask curve depth period b s,
        ans := fun _ s => some (okAns s []) }
  | .effectClear _ zone => some
      { op := 0x24, timed := true, prot := false, result := 0,
        chk := fun _ _ => stOk,
        eff := fun b s => effEffectClear zone b s,
        ans := fun _ s => some (okAns s []) }
  | .masterSet _ flags start target dur curve => some
      { op := 0x25, timed := true, prot := false, result := 0,
        chk := fun _ _ => chkMasterSet flags curve,
        eff := fun b s => effMasterSet flags start target dur curve b s,
        ans := fun _ s => some (okAns s []) }
  | .outcurveSet _ classes curve => some
      { op := 0x26, timed := true, prot := false, result := 0,
        chk := fun _ _ => chkOutcurveSet classes curve,
        eff := fun b s => effOutcurveSet classes curve b s,
        ans := fun _ s => some (okAns s []) }
  | .levelRead _ zone => some
      { op := 0x27, timed := true, prot := false, result := 24,
        chk := fun _ _ => stOk,
        eff := fun _ s => s,
        ans := fun b s => some (ansLevelRead zone b s) }
  | .sceneRecall _ slot => some
      { op := 0x30, timed := true, prot := false, result := 0,
        chk := fun _ s => chkSceneRecall slot s,
        again := fun _ s => dueSceneRecall slot s,
        eff := fun b s => effSceneRecall slot b s,
        ans := fun _ s => some (okAns s []) }
  | .sceneCapture _ slot zone deffade => some
      { op := 0x31, timed := true, prot := false, result := 1,
        chk := fun _ s => chkSceneCapture slot s,
        eff := fun b s => effSceneCapture slot zone deffade b s,
        ans := fun _ _ => none }
  | .sceneWrite q slot flags offset deffade records => some
      { op := 0x32, timed := false, prot := false, result := flags.toNat % 2,
        chk := fun _ s => chkSceneWrite slot flags offset records q s,
        eff := fun b s => effSceneWrite slot flags offset deffade records b s,
        ans := fun _ s => if flags.getLsbD 0 then none else some (okAns s []) }
  | .sceneRead _ slot offset len => some
      { op := 0x33, timed := true, prot := false, result := 2 + min len.toNat 200,
        chk := fun _ _ => chkSceneRead slot offset len,
        eff := fun _ s => s,
        ans := fun _ s => some (ansSceneRead slot offset len s) }
  | .sceneErase _ slot => some
      { op := 0x34, timed := false, prot := false, result := 0,
        chk := fun _ s => chkSceneErase slot s,
        eff := fun b s => effSceneErase slot b s,
        ans := fun _ _ => none }
  | .sceneList _ boot => some
      { op := 0x35, timed := true, prot := false, result := 9,
        chk := fun _ _ => chkSceneList boot,
        eff := fun _ s => effSceneList boot s,
        ans := fun _ s => some (ansSceneList s) }
  | _ => none

/-- Deck, staging and curve verbs. -/
def verbDeck (i : Instr) : Option Verb :=
  match i with
  | .deckWrite q first entries => some
      { op := 0x40, timed := false, prot := false, result := 0,
        chk := fun _ s => chkDeckWrite first entries q s,
        eff := fun _ s => effDeckWrite first entries s,
        ans := fun _ s => some (okAns s []) }
  | .deckRead _ bank first count => some
      { op := 0x41, timed := true, prot := false, result := 24 * count.toNat,
        chk := fun _ s => chkDeckRead bank first count s,
        eff := fun _ s => s,
        ans := fun _ s => some (ansDeckRead bank first count s) }
  | .stageBegin q => some
      { op := 0x42, timed := false, prot := false, result := 0,
        chk := fun _ s => chkStageBegin q s,
        eff := fun b s => effStageBegin b s,
        ans := fun _ s => some (okAns s []) }
  | .stageCommit q flags c => some
      { op := 0x43, timed := false, prot := false, result := 6,
        chk := fun _ s => chkStageCommit flags c q s,
        eff := fun b s => effStageCommit flags c b s,
        ans := fun _ _ => none }
  | .stageAbort q => some
      { op := 0x44, timed := false, prot := false, result := 0,
        chk := fun _ s => chkStageAbort q s,
        eff := fun _ s => effStageAbort s,
        ans := fun _ s => some (okAns s []) }
  | .deckSave _ => some
      { op := 0x45, timed := false, prot := true, result := 2,
        chk := fun lk s => chkDeckSave lk s,
        eff := fun b s => effDeckSave b s,
        ans := fun _ _ => none }
  | .deckLoad q first count => some
      { op := 0x46, timed := false, prot := false, result := 1,
        chk := fun _ s => chkDeckLoad first count q s,
        eff := fun b s => effDeckLoad first count b s,
        ans := fun _ _ => none }
  | .curveWrite q id flags first points => some
      { op := 0x47, timed := false, prot := false, result := 2,
        chk := fun _ s => chkCurveWrite id flags first points q s,
        eff := fun b s => effCurveWrite id flags first points b s,
        ans := fun _ s => some (ansCurveWrite first points s) }
  | .curveRead _ id first count => some
      { op := 0x48, timed := true, prot := false, result := 1 + 2 * count.toNat,
        chk := fun _ _ => chkCurveRead id first count,
        eff := fun _ s => s,
        ans := fun _ s => some (ansCurveRead id first count s) }
  | _ => none

/-- Port, failure, counter and statistics verbs. -/
def verbPort (i : Instr) : Option Verb :=
  match i with
  | .portCfg _ port flags rate fmt n interval => some
      { op := 0x50, timed := true, prot := true, result := 0,
        chk := fun lk s => chkPortCfg port flags rate fmt n interval lk s,
        eff := fun _ s => effPortCfg port flags rate fmt n interval s,
        ans := fun _ s => some (okAns s []) }
  | .portStatus _ port => some
      { op := 0x51, timed := true, prot := false, result := 18,
        chk := fun _ s => chkPortStatus port s,
        eff := fun _ s => s,
        ans := fun _ s => some (ansPortStatus port s) }
  | .portCensus _ => some
      { op := 0x52, timed := true, prot := false, result := 20,
        chk := fun _ _ => stOk,
        eff := fun _ s => s,
        ans := fun _ s => some (ansPortCensus s) }
  | .cellSidecfg _ ports mode first last wdog failsafe cls poweron => some
      { op := 0x53, timed := true, prot := false, result := 8,
        chk := fun _ s => chkCellSidecfg ports mode first last wdog failsafe cls poweron s,
        eff := fun b s => effCellSidecfg ports mode first last wdog failsafe cls poweron b s,
        ans := fun _ s => ansCellSidecfg ports mode s }
  | .cellIdent _ port first count => some
      { op := 0x54, timed := true, prot := false, result := 8 * count.toNat,
        chk := fun _ s => chkCellIdent port first count s,
        eff := fun b s => effCellIdent port first count b s,
        ans := fun b s => ansCellIdent port first count b s }
  | .portProbe _ port kind => some
      { op := 0x55, timed := true, prot := false, result := 5,
        chk := fun _ s => chkPortProbe port kind s,
        eff := fun b s => effPortProbe port kind b s,
        ans := fun _ _ => none }
  | .relayCfg _ mode hold => some
      { op := 0x56, timed := true, prot := true, result := 1,
        chk := fun lk s => chkRelayCfg mode hold lk s,
        eff := fun _ s => effRelayCfg mode hold s,
        ans := fun _ s => some (ansRelayCfg s) }
  | .failSummary _ => some
      { op := 0x60, timed := true, prot := false, result := 52,
        chk := fun _ _ => stOk,
        eff := fun _ s => s,
        ans := fun _ s => some (ansFailSummary s) }
  | .failMap _ page mode first count => some
      { op := 0x61, timed := true, prot := false, result := if mode = 0 then 2 + count.toNat else 34,
        chk := fun _ s => chkFailMap page mode first count s,
        eff := fun _ s => s,
        ans := fun _ s => some (ansFailMap page mode first count s) }
  | .failNotify _ args => some
      { op := 0x62, timed := false, prot := false, result := 6,
        chk := fun _ _ => chkFailNotify args,
        eff := fun _ s => effFailNotify args s,
        ans := fun _ s => some (ansFailNotify s) }
  | .counterRead _ what first count => some
      { op := 0x63, timed := true, prot := false, result := if what = 0 then 36 else 4 * count.toNat,
        chk := fun _ _ => chkCounterRead what first count,
        eff := fun _ s => s,
        ans := fun _ s => some (ansCounterRead what first count s) }
  | .counterSave _ flags period => some
      { op := 0x64, timed := false, prot := false, result := 5,
        chk := fun _ s => chkCounterSave flags period s,
        eff := fun b s => effCounterSave flags period b s,
        ans := fun _ s => ansCounterSave flags s }
  | .concealCfg _ flags => some
      { op := 0x65, timed := true, prot := false, result := 1,
        chk := fun _ _ => chkConcealCfg flags,
        eff := fun _ s => effConcealCfg flags s,
        ans := fun _ s => some (ansConcealCfg s) }
  | .linkStats _ mode => some
      { op := 0x66, timed := true, prot := false, result := 72,
        chk := fun _ _ => chkLinkStats mode,
        eff := fun _ s => s,
        ans := fun _ s => some (ansLinkStats mode s) }
  | _ => none

/-- NV, power, I/O, firmware, security and bus verbs. -/
def verbSystem (i : Instr) : Option Verb :=
  match i with
  | .nvRead _ addr len => some
      { op := 0x70, timed := true, prot := false, result := len.toNat,
        chk := fun _ s => chkNvRead addr len s,
        eff := fun _ s => s,
        ans := fun _ s => some (ansNvRead addr len s) }
  | .nvWrite _ addr data => some
      { op := 0x71, timed := false, prot := upperHalf addr.toNat, result := 2,
        chk := fun lk s => chkNvWrite addr lk s,
        eff := fun b s => effNvWrite addr data b s,
        ans := fun _ _ => none }
  | .nvErase _ sector => some
      { op := 0x72, timed := false, prot := upperHalf (4096 * sector.toNat), result := 0,
        chk := fun lk s => chkNvErase sector lk s,
        eff := fun b s => effNvErase sector b s,
        ans := fun _ _ => none }
  | .nvProtect _ v => some
      { op := 0x73, timed := false, prot := true, result := 1,
        chk := fun lk _ => chkNvProtect v lk,
        eff := fun b s => effNvProtect v b s,
        ans := fun _ s => ansNvProtect v s }
  | .nvStatus _ => some
      { op := 0x74, timed := true, prot := false, result := 15,
        chk := fun _ _ => stOk,
        eff := fun _ s => s,
        ans := fun _ s => some (ansNvStatus s) }
  | .powerStatus _ => some
      { op := 0x80, timed := true, prot := false, result := 17,
        chk := fun _ _ => stOk,
        eff := fun _ s => s,
        ans := fun _ s => some (ansPowerStatus s) }
  | .reserveCfg _ mode present vchg ichg darkcut chold => some
      { op := 0x81, timed := false, prot := true, result := 6,
        chk := fun lk _ => chkReserveCfg mode present vchg ichg darkcut chold lk,
        eff := fun _ s => effReserveCfg mode present vchg ichg darkcut chold s,
        ans := fun _ s => some (ansReserveCfg s) }
  | .harvestCfg _ mode enable k period => some
      { op := 0x82, timed := false, prot := true, result := 3,
        chk := fun lk s => chkHarvestCfg mode enable k period lk s,
        eff := fun _ s => effHarvestCfg mode enable k period s,
        ans := fun _ s => some (ansHarvestCfg s) }
  | .lampenSet _ mode => some
      { op := 0x83, timed := true, prot := false, result := 1,
        chk := fun _ _ => chkLampenSet mode,
        eff := fun _ s => effLampenSet mode s,
        ans := fun _ s => some (ansLampenSet s) }
  | .gpioCfg _ pin mode init => some
      { op := 0x84, timed := true, prot := false, result := 3,
        chk := fun _ s => chkGpioCfg pin mode init s,
        eff := fun _ s => effGpioCfg pin mode init s,
        ans := fun _ s => some (ansGpioCfg pin s) }
  | .gpioRw _ wmask wlevel => some
      { op := 0x85, timed := true, prot := false, result := 3,
        chk := fun _ s => chkGpioRw wmask wlevel s,
        eff := fun _ s => effGpioRw wmask wlevel s,
        ans := fun _ s => some (ansGpioRw s) }
  | .tempRead _ => some
      { op := 0x86, timed := true, prot := false, result := 10,
        chk := fun _ _ => stOk,
        eff := fun _ s => s,
        ans := fun _ s => some (ansTempRead s) }
  | .fwInfo _ => some
      { op := 0x90, timed := true, prot := true, result := 21,
        chk := fun lk _ => lk,
        eff := fun _ s => s,
        ans := fun _ s => some (ansFwInfo s) }
  | .fwBegin _ size => some
      { op := 0x91, timed := false, prot := true, result := 1,
        chk := fun lk s => chkFwBegin size lk s,
        eff := fun b s => effFwBegin size b s,
        ans := fun _ _ => none }
  | .fwChunk q offset data => some
      { op := 0x92, timed := false, prot := true, result := 4,
        chk := fun lk s => chkFwChunk offset data q lk s,
        eff := fun b s => effFwChunk data b s,
        ans := fun b s => ansFwChunk offset data b s }
  | .fwFinish q => some
      { op := 0x93, timed := false, prot := true, result := 1,
        chk := fun lk s => chkFwFinish q lk s,
        eff := fun b s => effFwFinish b s,
        ans := fun _ _ => none }
  | .fwActivate _ mode => some
      { op := 0x94, timed := false, prot := true, result := 1,
        chk := fun lk s => chkFwActivate mode lk s,
        eff := fun b s => effFwActivate mode b s,
        ans := fun _ s => some (ansFwActivate s) }
  | .secChallenge _ => some
      { op := 0x95, timed := false, prot := true, result := 24,
        chk := fun lk _ => lk,
        eff := fun _ s => s,
        ans := fun b s => some (ansSecChallenge b s) }
  | .secSetkey q form nonce key kcv => some
      { op := 0x96, timed := false, prot := true, result := 4,
        chk := fun lk s => chkSecSetkey form nonce key kcv q lk s,
        eff := fun b s => effSecSetkey form key kcv b s,
        ans := fun _ _ => none }
  | .secLock q mode nonce => some
      { op := 0x97, timed := false, prot := true, result := 1,
        chk := fun lk s => chkSecLock mode nonce q lk s,
        eff := fun b s => effSecLock mode b s,
        ans := fun b s => ansSecLock b s }
  | .spanCfg _ mode flags defrate => some
      { op := 0xA0, timed := false, prot := true, result := 6,
        chk := fun lk _ => chkSpanCfg mode flags defrate lk,
        eff := fun _ s => effSpanCfg mode flags defrate s,
        ans := fun _ s => some (ansSpanCfg s) }
  | .spanStatus _ mode => some
      { op := 0xA1, timed := true, prot := false, result := 15,
        chk := fun _ _ => chkSpanStatus mode,
        eff := fun _ s => s,
        ans := fun _ s => some (ansSpanStatus mode s) }
  | _ => none

/-- The verb a command is; none for an event. -/
def verbOf (i : Instr) : Option Verb :=
  match verbNode i with
  | some v => some v
  | none =>
    match verbLevel i with
    | some v => some v
    | none =>
      match verbDeck i with
      | some v => some v
      | none =>
        match verbPort i with
        | some v => some v
        | none => verbSystem i

end Sys2Proof.Machine
end

