-- ==== Sys2Proof/WellFormed.lean ====
section
/-!
DEFINITION. Well-formed commands: argument lists as long as the verb's layout has them (Tables 14-2 to 16-7), clause headers
the mailboxes can deliver, frames the receiver can frame and input frames of a legal rate. One named check each.
-/
namespace Sys2Proof

/-- `least` to `most` units of `u` bytes. -/
def unitsOk (u least most n : Nat) : Bool := n % u == 0 && decide (u * least ≤ n) && decide (n ≤ u * most)

/-- Argument lists that a verb's layout admits; any other length is BAD_LENGTH (R361). -/
def Instr.lengthOk : Instr → Bool
  | .sceneWrite _ _ _ _ _ records => unitsOk 16 0 14 records.length
  | .deckWrite _ _ entries => unitsOk 24 1 9 entries.length
  | .curveWrite _ _ _ _ points => decide (points.length ≤ 100)
  | .nvWrite _ _ data => unitsOk 1 1 224 data.length
  | .fwChunk _ _ data => unitsOk 1 1 224 data.length
  | .secSetkey _ _ _ key _ => key.length == 16
  | _ => true

/-- A clause header: the service mailbox delivers individual clauses only, with no line rate (R219). -/
def Req.wf (q : Req) : Bool := q.mbox == .span || (q.kind == .individual && q.rate == 0)

/-- A frame of at most 9 + 240 characters from DSTH on (R145, R146). -/
def RxFrame.wf (f : RxFrame) : Bool := decide (f.chars.length ≤ 249)

/-- An input frame at one of the three line rates, at most four values a slot (R238, Table 9-1). -/
def RelayIn.wf (f : RelayIn) : Bool := decide (f.rate ≤ 2) && f.slots.all fun x => decide (x.values.length ≤ 4)

/-- The clause of a verb. -/
def Instr.req? : Instr → Option Req
  | .idRead q => some q
  | .nodeStatus q => some q
  | .nodeReset q _ _ => some q
  | .factoryReset q _ => some q
  | .nodeRest q _ _ _ => some q
  | .addrSet q _ _ => some q
  | .addrClaim q _ _ _ => some q
  | .groupSet q _ _ => some q
  | .groupRead q => some q
  | .rollcall q _ _ _ => some q
  | .wink q _ _ => some q
  | .timeKeystone q _ => some q
  | .timeRead q => some q
  | .frameRate q _ _ => some q
  | .syncCfg q _ => some q
  | .levelSet q _ _ _ => some q
  | .fadeStart q _ _ _ _ _ _ _ => some q
  | .fadeStop q _ _ => some q
  | .effectSet q _ _ _ _ _ => some q
  | .effectClear q _ => some q
  | .masterSet q _ _ _ _ _ => some q
  | .outcurveSet q _ _ => some q
  | .levelRead q _ => some q
  | .sceneRecall q _ => some q
  | .sceneCapture q _ _ _ => some q
  | .sceneWrite q _ _ _ _ _ => some q
  | .sceneRead q _ _ _ => some q
  | .sceneErase q _ => some q
  | .sceneList q _ => some q
  | .deckWrite q _ _ => some q
  | .deckRead q _ _ _ => some q
  | .stageBegin q => some q
  | .stageCommit q _ _ => some q
  | .stageAbort q => some q
  | .deckSave q => some q
  | .deckLoad q _ _ => some q
  | .curveWrite q _ _ _ _ => some q
  | .curveRead q _ _ _ => some q
  | .portCfg q _ _ _ _ _ _ => some q
  | .portStatus q _ => some q
  | .portCensus q => some q
  | .cellSidecfg q _ _ _ _ _ _ _ _ => some q
  | .cellIdent q _ _ _ => some q
  | .portProbe q _ _ => some q
  | .relayCfg q _ _ => some q
  | .failSummary q => some q
  | .failMap q _ _ _ _ => some q
  | .failNotify q _ => some q
  | .counterRead q _ _ _ => some q
  | .counterSave q _ _ => some q
  | .concealCfg q _ => some q
  | .linkStats q _ => some q
  | .nvRead q _ _ => some q
  | .nvWrite q _ _ => some q
  | .nvErase q _ => some q
  | .nvProtect q _ => some q
  | .nvStatus q => some q
  | .powerStatus q => some q
  | .reserveCfg q _ _ _ _ _ _ => some q
  | .harvestCfg q _ _ _ _ => some q
  | .lampenSet q _ => some q
  | .gpioCfg q _ _ _ => some q
  | .gpioRw q _ _ => some q
  | .tempRead q => some q
  | .fwInfo q => some q
  | .fwBegin q _ => some q
  | .fwChunk q _ _ => some q
  | .fwFinish q => some q
  | .fwActivate q _ => some q
  | .secChallenge q => some q
  | .secSetkey q _ _ _ _ => some q
  | .secLock q _ _ => some q
  | .spanCfg q _ _ _ => some q
  | .spanStatus q _ => some q
  | _ => none

/-- The clause header of a verb is one a mailbox delivers. -/
def Instr.reqOk (i : Instr) : Bool :=
  match i.req? with
  | some q => q.wf
  | none => true

/-- What the receiver or the relay input brings is framed as they frame it. -/
def Instr.frameOk : Instr → Bool
  | .spanlineFrameClose _ f => f.wf
  | .receiveTimeout _ f => f.wf && !f.broken
  | .relayInputFrame _ f => f.wf
  | _ => true

/-- A read's register number has seven bits (R211). -/
def Instr.registerOk : Instr → Bool
  | .collision _ reg _ => decide (reg.toNat < 128)
  | _ => true

/-- A well-formed command. -/
def Instr.wf (i : Instr) : Bool := i.lengthOk && i.reqOk && i.frameOk && i.registerOk

end Sys2Proof
end

