-- ==== Sys2Proof/Machine/Clause.lean ====
section
/-!
DEFINITION. Clauses (07): their layout, their authentication (17), sequence numbers, validation in the order of R181,
and what they do at the boundary where they take effect.
-/
namespace Sys2Proof.Machine

/-! ## Layout of the verbs' arguments (Tables 14-2 to 16-7) -/

/-- A field of an argument list, as a word of `w` bits. -/
def argAt (w : Nat) (l : List Byte) (o : Nat) : BitVec w := BitVec.ofNat w (fieldLe l o (w / 8))

/-- A verb with an exact argument length, else BAD_LENGTH (R361). -/
def exact (n : Nat) (l : List Byte) (i : Instr) : Sum Byte Instr := if l.length = n then .inr i else .inl stBadLength

/-- A verb of `n` bytes and `least` to `most` units of `u` bytes. -/
def units (n u least most : Nat) (l : List Byte) (i : Instr) : Sum Byte Instr :=
  if n + u * least ≤ l.length ∧ l.length ≤ n + u * most ∧ (l.length - n) % u = 0 then .inr i else .inl stBadLength

/-- The 16-bit values of a byte list. -/
def words16 (l : List Byte) : List W16 := (List.range (l.length / 2)).map fun i => argAt 16 l (2 * i)

/-- Verbs 0x01 to 0x35 (Tables 14-2 to 14-6). -/
def parseControl (q : Req) (op : Nat) (l : List Byte) : Sum Byte Instr :=
  let b := fun i => l.getD i 0
  let w := argAt 16 l
  let d := argAt 32 l
  let x := argAt 64 l
  match op with
  | 0x01 => exact 0 l (.idRead q)
  | 0x02 => exact 0 l (.nodeStatus q)
  | 0x03 => exact 2 l (if b 0 = 1 then .factoryReset q (b 1) else .nodeReset q (b 0) (b 1))
  | 0x04 => exact 4 l (.nodeRest q (b 0) (b 1) (w 2))
  | 0x05 => exact 10 l (.addrSet q (w 0) (x 2))
  | 0x06 => exact 17 l (.addrClaim q (x 0) (x 8) (b 16))
  | 0x07 => exact 33 l (.groupSet q (b 0) (BitVec.ofNat 256 (fieldLe l 1 32)))
  | 0x08 => exact 0 l (.groupRead q)
  | 0x09 => exact 4 l (.rollcall q (w 0) (b 2) (b 3))
  | 0x0A => exact 3 l (.wink q (w 0) (b 2))
  | 0x10 => exact 6 l (.timeKeystone q (argAt 48 l 0))
  | 0x11 => exact 0 l (.timeRead q)
  | 0x12 => exact 3 l (.frameRate q (b 0) (w 1))
  | 0x13 => exact 1 l (.syncCfg q (b 0))
  | 0x20 => exact 4 l (.levelSet q (b 0) (b 1) (w 2))
  | 0x21 => exact 12 l (.fadeStart q (b 0) (b 1) (b 2) (w 3) (w 5) (d 7) (b 11))
  | 0x22 => exact 2 l (.fadeStop q (b 0) (b 1))
  | 0x23 => exact 9 l (.effectSet q (b 0) (b 1) (b 2) (w 3) (d 5))
  | 0x24 => exact 1 l (.effectClear q (b 0))
  | 0x25 => exact 10 l (.masterSet q (b 0) (w 1) (w 3) (d 5) (b 9))
  | 0x26 => exact 2 l (.outcurveSet q (b 0) (b 1))
  | 0x27 => exact 1 l (.levelRead q (b 0))
  | 0x30 => exact 1 l (.sceneRecall q (b 0))
  | 0x31 => exact 6 l (.sceneCapture q (b 0) (b 1) (d 2))
  | 0x32 => units 8 16 0 14 l (.sceneWrite q (b 0) (b 1) (w 2) (d 4) (l.drop 8))
  | 0x33 => exact 4 l (.sceneRead q (b 0) (w 1) (b 3))
  | 0x34 => exact 1 l (.sceneErase q (b 0))
  | 0x35 => if l.length = 0 then .inr (.sceneList q none) else exact 1 l (.sceneList q (some (b 0)))
  | _ => .inl stBadOpcode

/-- Verbs 0x40 to 0x66 (Tables 15-2 to 15-6). -/
def parseTables (q : Req) (op : Nat) (l : List Byte) : Sum Byte Instr :=
  let b := fun i => l.getD i 0
  let w := argAt 16 l
  match op with
  | 0x40 => units 2 24 1 9 l (.deckWrite q (w 0) (l.drop 2))
  | 0x41 => exact 4 l (.deckRead q (b 0) (w 1) (b 3))
  | 0x42 => exact 0 l (.stageBegin q)
  | 0x43 => exact 7 l (.stageCommit q (b 0) (argAt 48 l 1))
  | 0x44 => exact 0 l (.stageAbort q)
  | 0x45 => exact 0 l (.deckSave q)
  | 0x46 => exact 2 l (.deckLoad q (b 0) (b 1))
  | 0x47 => units 4 2 0 100 l (.curveWrite q (b 0) (b 1) (w 2) (words16 (l.drop 4)))
  | 0x48 => exact 4 l (.curveRead q (b 0) (w 1) (b 3))
  | 0x50 => exact 7 l (.portCfg q (b 0) (b 1) (b 2) (b 3) (w 4) (b 6))
  | 0x51 => exact 1 l (.portStatus q (b 0))
  | 0x52 => exact 0 l (.portCensus q)
  | 0x53 => exact 12 l (.cellSidecfg q (b 0) (b 1) (w 2) (w 4) (b 6) (w 7) (b 9) (w 10))
  | 0x54 => exact 4 l (.cellIdent q (b 0) (w 1) (b 3))
  | 0x55 => exact 2 l (.portProbe q (b 0) (b 1))
  | 0x56 => exact 3 l (.relayCfg q (b 0) (w 1))
  | 0x60 => exact 0 l (.failSummary q)
  | 0x61 => exact 4 l (.failMap q (b 0) (b 1) (b 2) (b 3))
  | 0x62 =>
    if l.length = 0 then .inr (.failNotify q none) else exact 6 l (.failNotify q (some (w 0, b 2, b 3, b 4, b 5)))
  | 0x63 => exact 4 l (.counterRead q (b 0) (w 1) (b 3))
  | 0x64 => exact 2 l (.counterSave q (b 0) (b 1))
  | 0x65 => if l.length = 0 then .inr (.concealCfg q none) else exact 1 l (.concealCfg q (some (b 0)))
  | 0x66 => exact 1 l (.linkStats q (b 0))
  | _ => .inl stBadOpcode

/-- Verbs 0x70 to 0xA1 (Tables 16-2 to 16-7). -/
def parseSystem (q : Req) (op : Nat) (l : List Byte) : Sum Byte Instr :=
  let b := fun i => l.getD i 0
  let w := argAt 16 l
  let d := argAt 32 l
  match op with
  | 0x70 => exact 5 l (.nvRead q (d 0) (b 4))
  | 0x71 => units 4 1 1 224 l (.nvWrite q (d 0) (l.drop 4))
  | 0x72 => exact 1 l (.nvErase q (b 0))
  | 0x73 => exact 1 l (.nvProtect q (b 0))
  | 0x74 => exact 0 l (.nvStatus q)
  | 0x80 => exact 0 l (.powerStatus q)
  | 0x81 => exact 7 l (.reserveCfg q (b 0) (b 1) (b 2) (b 3) (b 4) (w 5))
  | 0x82 => exact 4 l (.harvestCfg q (b 0) (b 1) (b 2) (b 3))
  | 0x83 => exact 1 l (.lampenSet q (b 0))
  | 0x84 => exact 3 l (.gpioCfg q (b 0) (b 1) (b 2))
  | 0x85 => exact 2 l (.gpioRw q (b 0) (b 1))
  | 0x86 => exact 0 l (.tempRead q)
  | 0x90 => exact 0 l (.fwInfo q)
  | 0x91 => exact 4 l (.fwBegin q (d 0))
  | 0x92 => units 4 1 1 224 l (.fwChunk q (d 0) (l.drop 4))
  | 0x93 => exact 0 l (.fwFinish q)
  | 0x94 => exact 1 l (.fwActivate q (b 0))
  | 0x95 => exact 0 l (.secChallenge q)
  | 0x96 => exact 29 l (.secSetkey q (b 0) (argAt 64 l 1) ((l.drop 9).take 16) (d 25))
  | 0x97 => exact 9 l (.secLock q (b 0) (argAt 64 l 1))
  | 0xA0 => exact 6 l (.spanCfg q (b 0) (b 1) (d 2))
  | 0xA1 => exact 1 l (.spanStatus q (b 0))
  | _ => .inl stBadOpcode

/-- A verb from its opcode and arguments, or BAD_OPCODE or BAD_LENGTH (R361, R442). -/
def parseVerb (q : Req) (op : Byte) (l : List Byte) : Sum Byte Instr :=
  if op.toNat < 0x40 then parseControl q op.toNat l
  else if op.toNat < 0x70 then parseTables q op.toNat l
  else parseSystem q op.toNat l

/-! ## Layout of a clause (R175, R176, Table 7-1) -/

/-- A clause split into its fields. -/
structure Layout where
  /-- TIMED. -/
  timed : Bool
  /-- NOREPLY. -/
  noreply : Bool
  /-- AUTH. -/
  auth : Bool
  /-- Apply-at WT, where TIMED. -/
  applyAt : Option W48
  /-- Opcode and arguments of each verb. -/
  verbs : List (Byte × List Byte)
  deriving DecidableEq, Repr

/-- The verbs that fill `l` exactly; `n` bounds their number. -/
def splitVerbs : Nat → List Byte → Option (List (Byte × List Byte))
  | _, [] => some []
  | n + 1, op :: len :: t =>
    if len.toNat ≤ t.length then
      match splitVerbs n (t.drop len.toNat) with
      | some l => some ((op, t.take len.toNat) :: l)
      | none => none
    else none
  | _, _ => none

/-- Bytes before the verbs. -/
def headLen (timed : Bool) : Nat := if timed then 7 else 1
/-- Bytes after the verbs. -/
def tagLen (auth : Bool) : Nat := if auth then 8 else 0

/-- A body that is not empty, as a clause, or the status of its clause-level rejection: reserved header bits first, then
lengths (R176). -/
def layout (body : List Byte) : Sum Byte Layout :=
  let h := body.getD 0 0
  let timed := h.getLsbD 7
  let auth := h.getLsbD 5
  if h.toNat % 32 ≠ 0 then .inl stBadArg
  else if body.length < headLen timed + tagLen auth then .inl stBadLength
  else
    let mid := (body.take (body.length - tagLen auth)).drop (headLen timed)
    match splitVerbs mid.length mid with
    | none => .inl stBadLength
    | some l => .inr { timed := timed, noreply := h.getLsbD 6, auth := auth,
                       applyAt := if timed then some (argAt 48 body 1) else none, verbs := l }

/-- Most result bytes of one verb; 0 where it does not parse (R176). -/
def verbResult (q : Req) (v : Byte × List Byte) : Nat :=
  match parseVerb q v.1 v.2 with
  | .inr i =>
    match verbOf i with
    | some r => r.result
    | none => 0
  | .inl _ => 0

/-- Length of the reply body if the clause takes effect (R176). -/
def replyLen (q : Req) (l : List (Byte × List Byte)) : Nat := 3 + (l.map fun v => 3 + verbResult q v).sum

/-! ## Authentication (R447, R448) -/

/-- The tag's message for one T (Table 17-2). -/
def tagMessage (q : Req) (body : List Byte) (t : Nat) : List Byte :=
  beBytes 2 q.dst.toNat ++ beBytes 2 q.src.toNat ++ beBytes 2 q.seq.toNat ++ body.take (body.length - 8) ++ leBytes 5 t

/-- The tag matches for some T within 2 of the second of W (R448). -/
def tagOk (key : List Byte) (q : Req) (body : List Byte) : Bool :=
  let s := q.stamp.toNat / 4096
  (List.range 5).any fun i =>
    decide (2 ≤ s + i) && (cmac key (tagMessage q body (s + i - 2))).take 8 == body.drop (body.length - 8)

/-- An AUTH clause is accepted (R448). -/
def authOk (q : Req) (body : List Byte) (s : State) : Bool :=
  q.seq != 0 && !s.ka.lost &&
    match s.sec.key with
    | some k => tagOk k q body
    | none => false

/-! ## Sequence numbers (R183, R184) -/

/-- The tracking entry of the clause's source. -/
def trackOf (q : Req) (s : State) : Option Track :=
  match q.mbox with
  | .span => s.cl.track.find? fun t => t.src == q.src
  | .svc => s.cl.svcTrack

/-- An entry becomes the most recently used; the table holds 32 (R183). -/
def putTrack (t : Track) (l : List Track) : List Track :=
  (t :: l.filter fun x => x.src != t.src).take Config.trackSlots

/-- SEQ is recorded for the source; SVSEQ follows for the service mailbox (R184, R219). -/
def recordSeq (q : Req) (s : State) : State :=
  match q.mbox with
  | .span => { s with cl.track := putTrack { src := q.src, last := q.seq, reply := none } s.cl.track }
  | .svc => { s with cl.svcTrack := some { src := localSrc, last := q.seq, reply := none },
                     svc.seqLow := BitVec.ofNat 8 q.seq.toNat }

/-- Classes of Table 7-4. -/
inductive SeqClass
  | unsequenced
  | duplicate
  | fresh
  | stale
  deriving DecidableEq, Repr

/-- The class of a clause's SEQ (Table 7-4). -/
def seqClass (q : Req) (s : State) : SeqClass :=
  if q.seq = 0 then .unsequenced
  else match trackOf q s with
    | none => .fresh
    | some t => if q.seq = t.last then .duplicate else if newer q.seq t.last then .fresh else .stale

/-- A duplicate has its cached reply sent again with its own SEQ, once it exists, under the exceptions of R178 that its
verbs have; the entry counts as used (R183, R184). -/
def resendCached (q : Req) (ops : List Byte) (s : State) : State :=
  match trackOf q s with
  | none => s
  | some t =>
    let s := match q.mbox with
      | .span => { s with cl.track := putTrack t s.cl.track }
      | .svc => s
    match t.reply with
    | none => s
    | some f =>
      let excepted := ops.contains opAddrSet || ops.contains opAddrClaim
      if q.noreply || (q.kind != .individual && !excepted) || (q.mbox == .span && unaddressed s && f.src != 0xFFFF) then s
      else match q.mbox with
        | .span => queueReply { f with attempts := 0, rate := replyRate s q.rate } s
        | .svc => queueLocal f s

/-! ## Validation (R181, R182) -/

/-- The lock status of a protected verb (R364, R446). -/
def lockStatus (prot : Bool) (q : Req) (s : State) : Byte :=
  if prot && s.sec.locked && !q.auth then stAuthRequired else stOk

/-- A verb's own validation: permission to be timed, arguments, resources, lock, state; or, as it falls due, what is checked
again. -/
def checkVerb (due : Bool) (v : Verb) (q : Req) (s : State) : Byte :=
  firstStatus [firstBad [(q.applyAt.isSome && !v.timed, stBadArg)],
    (if due then v.again else v.chk) (lockStatus v.prot q s) s]

/-- What a verb brings about at its boundary beside its effect: PORT.CFG's change comes into force there (R182, R283). -/
def foresee (i : Instr) (s : State) : State :=
  match i with
  | .portCfg _ port _ _ _ _ _ => reconfigure (portOf port) s
  | _ => s

/-- The boundary data of a clause's verb: origin and key by R190, R192 and R295. -/
def bdOf (q : Req) (t : W48) (tok : Tok) (pre : State) : Bd :=
  { t := t, org := q.applyAt.getD t, key := { wt := q.applyAt.getD t, src := q.src, seq := q.seq }, q := q, tok := tok,
    pre := pre }

/-- Validation of parsed verbs from index `i` on, each against the state the verbs before it leave (R182), at take-up or
again as they fall `due` (R181): the first failure, as opcode, status and index. -/
def checkFrom (due : Bool) (q : Req) (t : W48) (id : Nat) (pre : State) :
    Nat → List Instr → State → Option (Byte × Byte × Nat)
  | _, [], _ => none
  | n, i :: l, s =>
    match verbOf i with
    | none => some (0, stBadOpcode, n)
    | some v =>
      let st := if i.lengthOk then checkVerb due v q s else stBadLength
      if st = stOk then
        checkFrom due q t id pre (n + 1) l (foresee i (v.eff (bdOf q t { id := id, idx := n } pre) s))
      else some (v.op, st, n)

/-- Validation of a clause's verbs as they were sent: the parsed verbs, or the first failure. A verb before it has been
validated in full. -/
def parseFrom (q : Req) : Nat → List (Byte × List Byte) → List Instr × Option (Byte × Byte × Nat)
  | _, [] => ([], none)
  | n, v :: l =>
    match parseVerb q v.1 v.2 with
    | .inl st => ([], some (v.1, st, n))
    | .inr i => let r := parseFrom q (n + 1) l; (i :: r.1, r.2)

/-- Parsing and validation together: a parse failure counts only if no verb before it fails. -/
def validate (q : Req) (t : W48) (l : List (Byte × List Byte)) (s : State) : Sum (Byte × Byte × Nat) (List Instr) :=
  let r := parseFrom q 0 l
  match checkFrom false q t s.cl.nextId s 0 r.1 s, r.2 with
  | some bad, _ => .inl bad
  | none, some bad => .inl bad
  | none, none => .inr r.1

/-- A verb that consumes its source's nonce whether or not it succeeds (R435). -/
def burns (op : Byte) (l : List Byte) : Bool := op == 0x96 || (op == 0x97 && l.getD 0 0 != 0xFF)

/-- The nonce of a rejected clause is consumed by the verbs up to the one that failed (R435). -/
def burnUpTo (q : Req) (n : Nat) (l : List (Byte × List Byte)) (s : State) : State :=
  if (l.take (n + 1)).any fun v => burns v.1 v.2 then burnNonce q s else s

/-- Whether an accepted verb is one of those. -/
def burnsInstr : Instr → Bool
  | .secSetkey _ _ _ _ _ => true
  | .secLock _ mode _ => mode != 0xFF
  | _ => false

/-! ## Rejection -/

/-- The number of a clause is taken. -/
def takeId (s : State) : Nat × State := (s.cl.nextId, { s with cl.nextId := s.cl.nextId + 1 })

/-- A clause-level rejection before its SEQ was recorded: nothing is cached (R184). -/
def rejectEarly (q : Req) (st : Byte) (s : State) : State :=
  let (id, s) := takeId s
  replyOr { q with seq := 0 } false (replyBody q.seq (clauseReject st)) id s

/-- A clause-level rejection after its SEQ was recorded. -/
def rejectClause (q : Req) (st : Byte) (s : State) : State :=
  let (id, s) := takeId s
  replyOr q false (replyBody q.seq (clauseReject st)) id s

/-- A rejection by a verb's validation (R177). -/
def rejectVerb (q : Req) (bad : Byte × Byte × Nat) (s : State) : State :=
  let (id, s) := takeId s
  replyOr q false (replyBody q.seq (verbReject bad.1 bad.2.1 bad.2.2)) id s

/-! ## Take-up (R173, R181) -/

/-- The render time the next boundary will have, for the validation of an untimed clause's verbs. -/
def expectedT (s : State) : W48 := nextRender s

/-- The times and the queue's room of a timed clause, against WT as it stands at take-up (R181, R188, R189) [64]. -/
def timedStatus (a : W48) (s : State) : Byte :=
  firstStatus [timeStatus s.ka.lost (wtN s) a.toNat,
    firstBad [(decide (s.cl.timed.length ≥ Config.timedSlots), stRange)]]

/-- A clause validated now, not held by a block. -/
def validNow (q : Req) (is : List Instr) (s : State) : Queued := { req := q, verbs := is, held := false, at_ := s.now }

/-- A validated clause enters its queue (R186, R187). -/
def queueClause (w : Queued) (s : State) : State :=
  match w.req.applyAt with
  | some _ => { s with cl.timed := s.cl.timed ++ [w] }
  | none => { s with cl.ready := s.cl.ready ++ [w] }

/-- A clause past its SEQ step: times, verbs, then its queue (R181, R186 to R189). -/
def enqueueClause (q : Req) (l : Layout) (s : State) : State :=
  let st := match q.applyAt with
    | some a => timedStatus a s
    | none => stOk
  if st ≠ stOk then rejectClause q st s
  else match validate q (expectedT s) l.verbs s with
    | .inl bad => rejectVerb q bad (burnUpTo q bad.2.2 l.verbs s)
    | .inr is => queueClause (validNow q is s) s

/-- A clause whose layout is sound: its reply's length, its tag and its SEQ, then its times and verbs (R176, R181). -/
def takeLaid (q : Req) (l : Layout) (body : List Byte) (s : State) : State :=
  if replyLen q l.verbs > 240 then rejectEarly q stBadLength s
  else if l.auth && !authOk q body s then rejectEarly q stAuthFailed s
  else
    match seqClass q s with
    | .unsequenced => enqueueClause q l s
    | .duplicate => resendCached q (l.verbs.map (·.1)) s
    | .stale => rejectEarly q stStaleSeq s
    | .fresh => enqueueClause q l (recordSeq q s)

/-- One delivered clause, from its layout to its queue or its rejection (R181). A body of 0 bytes is no clause (R146,
R176). -/
def takeUp (q0 : Req) (body : List Byte) (s : State) : State :=
  if body = [] then s
  else
    let q := { q0 with noreply := (body.getD 0 0).getLsbD 6 }
    match layout body with
    | .inl st => rejectEarly q st s
    | .inr l => takeLaid { q with auth := l.auth, applyAt := l.applyAt } l body s

/-! ## Taking effect at a boundary (R19, R186, R187) -/

/-- One frame period in whole ticks (R191). -/
def periodTicks (s : State) : Nat :=
  let up := fun (ps : Nat) => (ps + Config.tickPs - 1) / Config.tickPs
  if s.rd.syncLocked && !s.rd.intervals.isEmpty then up (meanInterval s)
  else if s.cfg.freeRun then up (freePeriod s.cfg.frameValue)
  else s.cfg.frameValue

/-- What a timed clause's OK reads as at a boundary (R24, R191). -/
def lateStatus (w : Queued) (t : W48) (s : State) : Byte :=
  match w.req.applyAt with
  | some a => if w.held || decide (t.toNat ≥ a.toNat + periodTicks s) then stLate else stOk
  | none => stOk

/-- A verb's answer that is still to be taken. -/
abbrev Due := Verb × Bd

/-- The effects of a clause's verbs, in order, and the answers due. -/
def effectsFrom (q : Req) (t : W48) (id : Nat) (pre : State) : Nat → List Instr → State × List Due → State × List Due
  | _, [], r => r
  | n, i :: l, r =>
    match verbOf i with
    | none => effectsFrom q t id pre (n + 1) l r
    | some v =>
      let b := bdOf q t { id := id, idx := n } pre
      effectsFrom q t id pre (n + 1) l (v.eff b r.1, r.2 ++ [(v, b)])

/-- The empty result places of a clause. -/
def emptyEntries (l : List Instr) : List Entry :=
  l.map fun i => { op := match verbOf i with
                    | some v => v.op
                    | none => 0, res := none }

/-- A clause that takes effect gets its number, and waits for its results. -/
def openClause (q : Req) (is : List Instr) (late : Byte) (s : State) : State :=
  { s with cl.nextId := s.cl.nextId + 1,
           cl.waiting := s.cl.waiting ++ [{ id := s.cl.nextId, req := q, entries := emptyEntries is, late := late }] }

/-- A clause waits no longer. -/
def closeClause (id : Nat) (s : State) : State := { s with cl.waiting := s.cl.waiting.filter fun x => x.id != id }

/-- One clause takes effect at render time `t`: its state-dependent checks again (R181), then every verb (R19); the
answers follow once every clause of the boundary has taken effect (R391). -/
def applyClause (t : W48) (w : Queued) (r : State × List Due) : State × List Due :=
  let s := r.1
  let q := w.req
  let id := s.cl.nextId
  match checkFrom true q t id s 0 w.verbs { s with now := w.at_ } with
  | some bad => (rejectVerb q bad (if (w.verbs.take (bad.2.2 + 1)).any burnsInstr then burnNonce q s else s), r.2)
  | none =>
    let s := openClause q w.verbs (lateStatus w t s) s
    let e := effectsFrom q t id s 0 w.verbs (s, r.2)
    let s := restartHold e.1
    if w.verbs.isEmpty then (finishClause q [] id (closeClause id s), e.2) else (s, e.2)

/-- The answers due at a boundary, in clause order (R391). -/
def answerAll (l : List Due) (s : State) : State :=
  l.foldl (fun s d => match d.1.ans d.2 s with
    | some (s', r) => resolveNow d.2.tok r.1 r.2 s'
    | none => s) s

/-- Clause `a` is applied before clause `b` at one boundary: by apply-at WT, SRC, serial SEQ (R187). -/
def dueBefore (a b : Queued) : Bool :=
  let x := a.req
  let y := b.req
  let xa := x.applyAt.getD 0
  let ya := y.applyAt.getD 0
  if xa ≠ ya then decide (xa.toNat < ya.toNat)
  else if x.src ≠ y.src then decide (x.src.toNat < y.src.toNat)
  else newer y.seq x.seq

/-- A clause put in its place among those due, after every clause it does not precede. -/
def insertDue (w : Queued) : List Queued → List Queued
  | [] => [w]
  | x :: t => if dueBefore w x then w :: x :: t else x :: insertDue w t

/-- The clauses due at render time `t`, in the order of R187. -/
def dueClauses (t : W48) (s : State) : List Queued :=
  (s.cl.timed.filter fun w => decide ((w.req.applyAt.getD 0).toNat ≤ t.toNat)).foldl (fun l w => insertDue w l) []

/-! ## A verb's own command -/

/-- The boot scene is due at the next boundary: it waits for step 12, in which every configured port gets its first state
(R65, R89). -/
def bootSceneDue (s : State) : Bool :=
  s.rd.bootScene && allPorts.all fun p => !(s.ports.get p).cfg.enable || pstate s p != .off

/-- A boundary falls now, and nothing comes before a new clause at it: the NP is not blocked, no clause and no flip waits
for it, and the boot scene is past (R19, R186, R187). -/
def boundaryFree (s : State) : Bool :=
  boundaryDue s && !npBlocked s && !bootSceneDue s && s.cl.ready.isEmpty && (dueClauses (renderNow s) s).isEmpty
    && match s.st.commit with
      | some c => !c.asap && decide ((renderNow s).toNat < c.c.toNat)
      | none => true

/-- A single verb that takes effect at the boundary that falls now, whose frame FRAME_BOUNDARY then sends (R19). -/
def runNow (q : Req) (i : Instr) (s : State) : State :=
  let r := applyClause (renderNow s) (validNow q [i] s) (s, [])
  answerAll r.2 r.1

/-- A timed clause of one verb that is taken up: its times and its verb checked, then its queue; it takes effect at once
where a boundary at or after its apply-at WT falls now (R187, R189). -/
def takeTimed (q : Req) (a : W48) (i : Instr) (s : State) : State :=
  let st := timedStatus a s
  if st ≠ stOk then rejectClause q st s
  else match checkFrom false q (expectedT s) s.cl.nextId s 0 [i] s with
    | some bad => rejectVerb q bad (if burnsInstr i then burnNonce q s else s)
    | none =>
      if boundaryFree s && decide (a.toNat ≤ (renderNow s).toNat) then runNow q i s
      else queueClause (validNow q [i] s) s

/-- An untimed clause of one verb that is taken up: it takes effect at once where a boundary falls now and nothing comes
before it there; else, its checks passed, it waits for its boundary (R19, R186). -/
def takeUntimed (q : Req) (i : Instr) (s : State) : State :=
  match checkFrom false q (expectedT s) s.cl.nextId s 0 [i] s with
  | some bad => rejectVerb q bad (if burnsInstr i then burnNonce q s else s)
  | none => if boundaryFree s then runNow q i s else queueClause (validNow q [i] s) s

/-- A clause of one verb past its SEQ step is taken up. -/
def takeVerb (q : Req) (i : Instr) (s : State) : State :=
  match q.applyAt with
  | none => takeUntimed q i s
  | some a => takeTimed q a i s

/-- A verb given as a command: a clause of that one verb, its header in `q`, past its SEQ step. Where a boundary falls
now and nothing comes before it there, it takes effect at that boundary; else, its checks passed, it waits for its boundary,
and its answer follows there (R19, R186, R187). While the NP is blocked it is not looked at before the block ends (R23).
Clauses are executed in RUN only (R365). -/
def runVerb (q : Req) (i : Instr) (s : State) : State :=
  if !inRun s then s
  else if npBlocked s then { s with cl.blocked := s.cl.blocked ++ [validNow q [i] s] }
  else takeVerb q i s

/-- The verbs that came during a block are taken up at its end, in their order (R23, R189). -/
def releaseBlocked (s : State) : State :=
  s.cl.blocked.foldl (fun s w =>
    match w.verbs with
    | [i] => takeVerb w.req i s
    | _ => s) { s with cl.blocked := [] }

end Sys2Proof.Machine
end

