-- ==== Sys2Proof/Machine/Boundary.lean ====
section
/-!
DEFINITION. The frame boundary (R15, R19 to R25, R186, R187, R194, R196, R200, R269, R308 to R311): flips, clauses, the map,
port changes, rendering, the entry to REST, and the keystone correction that follows it.
-/
namespace Sys2Proof.Machine

/-! ## Parts of a boundary -/

/-- A boot scene not usable or none: every lane at 0x0000 that no clause has set yet (R89, R192). -/
def bootDark (s : State) : State := { s with rd.lanes := s.rd.lanes.filter fun e => e.2.key.isSome }

/-- The boot scene at its boundary (R89). -/
def bootSceneNow (t : W48) (s : State) : State :=
  if bootSceneDue s then
    let s := { s with rd.bootScene := false }
    let slot := s.cfg.bootScene.toNat
    if slot < 64 ∧ sceneUsable s slot = true then applyScene s slot t none s else bootDark s
  else s

/-- The banks flip: the commit has its result and the stage closes (R200, R202). The content of the staging bank is undefined
until the next STAGE.BEGIN: a free value [81]. A deck save running is cut (R331). -/
def flipBanks (t : W48) (c : Commit) (s : State) : State :=
  let s := cutDeckSave (spend { s with rd.active := s.rd.staging, rd.staging := [], rd.stale := some s.draws
                                       st.commit := none, st.owner := none })
  resolve c.tok (if c.missed then stLate else stOk) (leBytes 6 t.toNat) s

/-- An armed flip at a boundary (R25, R200, R397). -/
def flipStep (t : W48) (s : State) : State :=
  match s.st.commit with
  | none => s
  | some c =>
    if c.asap || decide (c.c.toNat ≤ t.toNat) then
      (if !loadRuns s then flipBanks t c s
       else if c.asap then s else { s with st.commit := some { c with missed := true } })
    else s

/-- Timed clauses that fall due at render time `t`: applied in the order of R187; an NV block keeps them waiting (R24). -/
def timedStep (t : W48) (r : State × List Due) : State × List Due :=
  let s := r.1
  let isDue := fun (w : Queued) => decide ((w.req.applyAt.getD 0).toNat ≤ t.toNat)
  if npBlocked s then r
  else
    let l := dueClauses t s
    l.foldl (fun r w => applyClause t w r) ({ s with cl.timed := s.cl.timed.filter fun w => !isDue w }, r.2)

/-- Untimed clauses waiting for the boundary, in arrival order (R186); an NV block keeps them waiting (R204). -/
def untimedStep (t : W48) (r : State × List Due) : State × List Due :=
  let s := r.1
  if npBlocked s then r
  else s.cl.ready.foldl (fun r w => applyClause t w r) ({ s with cl.ready := [] }, r.2)

/-- The slots of port `p`'s frame: rendered, or the last rendered frame while the engine stands (R94). -/
def frameSlots (t : W48) (s : State) (p : Port) : List (List Nat) :=
  if s.pw.frozen then frozenSlots s p else renderPort s t.toNat p

/-- The frames of a boundary in render mode: rendered from one state for all ports, then sent (R19, R269). -/
def sendFrames (t : W48) (s : State) : State :=
  if s.relay.on then s
  else
    let l := allPorts.map fun p => (p, if sendsData s (s.ports.get p) then frameSlots t s p else [])
    l.foldl (fun s e => boundaryFrame e.1 e.2 (s.now + 8 * Config.usPs) false s) s

/-- One sector of a running load in each frame, while no program or erase runs (R199). -/
def loadStep (s : State) : State := if anyRunning s && !npBlocked s then loadSector s else s

/-! ## REST (R75) -/

/-- No lane in a fade, the master lane idle, no effect, no wink (R75, R364). -/
def renderIdle (s : State) : Bool :=
  let idle := fun (l : Lane) => decide (l.t0.toNat + l.d.toNat ≤ wtN s)
  s.rd.lanes.all (fun e => idle e.2) && idle s.rd.master && s.rd.effects.all (fun e => e.2.period == 0)
    && !winking s (wtN s)

/-- The outbound queue and the service outbound mailbox are empty, and no EVT is pending (R75); a frame in its attempt has to
end [57]. -/
def queuesIdle (s : State) : Bool :=
  s.span.outQ.isEmpty && s.span.tx.isNone && s.svc.out.isNone && s.ev.held.isEmpty && s.ev.marks.isEmpty
    && s.fail.due.isNone

/-- REST_HOLD has expired, whether or not its event has come (R75, R76). -/
def holdOver (s : State) : Bool := s.pw.restFree || decide (s.pw.restDue ≤ s.now)

/-- Every condition of R75 holds. -/
def restReady (s : State) : Bool :=
  s.cfg.restOk && !poor s && renderIdle s && !s.relay.on && s.cl.timed.isEmpty && s.st.owner.isNone && !npBlocked s
    && queuesIdle s && holdOver s

/-- The node enters REST: FOSC off, ports stopped, the wake listener on (R28, R75, R368). -/
def enterRest (s : State) : State :=
  { stopPorts s with pw.mode := .rest, pw.fosc := false, pw.wrc := true, pw.keepRest := s.cfg.keep,
                     span.wakeHold := none, span.idle := false }

/-! ## Keystone correction -/

/-- A correction that waited for this boundary follows its render time (R194 to R196). -/
def correctStep (s : State) : State :=
  match s.ka.corr with
  | none => s
  | some (.slew e) => { s with ka.corr := none, ka.slew := e, ka.slewPhase := 0 }
  | some (.step e) =>
    raiseTime 0 { s with ka.corr := none, ka.slew := 0, ka.slewPhase := 0, ka.wt := s.ka.wt + BitVec.ofInt 48 e
                         ka.jumps := keepJumps [{ at_ := s.now, size := e, step := true }] s.ka.jumps }

/-! ## The boundary -/

/-- A port condition of R461 holds. -/
def portSeen (s : State) : Bool :=
  allPorts.any (fun p => match pstate s p with
    | .ok => true
    | .broken _ => true
    | .relay => true
    | _ => false) || allPorts.all fun p => !(s.ports.get p).cfg.enable

/-- A boundary of render time `t` begins: its place in time, and the thermal factor of its frame (R19, R308). -/
def openBoundary (t : W48) (s : State) : State :=
  { s with rd.prevT := s.rd.lastT, rd.lastT := t, rd.lastNow := s.now, pw.f := thermalFactor s.pw.tAvg }

/-- The clauses of a boundary: those whose time has come, then those that wait for a boundary (R19, R186, R187). -/
def clauseSteps (t : W48) (s : State) : State × List Due := untimedStep t (timedStep t (s, []))

/-- What follows the clauses: a flip they armed, the map, the ports' changes (R20 to R22, R25). -/
def settle (t : W48) (s : State) : State :=
  let s := eachPort reconfigure (commitMap t (flipStep t s))
  { s with fw.sawPort := s.fw.sawPort || portSeen s }

/-- Everything that takes effect at a boundary of render time `t` before its frames (R19 to R22, R25). -/
def boundaryEffects (t : W48) (s : State) : State :=
  let r := clauseSteps t (flipStep t (bootSceneNow t (openBoundary t s)))
  answerAll r.2 (settle t r.1)

/-- The frames of a boundary by `send`, or the entry to REST where R75 holds. -/
def framesOrRest (send : W48 → State → State) (t : W48) (s : State) : State :=
  if restReady s then enterRest s else loadStep (send t s)

/-- The SYNC pulse at a boundary: high for 2.0 µs from it (R311). -/
def pulse (s : State) : State := if s.cfg.sync = 1 then { s with pw.syncPulse := some s.now } else s

/-- A boundary now, of render time `t`: its effects and the SYNC pulse, then its frames by `send`, or the entry to REST
where R75 holds, and the keystone correction that follows the render time (R194, R311). -/
def boundaryWith (send : W48 → State → State) (t : W48) (s : State) : State :=
  correctStep (framesOrRest send t (pulse (boundaryEffects t s)))

/-- A boundary of the frame clock. -/
def boundary (s : State) : State := boundaryWith sendFrames (renderNow s) s

end Sys2Proof.Machine
end

