-- ==== Sys2Proof/Machine/EvSpan.lean ====
section
/-!
DEFINITION. Spanline events (05, 06): frame closure, wake-band traffic, transmission and arbitration, roll-call slots and
the late window, claim holdoffs.
-/
namespace Sys2Proof.Machine

/-! ## Reception (R127, R135, R151) -/

/-- The address match of Table 5-6. -/
def matchOf (dsth dstl : Byte) (s : State) : Option MatchKind :=
  if dsth = 0 ∧ dstl = 0 then some .broadcast
  else if dsth = 0x10 then (if s.cfg.groups.getLsbD dstl.toNat then some .group else none)
  else if unaddressed s then (if dsth = 0xFF ∧ dstl = 0xFF then some .unaddressed else none)
  else if dsth.toNat * 256 + dstl.toNat = s.cfg.addr.toNat then some .individual else none

/-- A 16-bit field of a frame, high byte first. -/
def be16 (l : List Byte) (o : Nat) : W16 := BitVec.ofNat 16 ((l.getD o 0).toNat * 256 + (l.getD (o + 1) 0).toNat)

/-- A complete frame with a right CRC, its characters from DSTH on. -/
def frameGood (f : RxFrame) : Bool :=
  !f.broken && decide (7 ≤ f.chars.length) && decide ((f.chars.getD 6 0).toNat ≤ 240)
    && decide (f.chars.length = 9 + (f.chars.getD 6 0).toNat) && crc16 f.chars == 0

/-- A valid reply during the slot window becomes the anchor (R168); only slots before the node's own matter (R169). -/
def anchorStep (f : RxFrame) (s : State) : State :=
  match s.span.roll with
  | none => s
  | some r =>
    let src := (be16 f.chars 2).toNat
    if frameGood f = true ∧ s.now < rollTl r ∧ be16 f.chars 0 = r.src ∧ (f.chars.getD 6 0).toNat = rollBodyLen r.kind
        ∧ r.base ≤ src ∧ src < r.base + r.count ∧ (src - r.base < r.slot.getD r.count) then
      { s with span.roll := some { r with anchor := s.now + halfBit f.rate, anchorSlot := some (src - r.base) } }
    else s

/-- The arguments of a body that holds an untimed clause with ROLLCALL as its only verb (R164). -/
def rollArgs (body : List Byte) : Option (List Byte) :=
  match body with
  | [] => none
  | b :: t =>
    match layout (b :: t) with
    | .inr l =>
      if l.timed then none
      else match l.verbs with
        | [(0x09, a)] => if a.length = 4 then some a else none
        | _ => none
    | .inl _ => none

/-- A roll-call query under R164 begins the slot window: transmissions hold from T0 (R166, R167). A query that comes while
the slot window of another is open, or while another waits to be processed, takes its place: DESIGN CHOICE [65]. Late replies
stay. -/
def beginRoll (x : RingSlot) (s : State) : State :=
  if x.dst ≠ 0 ∨ x.body.length < 7 then s
  else match rollArgs x.body with
    | none => s
    | some a =>
      let base := fieldLe a 0 2
      let count := fieldLe a 2 1 + 1
      let kind := fieldLe a 3 1
      if chkRollcall (BitVec.ofNat 16 base) (a.getD 2 0) (a.getD 3 0) ≠ stOk then s
      else
        let r : RollCall :=
          { src := x.src, seq := x.seq, base := base, count := count, kind := kind, rate := x.rate, t0 := x.closed,
            anchor := x.closed, anchorSlot := none, readyAt := none,
            slot := if inRollRange base count s then some (s.cfg.addr.toNat - base) else none,
            frame := none, phase := .window }
        { s with span.roll := some r }

/-- A matched frame with a right CRC is delivered to the inbound ring; a full ring discards it (R12, R27, R133, R173). The ring
is looked at when the frame closes, and SRC is not: DESIGN CHOICE [66]. -/
def deliver (f : RxFrame) (kind : MatchKind) (s : State) : State :=
  if s.span.ring.length ≥ Config.ringSlots then { s with span.overrun := bump s.span.overrun }
  else
    let c := f.chars
    let x : RingSlot :=
      { dst := be16 c 0, src := be16 c 2, seq := be16 c 4, body := (c.drop 7).take (c.getD 6 0).toNat,
        stamp := wtAgo f.ago s, rate := f.rate, kind := kind, closed := s.now + halfBit f.rate }
    beginRoll x { s with
      span.ring := s.span.ring ++ [x]
      span.lastRate := f.rate
      span.held := if (c.getD 6 0).toNat ≥ 7 then some f.rate else s.span.held }

/-- The frame of an arbitrated rate, past its address match (R127, R146, R151, Table 6-5): delivered, or discarded and
counted. A frame that fails its check counts for that, whether or not the ring is full: DESIGN CHOICE [66]. -/
def closeMatched (f : RxFrame) (kind : MatchKind) (s : State) : State :=
  let n := f.chars.length
  let len := (f.chars.getD 6 0).toNat
  if f.broken || (decide (7 ≤ n) && decide (len > 240)) then { s with span.crc := bump s.span.crc }
  else if n < 7 then s
  else if n < 9 + len then { s with span.partials := bump s.span.partials }
  else if crc16 (f.chars.take (9 + len)) ≠ 0 then { s with span.crc := bump s.span.crc }
  else deliver { f with chars := f.chars.take (9 + len) } kind s

/-- Traffic has been seen on the bus, the last of it a stop-bit sample `ago` before now: the IFS counts from half a bit after
it, and the holdoff of the wake band starts again (R141, R152). -/
def busSeen (rate ago : Nat) (s : State) : State :=
  { s with
    span.idle := false
    span.busRate := some rate
    span.quietFrom := s.now - ago + halfBit rate
    span.wakeHold := s.span.wakeHold.map fun _ => s.now - ago }

/-- Traffic of the wake band: it enters no ring and counts nothing; the bus is taken as busy, and where its address matches,
REST_HOLD restarts (R141). -/
def wakeSeen (dsth dstl : Byte) (s : State) : State :=
  let s := if (matchOf dsth dstl s).isSome then restartHold s else s
  { s with span.wakeHold := some s.now, span.idle := false }

/-- The receiver is on: RUN, and FOSC had locked by the SYNC start edge, `ago` before now (R68, R77). -/
def receives (ago : Nat) (s : State) : Bool := inRun s && s.pw.fosc && decide (s.pw.lockAt + ago ≤ s.now)

/-- A frame closes, its last stop-bit sample `ago` before now: by the class of its SYNC (R130) it is received, or treated as
wake-band traffic, or ignored. -/
def closeFrame (ago : Nat) (f : RxFrame) (s : State) : State :=
  let h := f.chars.getD 0 0
  let l := f.chars.getD 1 0
  if !receives f.ago s then s
  else match syncClass f.sync with
    | .noFrame => s
    | .wakeBand => if f.chars.length < 2 then s else wakeSeen h l s
    | .arbitrated =>
      let s := anchorStep f (busSeen f.rate ago s)
      if f.chars.length < 2 then s
      else match matchOf h l s with
        | none => s
        | some kind => closeMatched f kind s

/-- SPANLINE_FRAME_CLOSE (R151). -/
def execSpanlineFrameClose (dt : Nat) (f : RxFrame) (s : State) : Host.Outcome State Fault Refusal :=
  go (closeFrame 0 f (elapse dt s))

/-- RECEIVE_TIMEOUT (R151): no start bit within 2 c closes the frame. -/
def execReceiveTimeout (dt : Nat) (f : RxFrame) (s : State) : Host.Outcome State Fault Refusal :=
  go (closeFrame (bitsPs f.rate (charBits 2)) { f with broken := false } (elapse dt s))

/-! ## Wake band in RUN (R141) -/

/-- WAKE_BAND_TRAFFIC (R130, R141): a SYNC of 18 800 to 19 600 bit/s, with its DSTH and DSTL. -/
def execWakeBandTraffic (dt : Nat) (rate : Nat) (dsth dstl : Byte) (s : State) : Host.Outcome State Fault Refusal :=
  let s := elapse dt s
  go (if inRun s && syncClass rate == .wakeBand then wakeSeen dsth dstl s else s)

/-! ## Transmission (R152 to R157) -/

/-- Another transmitter's falling edge lies more than a quarter bit before the node's start instant (R153). -/
def defers (lead : Option Nat) (s : State) : Bool :=
  match lead, nextStart s with
  | some d, some (_, f) => decide (4 * d > bitsPs (txRate f s) 1)
  | _, _ => false

/-- The next frame starts on an idle bus, or defers to one already under way (R153). -/
def startOrDefer (lead : Option Nat) (s : State) : State :=
  if !mayTransmit s then s else if defers lead s then { s with span.idle := false } else startNext s

/-- The IFS of 3 c has passed, in bit times of the last frame seen (R152). -/
def ifsOver (s : State) : Bool :=
  decide (s.span.quietFrom + bitsPs (s.span.busRate.getD (heldRate s)) (charBits 3) ≤ s.now)

/-- BUS_IDLE (R152, R153): the next frame starts, or defers to one already under way. -/
def execBusIdle (dt : Nat) (lead : Option Nat) (s : State) : Host.Outcome State Fault Refusal :=
  let s := elapse dt s
  go (if mayTransmit s && ifsOver s then startOrDefer lead { s with span.idle := true } else s)

/-- WAKE_HOLDOFF_EXPIRY (R141, R153): the bus counts as idle, with no further IFS. -/
def execWakeHoldoffExpiry (dt : Nat) (lead : Option Nat) (s : State) : Host.Outcome State Fault Refusal :=
  let s := elapse dt s
  go (match s.span.wakeHold with
    | some t =>
      if t + 1750 * Config.usPs ≤ s.now then startOrDefer lead { s with span.wakeHold := none, span.idle := inRun s } else s
    | none => s)

/-- A queued frame has left the queue, sent or dropped: whatever waited for it goes on, and its place frees (R174). -/
def frameGone (f : OutFrame) (s : State) : State :=
  settleQueues (replyGone f.clause { s with span.outQ := s.span.outQ.drop 1 })

/-- EVT.FAIL was dropped: its pages are kept and a new one follows after I (R355). -/
def failDropped (s : State) : State :=
  { s with fail.mask := s.fail.mask ||| s.fail.late, fail.late := 0, fail.lastEnd := some s.now,
           fail.due := some (s.fail.due.getD s.now) }

/-- A frame is dropped after its 16th attempt (R156). -/
def dropHead (f : OutFrame) (s : State) : State :=
  let s := { s with span.txDropped := bump s.span.txDropped, span.lastDrop := f.op }
  frameGone f (if f.op = 0xF0 then failDropped s else s)

/-- The roll-call is over for this node. -/
def endRoll (s : State) : State := { s with span.roll := none }

/-- The late reply in contention, at the head of its list, is gone. -/
def endLate (s : State) : State := { s with span.lates := s.span.lates.drop 1 }

/-- A late reply counts as dropped (R156, R172). -/
def countDrop (op : Byte) (s : State) : State := { s with span.txDropped := bump s.span.txDropped, span.lastDrop := op }

/-- A queued frame's attempt has failed: after the 16th it is dropped, and the address may have gone since it began (R147,
R156). -/
def queueFailed (s : State) : State :=
  match s.span.outQ with
  | f :: _ =>
    if f.attempts ≥ Config.maxAttempts then dropHead f s
    else
      let s := if f.op = 0xF0 then { s with fail.lastEnd := some s.now } else s
      if sendable s f then s else frameGone f s
  | [] => s

/-- A late reply's attempt has failed: it is dropped after its 16th attempt, and not retried once cancelled (R156, R163). -/
def lateFailed (s : State) : State :=
  match s.span.lates with
  | l :: _ =>
    if l.cancelled || decide (l.frame.attempts ≥ Config.maxAttempts) then countDrop l.frame.op (endLate s)
    else if sendable s l.frame then s else endLate s
  | [] => s

/-- An attempt has failed: a frame after its 16th attempt is dropped, a slot is abandoned (R154, R156, R171). The reply that
follows in the late window is the same frame with its SEQ: DESIGN CHOICE [82]. -/
def attemptFailed (s : State) : State :=
  let k := s.span.tx
  let s := { s with span.tx := none, span.idle := false, span.quietFrom := s.now }
  match k with
  | some .queue => queueFailed s
  | some .slot => { s with span.roll := s.span.roll.map fun r => { r with phase := .yielded } }
  | some .late => lateFailed s
  | none => s

/-- A retry is counted (R154). -/
def countRetry (s : State) : State := { s with span.retries := bump s.span.retries }

/-- Bits of a frame through SRCL: a loss at a later bit met a frame with the same DST and SRC (R158). -/
def bitsThroughSrc : Nat := charBits 5

/-- A loss at bit `bit`: a retry, and a contested address where DST and SRC had been read back; before that a loss in the slot
counts nothing (R154, R158, R171). -/
def countLoss (bit : Nat) (s : State) : State :=
  if bit ≥ bitsThroughSrc then countRetry { s with span.contests := bump s.span.contests, node.contest := true }
  else if s.span.tx = some .slot then s
  else countRetry s

/-- ARBITRATION_LOSS (R154, R158, R171, R371). -/
def execArbitrationLoss (dt : Nat) (bit : Nat) (s : State) : Host.Outcome State Fault Refusal :=
  let s := elapse dt s
  go (if s.span.tx.isNone then s else attemptFailed (countLoss bit s))

/-- TRANSMIT_FAULT (R154): wherever it falls, the attempt ends. -/
def execTransmitFault (dt : Nat) (_bit : Nat) (s : State) : Host.Outcome State Fault Refusal :=
  let s := elapse dt s
  go (if s.span.tx.isNone then s else attemptFailed (countRetry s))

/-- A queued frame is out in full. -/
def queueSent (s : State) : State :=
  match s.span.outQ with
  | f :: _ => frameGone f (if f.op = 0xF0 then failSent s else s)
  | [] => s

/-- A late reply is out in full; one whose cancellation came too late counts (R163). -/
def lateSent (s : State) : State :=
  match s.span.lates with
  | l :: _ => endLate (if l.cancelled then { s with span.sentAfterCancel := bump s.span.sentAfterCancel } else s)
  | [] => s

/-- FRAME_SENT (R156): the IFS counts from the end of the CRCL stop bit (R152). -/
def execFrameSent (dt : Nat) (s : State) : Host.Outcome State Fault Refusal :=
  let s := elapse dt s
  let k := s.span.tx
  let r := { s with span.tx := none, span.idle := false, span.quietFrom := s.now
                    span.busRate := (txFrame s).map fun f => txRate f s }
  go (match k with
    | some .queue => queueSent r
    | some .slot => { r with span.roll := r.span.roll.map fun c => { c with frame := none, phase := .slotSent } }
    | some .late => lateSent r
    | none => s)

/-! ## Roll-call (R168 to R172) -/

/-- The node gives up its slot (R141, R170, R203), or its start time is past by more than a quarter bit [29]. -/
def slotLost (r : RollCall) (k : Nat) (recessive edge : Bool) (s : State) : Bool :=
  let st := slotStart r k
  let c := bitsPs r.rate (charBits 1)
  decide (st.2 > 20000) || !recessive || edge || npBlocked s || !mayTransmit s || r.frame.isNone
    || decide (st.1 + halfBit r.rate / 2 < s.now)
    || match r.readyAt with
      | some t => decide (t + c > st.1)
      | none => true

/-- The slot reply starts: an attempt at its frame (R156, R169). -/
def startSlot (r : RollCall) (s : State) : State :=
  beginTx .slot { s with span.roll := some { r with phase := .slotSent, frame := r.frame.map fun f => tried (ownSrc s f) } }

/-- SLOT_REPLY_START (R169, R170): the slot reply starts, or the slot is yielded. While a reply that began before it is still
in progress the node waits, and computes its start again from that reply's end. -/
def execSlotReplyStart (dt : Nat) (busy recessive edge : Bool) (s : State) : Host.Outcome State Fault Refusal :=
  let s := elapse dt s
  go (match s.span.roll with
    | some r =>
      match r.slot with
      | some k =>
        if r.phase = .window ∧ (slotStart r k).1 ≤ s.now ∧ inRun s = true ∧ busy = false then
          if slotLost r k recessive edge s then { s with span.roll := some { r with phase := .yielded } }
          else startSlot r s
        else s
      | none => s
    | none => s)

/-- The last instant at which a late reply may start (R172). -/
def lateLimit (r : RollCall) : Nat := rollTl r + 100 * Config.usPs * (r.count + 1000)

/-- A reply goes to the late window: its holdoff is drawn, from TL or from the end of an NV block that is later (R172,
R203). -/
def openLate (r : RollCall) (f : OutFrame) (s : State) : State :=
  let (d, s) := drawN (10 * r.count) s
  let from_ := max (rollTl r) (s.nv.lastEnd.getD 0)
  endRoll { s with span.lates := s.span.lates ++ [{ frame := f, due := from_ + 10 * Config.usPs * d, offered := false,
                                                     limit := lateLimit r, begunAt := none, cancelled := false }] }

/-- LATE_WINDOW_OPEN (R167, R172, R203): the slot window ends. A node whose reply is late draws its holdoff, not before an NV
block has ended; for the others traffic resumes. -/
def execLateWindowOpen (dt : Nat) (s : State) : Host.Outcome State Fault Refusal :=
  let s := elapse dt s
  go (match s.span.roll with
    | some r =>
      if s.now < rollTl r ∨ s.span.tx.isSome = true then s
      else if r.slot.isNone = true ∨ r.phase = .slotSent then sendIdle (endRoll s)
      else match r.frame with
        | some f => if npBlocked s then s else openLate r f s
        | none => s
    | none => s)

/-- A late reply whose holdoff has ended is offered. -/
def offerLate (now : Nat) (l : LateReply) : LateReply := if l.due ≤ now then { l with offered := true } else l

/-- LATE_REPLY_HOLDOFF (R152, R172): not during an NV block (R203). -/
def execLateReplyHoldoff (dt : Nat) (s : State) : Host.Outcome State Fault Refusal :=
  let s := elapse dt s
  go (if npBlocked s then s else sendIdle { s with span.lates := s.span.lates.map (offerLate s.now) })

/-- The late reply has not started by its limit (R172). -/
def lateOver (now : Nat) (l : LateReply) : Bool :=
  decide (l.limit ≤ now) && match l.begunAt with
    | some t => decide (l.limit < t)
    | none => true

/-- The commit point of the frame in its attempt: the falling edge of its CRCH start bit (R163). -/
def commitPoint (f : OutFrame) (s : State) : Nat := s.span.txAt + bitsPs (txRate f s) (charBits (8 + f.body.length))

/-- A cancellation of the late reply in its attempt (Table 6-6): before the commit point the rest of the frame is not sent;
from the FOSC period of that point on it goes out in full. -/
def cancelSending (s : State) : State :=
  match s.span.lates with
  | l :: t =>
    if !lateOver s.now l then s
    else if s.now / Config.foscPs < commitPoint l.frame s / Config.foscPs then
      countDrop l.frame.op (endLate { s with span.tx := none, span.idle := false, span.quietFrom := s.now })
    else { s with span.lates := { l with cancelled := true } :: t }
  | [] => s

/-- The late replies after the first `n` that have not started in time are cancelled and count as dropped. -/
def cancelWaiting (n : Nat) (s : State) : State :=
  let out := lateOver s.now
  ((s.span.lates.drop n).filter out).foldl (fun s l => countDrop l.frame.op s)
    { s with span.lates := s.span.lates.take n ++ (s.span.lates.drop n).filter fun l => !out l }

/-- A roll-call whose query has not been processed by the limit of its late reply is given up. -/
def cancelRoll (s : State) : State :=
  match s.span.roll with
  | some r =>
    if lateLimit r ≤ s.now ∧ r.slot.isSome = true ∧ r.phase ≠ .slotSent then countDrop 0xFE (endRoll s) else s
  | none => s

/-- LATE_REPLY_CANCEL (R162, R163, R172): late replies not started by their limit. -/
def execLateReplyCancel (dt : Nat) (s : State) : Host.Outcome State Fault Refusal :=
  let s := elapse dt s
  go (sendIdle (if s.span.tx = some .late then cancelSending (cancelRoll (cancelWaiting 1 s))
    else cancelRoll (cancelWaiting 0 s)))

/-! ## Claims (R371, R372) -/

/-- The first claim reply whose holdoff has ended. -/
def claimDue (s : State) : Option ClaimWait :=
  s.span.claims.find? fun c => decide (c.due ≤ s.now) && !c.body.isEmpty

/-- The SRC of a claim reply: 0xFFFF from an unaddressed node on Spanline (R372). -/
def claimSrc (q : Req) (s : State) : W16 := if q.mbox = .span ∧ unaddressed s = true then 0xFFFF else replySrc q s

/-- CLAIM_HOLDOFF (R371, R372). -/
def execClaimHoldoff (dt : Nat) (s : State) : Host.Outcome State Fault Refusal :=
  let s := elapse dt s
  go (if npBlocked s || !inRun s then s
    else match claimDue s with
      | some c =>
        sendReply c.req c.body (claimSrc c.req s) c.id
          { s with span.claims := s.span.claims.filter fun x => x.id != c.id }
      | none => s)

end Sys2Proof.Machine
end

