-- ==== Sys2Proof/Machine/EvClause.lean ====
section
/-!
DEFINITION. Clause and frame-clock events (07, 11): the take-up of delivered clauses with the roll-call reply they may
call for, timed clauses falling due, boundaries, SYNC edges and the keystone window.
-/
namespace Sys2Proof.Machine

/-! ## Take-up (R173, R174, R181) -/

/-- The NP takes clauses up: in RUN, not blocked, a place free in the outbound queue, no image under verification (R23,
R174, R433). -/
def takesUp (s : State) : Bool :=
  inRun s && !npBlocked s && decide (s.span.outQ.length < Config.queuePlaces) && s.span.overflow.isEmpty
    && s.fw.verify.isNone

/-- A submission waits that may be taken up: the outbound mailbox is empty (R219). -/
def submissionWaits (s : State) : Bool := s.svc.submitted && s.svc.out.isNone && s.svc.backlog.isEmpty

/-- The oldest clause of the ring arrived before the submission (R173); at one instant the ring comes first [24]. -/
def ringFirst (s : State) : Bool :=
  match s.span.ring with
  | [] => false
  | x :: _ => decide (x.closed ≤ s.svc.submittedAt)

/-- The clause header of a ring slot; take-up fills in what BODY says (R12, R175). -/
def reqOfSlot (x : RingSlot) : Req :=
  { mbox := .span, dst := x.dst, src := x.src, seq := x.seq, kind := x.kind, noreply := false, auth := false,
    applyAt := none, stamp := x.stamp, rate := x.rate }

/-- The slot holds the query of the roll-call in progress, whose clause has not been processed. -/
def rollQuery (x : RingSlot) (s : State) : Bool :=
  match s.span.roll with
  | some r => r.src == x.src && r.seq == x.seq && r.t0 == x.closed && r.readyAt.isNone
  | none => false

/-- The roll-call reply (R172, R375): its body has no entry fields, and it goes out at the query's rate. -/
def rollFrame (r : RollCall) (s : State) : OutFrame × State :=
  let (sq, s) := takeSeq s
  ({ dst := r.src, src := s.cfg.addr, seq := sq, body := [0x80] ++ leBytes 2 r.seq.toNat ++ rollBytes r.kind s,
     rate := r.rate, op := 0xFE, attempts := 0, clause := none }, rollRead r.kind s)

/-- The query's clause was accepted: the reply is ready now, where the node has a slot and NOREPLY is not set (R147, R164,
R178). -/
def rollReady (noreply : Bool) (s : State) : State :=
  match s.span.roll with
  | none => s
  | some r =>
    if r.slot.isNone || noreply || neverDst r.src then { s with span.roll := some { r with slot := none, readyAt := some s.now } }
    else
      let b := rollFrame r s
      { b.2 with span.roll := some { r with frame := some b.1, readyAt := some s.now } }

/-- A query under R164 is taken up: its one verb takes no boundary, and a query that was not accepted ends the
roll-call. -/
def takeRoll (x : RingSlot) (s : State) : State :=
  let s' := takeUp (reqOfSlot x) x.body s
  if s'.cl.ready.length > s.cl.ready.length then
    rollReady ((x.body.getD 0 0).getLsbD 6) (restartHold { s' with cl.ready := s'.cl.ready.dropLast })
  else endRoll s'

/-- CLAUSE_TAKE_UP (R173, R181): the oldest delivered clause. -/
def execClauseTakeUp (dt : Nat) (s : State) : Host.Outcome State Fault Refusal :=
  let s := elapse dt s
  go (match s.span.ring with
    | [] => s
    | x :: t =>
      if takesUp s && (ringFirst s || !submissionWaits s) then
        let s := { s with span.ring := t }
        if rollQuery x s then takeRoll x s else takeUp (reqOfSlot x) x.body s
      else s)

/-! ## Boundaries (R15, R187, R308 to R311) -/

/-- TIMED_CLAUSE_DUE (R24, R187): at a boundary, the timed clauses that fall due there. -/
def execTimedClauseDue (dt : Nat) (s : State) : Host.Outcome State Fault Refusal :=
  let s := elapse dt s
  go (if boundaryDue s then
      let r := timedStep (renderNow s) (s, [])
      answerAll r.2 r.1
    else s)

/-- FRAME_BOUNDARY (R15, R19 to R25). -/
def execFrameBoundary (dt : Nat) (s : State) : Host.Outcome State Fault Refusal :=
  let s := elapse dt s
  go (if boundaryDue s then boundary s else s)

/-- An interval between accepted edges joins the last eight (R309). -/
def pushInterval (now : Nat) (s : State) : List Nat :=
  match s.rd.edgeAt with
  | some a => ((now - a) :: s.rd.intervals).take 8
  | none => s.rd.intervals

/-- SYNC_EDGE (R309): an edge at least 1.9 ms after the previous boundary is accepted and places the next one. -/
def execSyncEdge (dt : Nat) (s : State) : Host.Outcome State Fault Refusal :=
  let s := elapse dt s
  go (if inRun s && s.rd.syncLocked && !(s.relay.on && s.relay.input == .receiving)
        && decide (s.rd.lastNow + 1900 * Config.usPs ≤ s.now) then
      boundaryWith sendFrames s.ka.wt
        { s with rd.intervals := pushInterval s.now s, rd.edgeAt := some s.now, rd.syncHold := false }
    else s)

/-- SYNC_HOLD (R309). -/
def execSyncHold (dt : Nat) (s : State) : Host.Outcome State Fault Refusal :=
  let s := elapse dt s
  go (match s.rd.edgeAt with
    | some a =>
      if s.rd.syncLocked = true ∧ s.rd.intervals ≠ [] ∧ a + 40 * Config.msPs ≤ s.now then
        { s with rd.syncHold := true } else s
    | none => s)

/-- KEYSTONE_WINDOW_EXPIRY (R193): GOOD ends once the window has passed without an accepted keystone. -/
def execKeystoneWindowExpiry (dt : Nat) (s : State) : Host.Outcome State Fault Refusal :=
  let s := elapse dt s
  go (if keyInWindow s then s else { s with ka.good := false })

end Sys2Proof.Machine
end

