-- ==== Sys2Proof/Machine/EvSvc.lean ====
section
/-!
DEFINITION. Service-port events (08): rate and idle, the characters that select, write and read a register, error flags,
collisions, and the take-up of a submission. Each register event stands at the end of its last character [79].
-/
namespace Sys2Proof.Machine

/-! ## Reception (R209, R211) -/

/-- Baud lock is set (Table 8-5). -/
def baudLock (s : State) : Bool := s.svc.ctl.getLsbD 1

/-- The node is ready for SVC traffic: in RUN, with FOSC locked after a wake (R223). -/
def svcReady (s : State) : Bool := inRun s && foscLocked s

/-- A character is received: at a held rate, and not as the first after an idle unless baud lock keeps the rate (R209). -/
def svcHears (s : State) : Bool := svcReady s && s.svc.rate.isSome && (!s.svc.idle || baudLock s)

/-- A character has gone over the line: the idle is over (R209). -/
def svcEdge (s : State) : State := { s with svc.idle := false, svc.edgeAt := s.now }

/-! ## Writes (R215, R217, R218) -/

/-- A byte for the inbound image, or OE (R215). -/
def svcData (b : Byte) (s : State) : State :=
  if s.svc.submitted || decide (s.svc.image.length ≥ 249) then { s with svc.oe := true }
  else { s with svc.image := s.svc.image ++ [b] }

/-- The image passes the checks of R218. -/
def imageOk (l : List Byte) : Bool :=
  be16 l 0 == localSrc && decide (0x2000 ≤ (be16 l 2).toNat) && decide ((be16 l 2).toNat ≤ 0x2FFF)
    && decide ((l.getD 6 0).toNat ≤ 240) && decide (l.length = 9 + (l.getD 6 0).toNat) && crc16 l == 0

/-- 0xA5 to SVDOOR (R215, R218); the submission arrives now (R173). -/
def svcSubmit (s : State) : State :=
  if s.svc.submitted then { s with svc.oe := true }
  else if imageOk s.svc.image then { s with svc.submitted := true, svc.submittedAt := s.now }
  else { s with svc.image := [], svc.cause := s.svc.cause ||| 0x04 }

/-- 0x5A to SVDOOR (R218). -/
def svcDiscard (s : State) : State := { s with svc.image := [], svc.submitted := false }

/-- A write of SVCTL (R207, Table 8-5): b3 reads 0. -/
def svcControl (b : Byte) (s : State) : State := { s with svc.ctl := b &&& 0xF7 }

/-- A byte written to register `r` (Table 8-2); other registers ignore it (R212). -/
def svcActs (r b : Byte) (s : State) : State :=
  if r = 2 then svcData b s
  else if r = 3 then (if b = 0xA5 then svcSubmit s else if b = 0x5A then svcDiscard s else s)
  else if r = 7 then svcControl b s
  else s

/-! ## Reads (R211 to R213, R216, R220) -/

/-- Reads are answered: not during an NV block, and not during a factory reset (R222, R225). -/
def svcAnswers (s : State) : Bool := svcHears s && !npBlocked s && !s.sec.factory

/-- `n` bytes of SVSTAT: the first carries COL and clears it; a read arms the clearing of R216. -/
def readStat : Nat → State → State
  | 0, s => s
  | n + 1, s =>
    readStat n { s with svc.sent := s.svc.sent ++ [svstat s], svc.col := false, svc.armed := true }

/-- `n` bytes of SVCAUSE: each clears the bits it carried (R213). -/
def readCause : Nat → State → State
  | 0, s => s
  | n + 1, s => readCause n { s with svc.sent := s.svc.sent ++ [s.svc.cause], svc.cause := 0 }

/-- `n` bytes of a register that reading does not change (R212). -/
def readPlain (r : Nat) (n : Nat) (s : State) : State :=
  { s with svc.sent := s.svc.sent ++ List.replicate n (svRegister s r) }

/-- `n` bytes of SVDATA, each consumed (R220). -/
def readData : Nat → State → State
  | 0, s => s
  | n + 1, s =>
    match s.svc.out with
    | some im =>
      readData n { s with svc.sent := s.svc.sent ++ [im.bytes.headD 0],
                          svc.out := some { im with bytes := im.bytes.drop 1, begun := true } }
    | none => readData n { s with svc.sent := s.svc.sent ++ [0] }

/-- The outbound mailbox is empty once its last byte was read: whatever waited for it goes on (R81, R174, R220, R367). -/
def emptyOut (s : State) : State :=
  match s.svc.out with
  | some im =>
    if im.bytes.isEmpty then
      let s := { s with svc.out := none }
      settleQueues (replyGone im.clause (if im.op = 0xF0 then failSent s else s))
    else s
  | none => s

/-- FE, PE and OE clear where SVSTAT was read directly before (R216). -/
def clearErrors (n : Nat) (s : State) : State :=
  if s.svc.armed && decide (n ≥ 1) then { s with svc.fe := false, svc.pe := false, svc.oe := false } else s

/-- A read of SVDATA, with the clearing of R216. -/
def svcReadData (n : Nat) (s : State) : State := emptyOut (readData n { clearErrors n s with svc.armed := false })

/-- `n` bytes of register `r` are sent (Table 8-2). The selection ends with the read (R211). -/
def svcRead (r : Byte) (n : Nat) (s : State) : State :=
  let s := { s with svc.sel := none }
  if s.sec.factory then s
  else
    let s := { s with svc.sent := [] }
    if r = 1 then readStat n s
    else if r = 2 then svcReadData n s
    else if r = 5 then readCause n s
    else readPlain r.toNat n s

/-! ## Characters (R211, R214, R222) -/

/-- A character that is acted on: a selection, an error, or a data or count character for the register selected; without a
selection it is ignored (R211, R214). -/
def svcTake (c : SvcChar) (s : State) : State :=
  match c, s.svc.sel with
  | .addr a, _ => { s with svc.armed := s.svc.armed && a == 0x82, svc.sel := some (a.getLsbD 7, a &&& 0x7F) }
  | .bad parity, _ => { s with svc.pe := s.svc.pe || parity, svc.fe := s.svc.fe || !parity, svc.sel := none }
  | .data _, none => s
  | .data b, some (false, r) => svcActs r b s
  | .data b, some (true, r) => svcRead r b.toNat s

/-- A character held during an NV block: as any other, but the count of a read is discarded and nothing is sent (R222). -/
def svcTakeLate (s : State) (c : SvcChar) : State :=
  match c, s.svc.sel with
  | .data _, some (true, _) => { s with svc.sel := none }
  | c, _ => svcTake c s

/-- Traffic that came during the block is acted on in order (R222). -/
def svcReplay (s : State) : State := s.svc.deferred.foldl svcTakeLate { s with svc.deferred := [] }

/-- A character comes over SVC. The first after an idle counts as an SVSYNC that is not valid, unless baud lock keeps the
rate (R209). -/
def svcChar (c : SvcChar) (s : State) : State :=
  if svcHears s then
    (if npBlocked s then svcEdge { s with svc.deferred := s.svc.deferred ++ [c] } else svcTake c (svcEdge s))
  else svcEdge { s with svc.rate := if s.svc.idle && !baudLock s then none else s.svc.rate }

/-- An address character, where the event has one, and the character after it. -/
def svcAccess (a : Option Byte) (b : Byte) (s : State) : State :=
  svcChar (.data b) (match a with
    | some a => svcChar (.addr a) s
    | none => s)

/-- SVSYNC (R209): the first character after an idle sets the rate, unless baud lock keeps one. After another character it is
a data character 0x55. -/
def svcSync (valid : Bool) (rate : Nat) (s : State) : State :=
  if !svcReady s then svcEdge s
  else if !s.svc.idle then (if valid then svcChar (.data 0x55) s else svcEdge s)
  else if baudLock s && s.svc.rate.isSome then svcEdge s
  else svcEdge { s with
    svc.rate := if valid && decide (9600 ≤ rate) && decide (rate ≤ 921600) then some rate else none }

/-- SVSYNC (R209). -/
def execSvsync (dt : Nat) (valid : Bool) (rate : Nat) (s : State) : Host.Outcome State Fault Refusal :=
  go (svcSync valid rate (elapse dt s))

/-- SVC_IDLE (R209, R211): 20 ms without a falling edge. -/
def execSvcIdle (dt : Nat) (s : State) : Host.Outcome State Fault Refusal :=
  let s := elapse dt s
  go (if s.svc.edgeAt + 20 * Config.msPs ≤ s.now then
      { s with svc.idle := true, svc.sel := none, svc.rate := if baudLock s then s.svc.rate else none }
    else s)

/-- The address character of an event that may follow up its register's selection. -/
def addrIf (addressed : Bool) (a : Byte) : Option Byte := if addressed then some a else none

/-- SVDATA_WRITE (R215): a data character, after its address character 0x02 or in the selection that stands. -/
def execSvdataWrite (dt : Nat) (addressed : Bool) (b : Byte) (s : State) : Host.Outcome State Fault Refusal :=
  go (svcAccess (addrIf addressed 0x02) b (elapse dt s))

/-- SVDOOR_SUBMIT (R218). -/
def execSvdoorSubmit (dt : Nat) (addressed : Bool) (s : State) : Host.Outcome State Fault Refusal :=
  go (svcAccess (addrIf addressed 0x03) 0xA5 (elapse dt s))

/-- SVDOOR_DISCARD (R218). -/
def execSvdoorDiscard (dt : Nat) (addressed : Bool) (s : State) : Host.Outcome State Fault Refusal :=
  go (svcAccess (addrIf addressed 0x03) 0x5A (elapse dt s))

/-- SVCTL_WRITE (R207). -/
def execSvctlWrite (dt : Nat) (addressed : Bool) (b : Byte) (s : State) : Host.Outcome State Fault Refusal :=
  go (svcAccess (addrIf addressed 0x07) b (elapse dt s))

/-- REGISTER_WRITE (R211, R212): any address character, whose b7 makes it a read, and the data characters after it; the first
of a read is its count. -/
def execRegisterWrite (dt : Nat) (a : Byte) (data : List Byte) (s : State) : Host.Outcome State Fault Refusal :=
  go (data.foldl (fun s b => svcChar (.data b) s) (svcChar (.addr a) (elapse dt s)))

/-- SVSTAT_READ (R216). -/
def execSvstatRead (dt : Nat) (n : Byte) (s : State) : Host.Outcome State Fault Refusal :=
  go (svcAccess (some 0x81) n (elapse dt s))

/-- SVDATA_READ (R216, R220). -/
def execSvdataRead (dt : Nat) (n : Byte) (s : State) : Host.Outcome State Fault Refusal :=
  go (svcAccess (some 0x82) n (elapse dt s))

/-- SVCAUSE_READ (R213). -/
def execSvcauseRead (dt : Nat) (n : Byte) (s : State) : Host.Outcome State Fault Refusal :=
  go (svcAccess (some 0x85) n (elapse dt s))

/-- SVC_CHARACTER_ERROR (R207, R214): the character is discarded and the selection ends. With PAR 0 there is no parity bit
to be wrong. -/
def execSvcCharacterError (dt : Nat) (parity : Bool) (s : State) : Host.Outcome State Fault Refusal :=
  let s := elapse dt s
  go (if parity && !s.svc.ctl.getLsbD 0 then s else svcChar (.bad parity) s)

/-- COLLISION (R210): a read of register `reg` is abandoned after `sent` whole bytes, which alone were read. -/
def execCollision (dt : Nat) (reg sent : Byte) (s : State) : Host.Outcome State Fault Refusal :=
  let s := elapse dt s
  go (if svcAnswers s then { svcAccess (some (0x80 ||| reg)) sent s with svc.col := true } else s)

/-! ## Submissions (R219) -/

/-- The clause header of the submitted image (R219, R448). -/
def reqOfImage (s : State) : Req :=
  { mbox := .svc, dst := localSrc, src := be16 s.svc.image 2, seq := be16 s.svc.image 4, kind := .individual,
    noreply := false, auth := false, applyAt := none, stamp := s.ka.wt, rate := 0 }

/-- BODY of the submitted image. -/
def imageBody (s : State) : List Byte := (s.svc.image.drop 7).take (s.svc.image.getD 6 0).toNat

/-- SUBMISSION_TAKE_UP (R173, R174, R219): with the outbound mailbox empty, and no clause in the ring that arrived before,
RXRDY returns to 1 and the clause is processed. -/
def execSubmissionTakeUp (dt : Nat) (s : State) : Host.Outcome State Fault Refusal :=
  let s := elapse dt s
  go (if takesUp s && submissionWaits s && !ringFirst s then
      takeUp (reqOfImage s) (imageBody s) { s with svc.submitted := false, svc.image := [] }
    else s)

end Sys2Proof.Machine
end

