-- ==== Sys2Proof/Machine/Reports.lean ====
section
/-!
DEFINITION. Events as they reach their queue (13, R174, R352 to R356): EVT.FAIL, events whose holdoff has ended, and
what an NV block held back.
-/
namespace Sys2Proof.Machine

/-- The EVT.FAIL that is wanted may be generated: its holdoff has ended, the update that called for it is in force, the
interval I has passed, none is queued, and the NP runs (R354, R355). -/
def failDue (s : State) : Bool :=
  inRun s && !npBlocked s && s.fail.mask != 0 && !failQueued s
    && (match s.fail.due with
      | some t => decide (t ≤ s.now)
      | none => false)
    && (match s.fail.lastEnd with
      | some t => decide (t + 100 * Config.msPs * s.cfg.notify.i.toNat ≤ s.now)
      | none => true)

/-- EVT.FAIL is generated, or marked where it finds no place (R174, R354). -/
def makeFail (s : State) : State :=
  let s := { s with fail.due := none }
  if eventPlace s then enterFail s
  else markEvent { op := 0xF0, port := 0, stamp := s.fail.stamp, cause := 0, at_ := s.now } s

/-- An event's holdoff has ended: it enters its queue, or is marked where it finds no place; with no report address it is
discarded (R174, R352, R356). -/
def heldEvent (e : PEvent) (s : State) : State :=
  if s.cfg.notify.addr = 0 then s
  else if eventPlace s then enterEvent e.op e.stamp e.fields s
  else markEvent (markOf e) s

/-- The first event of a list whose holdoff has ended, and the list without it. -/
def takeDue (now : Nat) : List PEvent → Option (PEvent × List PEvent)
  | [] => none
  | e :: t =>
    if e.due ≤ now then some (e, t)
    else match takeDue now t with
      | some (x, l) => some (x, e :: l)
      | none => none

/-- Every event whose holdoff has ended, oldest first, `n` at most. -/
def enterDue : Nat → State → State
  | 0, s => s
  | n + 1, s =>
    match takeDue s.now s.ev.held with
    | some (e, l) => enterDue n (heldEvent e { s with ev.held := l })
    | none => s

/-- The NV block has ended: waiting frames take the places that freed, and the events that fell due are generated
(Table 1-5). -/
def releaseEvents (s : State) : State :=
  if inRun s then
    let s := settleQueues s
    let s := enterDue s.ev.held.length s
    if failDue s then makeFail s else s
  else s

end Sys2Proof.Machine
end

