-- ==== Sys2Proof/Machine/EvNv.lean ====
section
/-!
DEFINITION. Counter and NV-store events (12, 07): on-time and power-on time, periodic saves and bank erases, the start and
the end of a program or erase, curve rewrites and the end of a deck load.
-/
namespace Sys2Proof.Machine

/-! ## Counters (R338, R340, R112) -/

/-- The present v8 of a cell lights it: some channel, expanded under R240, exceeds 655. -/
def lit (w : Nat) (vals : List Nat) : Bool := vals.any fun v => decide (widen w v > 655)

/-- 1 s of on-time for cell `g`: each carry out of the 2-bit residue adds one unit (R338). -/
def addOn (g : Nat) (s : State) : State :=
  let r := tget zeroNat s.cnt.resid g + 1
  if r < 4 then { s with cnt.resid := tset zeroNat s.cnt.resid g r }
  else { s with
    cnt.resid := tset zeroNat s.cnt.resid g 0
    cnt.onTime := tset zeroNat s.cnt.onTime g (bump (tget zeroNat s.cnt.onTime g)) }

/-- 1 s of on-time for the lit cells of port `p`: running, below N, not UNREACH. -/
def onTimePort (p : Port) (s : State) : State :=
  let x := s.ports.get p
  if x.state.running then
    (List.range x.cfg.n).foldl (fun s i =>
      let g := cellIndex p i
      if lit (fmtWidth x.renderedFmt.toNat) (x.rendered.getD i []) && !unreach (mapByte s g) then addOn g s else s) s
  else s

/-- ON_TIME_TICK (R338): at a multiple of 4096 ticks in RUN. -/
def execOnTimeTick (dt : Nat) (s : State) : Host.Outcome State Fault Refusal :=
  let s := elapse dt s
  go (if inRun s && decide (wtN s % 4096 = 0) then eachPort onTimePort s else s)

/-- The power states in which SRAM is kept and VIN is present. -/
def counts (s : State) : Bool :=
  (s.pw.mode == .run || s.pw.mode == .rest || s.pw.mode == .shelf) && decide (s.pw.vin > 0)

/-- POWER_ON_TIME_TICK (R338): one more unit of 4 s with VIN present. -/
def execPowerOnTimeTick (dt : Nat) (s : State) : Host.Outcome State Fault Refusal :=
  let s := elapse dt s
  go (if counts s then { s with cnt.pon := bump s.cnt.pon } else s)

/-- The periodic period has elapsed in power-on time since the last KIND 0 or 2 record (R340); 900 units an hour. -/
def saveDue (s : State) : Bool :=
  s.cfg.period != 0 && decide (s.cnt.ponSaved + s.cfg.period.toNat * 900 ≤ s.cnt.pon)
    && s.nv.jobs.all fun j => j.kind != .periodicSave

/-- A periodic-type save of the counters (R339, R340). -/
def periodicJob (s : State) : Job :=
  { kind := .periodicSave, user := false, op := 0, ops := saveOps (altBank s), tok := none, failed := false }

/-- PERIODIC_SAVE (R340). -/
def execPeriodicSave (dt : Nat) (s : State) : Host.Outcome State Fault Refusal :=
  let s := elapse dt s
  go (if inRun s && saveDue s then
      let s := readyBank s
      addJob (periodicJob s) s
    else s)

/-- COUNTER_BANK_ERASE (R112): the alternate bank is erased, where it is not blank already. -/
def execCounterBankErase (dt : Nat) (s : State) : Host.Outcome State Fault Refusal :=
  let s := elapse dt s
  go (if inRun s && !saveBegun s && s.nv.bankDue.isSome then readyBank { s with nv.bankDue := none } else s)

/-! ## User curves (R333) -/

/-- The curve ids of a sector. -/
def curveIds (sec : Nat) : List Nat :=
  if sec = 0xB0 then [44, 45, 46, 47] else (List.range 7).map fun i => 16 + 7 * (sec - 0x0C) + i

/-- The record of a curve: id, 0x00, 257 points. -/
def curveRecord (s : State) (id : Nat) : List Byte :=
  [BitVec.ofNat 8 id, 0] ++ (userTable s id).flatMap fun v => leBytes 2 v.toNat

/-- A curve sector as SRAM holds it. -/
def curveImage (s : State) (sec : Nat) : List Byte :=
  let ids := (curveIds sec).filter fun i => !(userTable s i).isEmpty
  sectorBytes 2 0 ids.length 0 (ids.flatMap (curveRecord s))

/-- CURVE_SECTOR_REWRITE (R333): a rewrite of the first replaced sector joins the housekeeping jobs. -/
def execCurveSectorRewrite (dt : Nat) (s : State) : Host.Outcome State Fault Refusal :=
  let s := elapse dt s
  go (match s.nv.curveDirty with
    | [] => s
    | e :: t =>
      if inRun s then
        addJob { kind := .curves, user := false, op := 0, ops := sectorOps curvePages e.1 (curveImage s e.1), tok := none,
                 failed := false } { s with nv.curveDirty := t }
      else s)

/-! ## The start of an operation (R318, R319, R328) -/

/-- A counter save whose first page is still to come. -/
def Job.saveAhead (j : Job) : Bool :=
  match j.ops with
  | .counterPage _ 0 :: _ => true
  | _ => false

/-- What a job not yet begun takes when it begins: the copy it goes into (R324), the bank (R112), and for a curve sector
its content (R333). -/
def prepareJob (s : State) (j : Job) : Job :=
  match j.kind, j.ops with
  | .config, .intent _ :: _ => { j with ops := configOps (configTarget s) }
  | .deckSave _ _ _ _, .intent 2 :: _ => { j with ops := configOps (configTarget s) }
  | .deckSave _ _ _ _, .intent 3 :: _ => { j with ops := configOps (configTarget s) }
  | .security _, .intent _ :: _ => { j with ops := secOps (secTarget s) }
  | .curves, .intent sec :: _ => { j with ops := sectorOps curvePages sec (curveImage s sec) }
  | .periodicSave, .counterPage _ 0 :: _ => { j with ops := saveOps (altBank s) }
  | .counterSave, .counterPage _ 0 :: _ => { j with ops := saveOps (altBank s) }
  | _, _ => j

/-- A curve sector's replacements are covered by the rewrite that starts (R333). -/
def coverCurves (j : Job) (s : State) : State :=
  match j.kind, j.ops with
  | .curves, .intent sec :: _ => { s with nv.curveDirty := s.nv.curveDirty.filter fun e => e.1 != sec }
  | _, _ => s

/-- The next operation of a job may start: no ERASE-INTENT that would leave fewer than 3 free slots (R328), and no page
of a save into a bank that is not erased (R112). -/
def startable (s : State) (j : Job) : Bool :=
  match j.ops with
  | [] => false
  | .intent sec :: _ => decide (4 ≤ jFree s.nv.mem (jFor s.nv.mem sec))
  | .counterPage _ 0 :: _ => bankReady s (altBank s)
  | _ :: _ => true

/-- The job whose operation runs next: housekeeping before the user job (R319). -/
def nextJob (s : State) : Option Job :=
  match s.nv.jobs.find? fun j => !j.user && startable s j with
  | some j => some j
  | none => s.nv.jobs.find? fun j => j.user && startable s j

/-- The first job equal to `j` replaced. -/
def replaceJob (j k : Job) : List Job → List Job
  | [] => []
  | x :: t => if x = j then k :: t else x :: replaceJob j k t

/-- An operation may start: in RUN, none running, 1 ms since the last (R318), and no reset that would cut the job
(R367). -/
def opMayStart (s : State) : Bool :=
  inRun s && !npBlocked s && match s.nv.lastEnd with
    | some t => decide (t + Config.msPs ≤ s.now)
    | none => true

/-- A save ahead has its bank made ready (R112). -/
def readySaves (s : State) : State := if s.nv.jobs.any Job.saveAhead then readyBank s else s

/-- The next operation starts and blocks the NP (R23, R318). -/
def startOp (s : State) : State :=
  let s := journalCheck (readySaves s)
  match nextJob s with
  | none => s
  | some j =>
    let k := prepareJob s j
    match k.ops with
    | [] => s
    | o :: _ =>
      { coverCurves j s with nv.jobs := replaceJob j k s.nv.jobs, nv.running := some (o, k.user), nv.blockFrom := s.ka.wt }

/-- NV_OPERATION_START (R318, R319). -/
def execNvOperationStart (dt : Nat) (s : State) : Host.Outcome State Fault Refusal :=
  let s := elapse dt s
  go (if opMayStart s then startOp s else s)

/-! ## The end of an operation (R23, R318, R319) -/

/-- The job of the operation in progress. -/
def runningJob (o : NvOp) (user : Bool) (s : State) : Option Job :=
  s.nv.jobs.find? fun j => j.user == user && j.ops.head? == some o

/-- The operation passed verification: no failure, and a page reads back as asked (R316, R432). -/
def opVerified (o : NvOp) (ok : Bool) (s : State) : Bool :=
  ok && match o with
    | .page a d => readBack a d s
    | _ => true

/-- The operations left after `o`: a failed job keeps only the ERASE-DONE of its erase. -/
def opsAfter (o : NvOp) (ok : Bool) (ops : List NvOp) : List NvOp :=
  if ok then ops.drop 1
  else match o with
    | .erase _ => (ops.drop 1).take 1
    | _ => []

/-- The operation in progress has ended: its effect on the store, and its job moves on (R331 for a deck save). -/
def endOp (o : NvOp) (user ok : Bool) (s : State) : State :=
  match runningJob o user s with
  | none => { s with nv.running := none, nv.lastEnd := some s.now }
  | some j =>
    let s := opEffect j o ok s
    let good := opVerified o ok s
    let j' := { j with ops := opsAfter o good j.ops, failed := j.failed || !good }
    let r := if good then deckSaveStep o j' s else (j', s)
    let s := r.2
    { s with nv.jobs := replaceJob j r.1 s.nv.jobs, nv.running := none, nv.lastEnd := some s.now }

/-- Timed clauses whose apply-at WT fell within the block that ends now took effect late (R24). -/
def holdTimed (s : State) : State :=
  let fell := fun (a : W48) => decide (s.nv.blockFrom.toNat < a.toNat) && decide (a.toNat ≤ wtN s)
  { s with cl.timed := s.cl.timed.map fun w => { w with held := w.held || w.req.applyAt.any fell } }

/-- The block has ended: what waited for its end goes on (R23, R24, R204, R222). -/
def afterBlock (s : State) : State := svcReplay (redoFail (releaseBlocked (releaseEvents (releaseHeld (holdTimed s)))))

/-- NV_OPERATION_COMPLETE (R23, R204, R222): the block ends; results and events held during it, and SVC traffic, are
acted on. -/
def execNvOperationComplete (dt : Nat) (ok : Bool) (s : State) : Host.Outcome State Fault Refusal :=
  let s := elapse dt s
  go (match s.nv.running with
    | none => s
    | some (o, user) => afterBlock (journalCheck (endEmpty (endOp o user ok s))))

/-! ## Deck load (R199, R332, R400) -/

/-- The sectors of a load that are left, with no port running (R199). -/
def loadRest : Nat → State → State
  | 0, s => s
  | n + 1, s => loadRest n (loadSector s)

/-- A load that has ended: DECK.LOAD has its result; a failure disarms the commit that waited for it (R332, R398, R400). -/
def endLoad (l : Load) (s : State) : State :=
  let s := { s with st.loads := s.st.loads.filter fun x => x.tok != l.tok }
  if l.failed then resolve l.tok stNvFailed [BitVec.ofNat 8 l.done] (disarm s)
  else resolve l.tok stOk [BitVec.ofNat 8 l.done] s

/-- Every load that has ended has its result. -/
def endLoads (s : State) : State := (s.st.loads.filter fun l => !l.runs).foldl (fun s l => endLoad l s) s

/-- DECK_LOAD_COMPLETE (R400). -/
def execDeckLoadComplete (dt : Nat) (s : State) : Host.Outcome State Fault Refusal :=
  let s := elapse dt s
  go (if npBlocked s || !inRun s then s
    else endLoads (if anyRunning s then s else loadRest (24 * s.st.loads.length) s))

end Sys2Proof.Machine
end

