-- ==== Sys2Proof/Machine/Boot.lean ====
section
/-!
DEFINITION. Reset and boot (03, 04, 12, 17): what a reset of the core domain loses, the steps of Table 3-7 with journal
repair, image selection and loading, and the return to RUN. A boot is one indivisible step of the command that resets.
-/
namespace Sys2Proof.Machine

/-! ## The keep-alive domain (R96 to R98, R109) -/

/-- The first available source of VKA, if any (Table 4-1): VIN, the reserve, the boost output of a harvester that runs with no
reserve present. -/
def vkaSource (vin vres : Nat) (s : State) : Option Nat :=
  if 1900 ≤ vin then some 1
  else if reserveUp s = true ∧ 2750 ≤ vres then some 2
  else if s.ka.hst = .boost ∧ s.ka.present = false then some 3
  else none

/-- VKA takes the first available source; the LDO sources hold it at 1.80 V (R96, Table 3-1). With none available the last one
stands and VKA decays: DESIGN CHOICE [44]. -/
def reSource (s : State) : State :=
  match vkaSource s.pw.vin s.pw.vres s with
  | some 3 => { s with ka.source := 3 }
  | some n => { s with ka.source := n, pw.vka := 1800 }
  | none => s

/-- VIN reads `v`: a rise past VIN good closes the discharge path after an overcurrent (Table 4-5). -/
def setVin (v : Nat) (s : State) : State :=
  { s with pw.vin := v
           ka.oc := s.ka.oc && !(decide (s.pw.vin < Config.vinGood) && decide (Config.vinGood ≤ v)) }

/-- The reserve counts as present (R98). -/
def presentBy (r : ReserveCfg) (vres : Nat) : Bool :=
  if r.present = 1 then true else if r.present = 2 then false else decide (1000 ≤ vres)

/-- WT restarts at 0 with quality LOST, and the SAVE-OPEN mark is lost with it (R97, R108, R112). -/
def loseWt (s : State) : State :=
  { s with ka.wt := 0, ka.sub := 0, ka.slew := 0, ka.slewPhase := 0, ka.corr := none, ka.lost := true, ka.good := false,
           ka.ksAt := none, ka.rc := false, ka.poorHeld := false, ka.rcTold := true, ka.saveOpen := false,
           ka.lostTold := false, ka.jumps := [] }

/-- The LFXO starts afresh: its start time is a free value, which may exceed the 2 s after which it counts as failed
(Table 3-3, R69). -/
def startLfxo (s : State) : State :=
  spend { s with ka.startIn := Config.msPs * Config.draw s.draws, ka.notStarted := false, ka.poweredAt := s.now }

/-- The keep-alive power-on reset, VKA rising through 1.60 V (R97, R98). A cold start goes on until 1.90 V (R100). -/
def kaReset (vres : Nat) (s : State) : State :=
  let r : ReserveCfg := {}
  let h : HarvestCfg := {}
  { startLfxo (loseWt s) with
    ka.reserve := r
    ka.harvest := h
    ka.present := presentBy r vres
    ka.chg := .off
    ka.belowSince := none
    ka.hst := if s.ka.hst = .coldStart then .coldStart else if s.node.member.harvester then .boost else .stopped }

/-! ## What a reset loses (R33, R183, R184, R201, R435) -/

/-- A program or erase cut off by a reset or by SAVE leaves what it touched a free value; a VALID that was complete counts
(R323). -/
def cutOp (s : State) : State :=
  match s.nv.running with
  | none => s
  | some (o, user) =>
    match runningJob o user s with
    | none => s
    | some j =>
      let s := opEffect j o false s
      match o with
      | .cfgValid c => if nvBytesAt s (cfgBase c + 28) 4 = validBytes then commitCopy c s else s
      | _ => s

/-- The core domain after a reset: the keep-alive domain, the store, the identity, the latched straps and the outside stay
(R33, R38). -/
def coreReset (m : PMode) (s : State) : State :=
  { now := s.now
    ka := { s.ka with ksAt := none, good := false, lastE := 0, corr := none }
    pw := { mode := m, vin := s.pw.vin, vio := s.pw.vio, vres := s.pw.vres, vka := s.pw.vka, tAvg := s.pw.tAvg,
            tNow := s.pw.tNow, cause := s.pw.cause, gp2 := s.pw.gp2, gp3 := s.pw.gp3, vioDown := s.pw.vioDown,
            rails := false, fosc := false, wrc := false }
    node := { uid := s.node.uid, member := s.node.member }
    svc := { idle := decide (s.svc.edgeAt + 20 * Config.msPs ≤ s.now), edgeAt := s.svc.edgeAt }
    nv := { mem := s.nv.mem, jobs := [], copyA := s.nv.copyA, copyB := s.nv.copyB }
    draws := s.draws
    pending := s.pending }

/-! ## Journal repair, step 5 (R329) -/

/-- A sector is erased and what it held is gone. -/
def repairSector (sec : Nat) (s : State) : State := dropCopy sec (nvEraseSec sec s)

/-- A torn journal erase is repaired: sector `j` (0 or 1), where the other sector holds its intent with no later done. -/
def repairJournal (j : Nat) (r : State × List Nat) : State × List Nat :=
  if (pendingOf (jRecords r.1.nv.mem (j == 0))).contains j then (repairSector j r.1, r.2 ++ [j]) else r

/-- Step 5: the repaired sectors, journal sectors first (R329). -/
def bootRepair (s : State) : State × List Nat :=
  let s := { s with nv.jseq := max (maxSeq (jRecords s.nv.mem false)) (maxSeq (jRecords s.nv.mem true)) }
  let r := repairJournal 1 (repairJournal 0 (s, []))
  let l := (pendingOf (jRecords r.1.nv.mem (liveJ r.1.nv.mem))).filter fun sec => decide (2 ≤ sec)
  (l.foldl (fun s sec => repairSector sec s) r.1, r.2 ++ l)

/-- The noted ERASE-DONE records, written as housekeeping after step 15 (R329). -/
def doneJob (sec : Nat) : Job :=
  { kind := .eraseDone, user := false, op := 0, ops := [.done sec], tok := none, failed := false }

/-! ## Security configuration and site key (R324, R451, R452) -/

/-- The copy in use: the valid one with the larger GEN, A on equal ones (R324). -/
def secCopy (s : State) : Option Bool :=
  let a := sectorValid s 0xFA 6
  let b := sectorValid s 0xFB 6
  if a && b then some (decide (sectorGen s 0xFA < sectorGen s 0xFB)) else if a then some false
  else if b then some true else none

/-- The site key record `r` holds, where its CRC, KGEN and KCV agree (R452). -/
def keyOf (s : State) (r kgen kcv : Nat) : Option (List Byte) :=
  let k := keySlot s r
  if r < 63 ∧ recOk k = true ∧ fieldLe k 0 4 = kgen ∧ fieldLe k 20 4 = kcv then some ((k.drop 4).take 16) else none

/-- The security configuration is loaded (Table 17-4); with no valid copy it is as shipped. -/
def loadSec (s : State) : State :=
  match secCopy s with
  | none => { s with sec := {} }
  | some c =>
    let p := nvBytesAt s (4096 * secSector c + 32) 32
    let r := fieldLe p 10 1
    { s with sec := {
        prot := BitVec.ofNat 2 (fieldLe p 0 1)
        locked := fieldLe p 1 1 != 0
        kgen := fieldLe p 2 4
        kcv := BitVec.ofNat 32 (fieldLe p 6 4)
        krec := if r = 0xFF then none else some r
        key := keyOf s r (fieldLe p 2 4) (fieldLe p 6 4)
        freset := fieldLe p 11 1 == 1
        confirmed := fieldLe p 12 1
        pending := fieldLe p 13 1
        verified := BitVec.ofNat 2 (fieldLe p 14 1)
        reject := BitVec.ofNat 2 (fieldLe p 15 1)
        acrc := BitVec.ofNat 32 (fieldLe p 16 4)
        bcrc := BitVec.ofNat 32 (fieldLe p 20 4)
        gen := sectorGen s (secSector c)
        copy := some c } }

/-! ## Completing a factory reset (R457) -/

/-- Operations that succeed one after another. -/
def allOps (j : Job) (l : List NvOp) (s : State) : State := l.foldl (fun s o => opEffect j o true s) s

/-- Where a switch is due and no COUNTERS record exists, the save of R341 brings the first one [78]. -/
def firstRecord (j : Job) (s : State) : State :=
  if jFree s.nv.mem (liveJ s.nv.mem) < 8 ∧ latestCounters s.nv.mem = none then allOps j (saveOps (altBank s)) s else s

/-- The journal switch of R327, where it is due, at once. -/
def switchNow (j : Job) (s : State) : State :=
  let m := s.nv.mem
  let l := liveJ m
  if jFree m l < 8 ∧ (latestCounters m).isSome = true ∧ pendingOf (jRecords m l) = [] then
    let o := if l then 0 else 1
    allOps j (eraseOps o ++ [NvOp.carry o]) s
  else s

/-- Operations carried out one after another before the NP serves anything. An erase whose ERASE-INTENT would leave fewer
than 3 free slots does not start (R328). -/
def bootOps (j : Job) : List NvOp → State → State
  | [], s => s
  | .intent a :: .erase b :: .done c :: t, s =>
    let s := switchNow j (firstRecord j s)
    bootOps j t (if 4 ≤ jFree s.nv.mem (jFor s.nv.mem a) then allOps j [.intent a, .erase b, .done c] s else s)
  | o :: t, s => bootOps j t (opEffect j o true s)

/-- FRESET is cleared. -/
def clearFreset (s : State) : State := { s with sec.freset := false }

/-- With FRESET 1 the noted records are written, the erasure is completed and FRESET cleared (R457). -/
def completeReset (noted : List Nat) (s : State) : State :=
  let j := secJob (.freset false) [] none s
  let s := bootOps j (noted.map NvOp.done) s
  let s := bootOps j (factoryErasures s.nv.mem) s
  clearFreset (bootOps j (secOps (secTarget s)) s)

/-! ## Image selection, step 6 (R460) -/

/-- SIZE of the image in a slot, where its header has the MAGIC (Table 17-5). -/
def headerSize (s : State) (slot : Nat) : Nat :=
  let h := nvBytesAt s (slotBase slot) 16
  if h.take 4 = [0x5A, 0x50, 0x49, 0x01] ∧ fieldLe h 12 4 ≤ 114688 then fieldLe h 12 4 else 0

/-- The image of a slot still has the CRC-32 recorded at its verification. -/
def imageGood (s : State) (slot : Nat) : Bool :=
  crc32 (slotImage s slot) == (if slot = 1 then s.sec.acrc else s.sec.bcrc).toNat

/-- What runs by CONFIRMED, and the slot rejected. -/
def runConfirmed (s : State) : Nat × List Nat :=
  let c := s.sec.confirmed
  if c = 1 ∨ c = 2 then (if imageGood s c then (c, []) else (0, [c])) else (0, [])

/-- Step 6: what runs, whether on trial, and the rejected slots; a trial programs ATTEMPT first (R460). -/
def selectImage (s : State) : State × Nat × Bool × List Nat :=
  let p := s.sec.pending
  let a := 4096 * secSector (s.sec.copy.getD false) + 4032
  if p = 1 ∨ p = 2 then
    if nvByte s a = 0xFF then
      let s := nvProgram a [0x00] s
      if imageGood s p then (s, p, true, [])
      else let r := runConfirmed s; (s, r.1, false, p :: r.2)
    else let r := runConfirmed s; (s, r.1, false, p :: r.2)
  else let r := runConfirmed s; (s, r.1, false, r.2)

/-- The image runs; rejected slots are recorded after step 15 (R460). -/
def bootImage (s : State) : State :=
  let s := { s with fw.sizeA := headerSize s 1, fw.sizeB := headerSize s 2 }
  let r := selectImage s
  let s := { r.1 with fw.run := r.2.1, fw.trial := r.2.2.1, fw.fellBack := !r.2.2.2.isEmpty }
  r.2.2.2.foldl (fun s slot => commitSec (.rejectBoot slot) s) s

/-- The image that runs is a release this manual says nothing about (R2). -/
def otherRelease (s : State) : Bool :=
  s.fw.run != 0 && nvBytesAt s (slotBase s.fw.run + 6) 2 != [Config.romMajor, Config.romMinor]

/-! ## Configuration, deck, curves, counters: steps 7 to 9 -/

/-- The configuration copy in use (R324, R330). -/
def newestCfg (s : State) : Option CfgCopy :=
  match s.nv.copyA, s.nv.copyB with
  | some a, some b => if a.gen < b.gen then some b else some a
  | some a, none => some a
  | none, b => b

/-- Output levels from GPIO.CFG's INIT (R428). -/
def gpInit (c : Settings) : BitVec 4 :=
  BitVec.ofNat 4 (flagBits (allPorts.map fun i => gpOutput (c.gpio.get i).mode && (c.gpio.get i).init == 1))

/-- Step 7: settings, and the keep-alive domain takes its own (R57, R59, R97, R98). -/
def loadConfig (b : BootIn) (s : State) : State :=
  let c : Settings := match newestCfg s with
    | some x => x.settings
    | none => {}
  let here := presentBy c.reserve b.vres
  { s with
    cfg := c
    nv.cfgGen := match newestCfg s with
      | some x => x.gen
      | none => 0
    pw.extOn := c.ext
    pw.gpOut := gpInit c
    ka.reserve := c.reserve
    ka.harvest := c.harvest
    ka.present := here
    ka.chg := if here then s.ka.chg else .off
    ka.hst := if c.harvest.enable = 0 ∨ s.node.member.harvester = false then .stopped
      else if s.ka.hst = .stopped then .boost else s.ka.hst }

/-- Every sector of the live deck area has its CRC-32 (R332). -/
def deckGood (s : State) : Bool :=
  match s.cfg.deckLive with
  | some a => areaCrcs s a == s.cfg.deckCrcs
  | none => false

/-- Step 8: the deck image, or the reset entries (R303, R332). -/
def loadDeck (s : State) : State :=
  match s.cfg.deckLive with
  | some a => if deckGood s then { s with rd.active := deckPut [] 0 (nvBytesAt s (areaBase a) 98304) } else s
  | none => s

/-- The five curve sectors. -/
def curveSectors : List Nat := [0x0C, 0x0D, 0x0E, 0x0F, 0xB0]

/-- The records of a valid curve sector enter SRAM (R333). -/
def loadCurveSector (s : State) (sec : Nat) : State :=
  if sectorValid s sec 2 then
    let p := nvBytesAt s (4096 * sec + 32) (sectorLen s sec)
    ((List.range (sectorCount s sec)).filter fun i => decide (516 * (i + 1) ≤ p.length)).foldl (fun s i =>
      let id := fieldLe p (516 * i) 1
      if (curveIds sec).contains id then
        let pts : List W16 := (List.range 257).map fun k => BitVec.ofNat 16 (fieldLe p (516 * i + 2 + 2 * k) 2)
        { s with rd.curves := tset curveBlank s.rd.curves id pts }
      else s) s
  else s

/-- CURVBAD: sectors not blank and not valid (R333, Table 16-9). -/
def curveBad (s : State) : Nat :=
  flagBits (curveSectors.map fun sec => !sectorBlank s.nv.mem sec && !sectorValid s sec 2)

/-- Page `k` of a counter bank is blank. -/
def pageBlank (m : Memory) (b : Bool) (k : Nat) : Bool :=
  m.all fun e => e.1 / 256 != 16 * bankSector b + k

/-- The bank has been erased since record `r`: the journal holds a later ERASE-DONE of one of its sectors. -/
def erasedSince (b : Bool) (r : List Byte) (m : Memory) : Bool :=
  (jRecords m (liveJ m)).any fun d =>
    recType d == 2 && decide (recSeq r < recSeq d) && (bankSector b ≤ recSector d && decide (recSector d < bankSector b + 4))

/-- Pages of the alternate bank are programmed, and not as the whole image that an earlier save left there before the last
full SAVE (KIND 0) went into the other bank: that image fills every page and has not been erased since. -/
def bankCut (s : State) : Bool :=
  let m := s.nv.mem
  let b := altBank s
  !bankErased m b && match latestCounters m with
    | some r => fieldLe r 9 1 != 0 || erasedSince b r m || (List.range 64).any (pageBlank m b)
    | none => false

/-- A save was cut short and the store shows it (R117): a journal slot neither free nor valid, or pages of the alternate
bank no longer erased. -/
def cutShort (s : State) : Bool :=
  [false, true].any (fun j => (List.range 64).any fun k =>
    let r := jSlot s.nv.mem j k
    !allFf r && !recOk r)
  || bankCut s

/-- On-time as a counter bank holds it (R339). -/
def bankOnTime (s : State) (b : Bool) : Tab Nat :=
  (List.range 4096).foldl (fun t g => tset zeroNat t g (ofLe (nvBytesAt s (4096 * bankSector b + 4 * g) 4))) []

/-- The scalar counters and the on-time of a COUNTERS record (R341, Table 12-7). -/
def takeRecord (r : List Byte) (s : State) : State :=
  let b := fieldLe r 8 1 == 1
  let kind := fieldLe r 9 1
  let since := fieldLe r 40 4
  let good : Bool := fieldLe r 12 4 == crc32 (nvBytesAt s (4096 * bankSector b) 16384)
  { s with cnt := {
      onTime := (if good then bankOnTime s b else [])
      cycles := #v[fieldLe r 24 4, fieldLe r 28 4, fieldLe r 32 4, fieldLe r 36 4]
      pon := fieldLe r 16 4
      pup := fieldLe r 20 4
      coarse := kind == 1
      lost := !good
      since := (if kind = 1 then since else 0)
      saveWt := BitVec.ofNat 48 (fieldLe r 44 6)
      ponSaved := (if kind = 1 then fieldLe r 16 4 - since else fieldLe r 16 4)
      bank := some b } }

/-- The counters of the newest record, or none yet (R341). -/
def loadRecord (s : State) : State :=
  match latestCounters s.nv.mem with
  | some r => takeRecord r s
  | none => { s with cnt := { pup := 0 } }

/-- COUNTERS_LOST by the mark or by what the store shows, the power-up count, and the bank erase due 1 s on (R112, R117,
R338). -/
def markCounters (cause : Byte) (cut : Bool) (s : State) : State :=
  { s with
    cnt.lost := s.cnt.lost || cut
    ka.saveOpen := false
    cnt.pup := if cause = 0x01 then bump s.cnt.pup else s.cnt.pup
    nv.bankDue := some (s.now + Config.secPs) }


/-- Step 9 (R112, R117, R338, R341): the counters, the SAVE-OPEN mark, the power-up count, and the save that follows where
no record exists. -/
def loadCounters (cause : Byte) (s : State) : State :=
  let t := loadRecord s
  let t := markCounters cause (t.ka.saveOpen || (!t.ka.lostTold && cutShort t)) t
  if (latestCounters s.nv.mem).isSome then t else addJob firstSave t

/-! ## Ports and the end of boot: steps 10 to 15 -/

/-- Every port takes its configured parameters, and VIO is looked at (R64, R267). -/
def takePortCfg (s : State) : State :=
  let s := upPorts (fun p x => { x with cfg := s.cfg.ports.get p, side := s.cfg.side.get p }) s
  let low := decide (s.pw.vio < Config.vioGood)
  { s with pw.vioLow := low, pw.vioDown := low }

/-- Relay mode: port 0 receives (R281, R284). -/
def bootRelay (s : State) : State :=
  { upPort 0 (fun x => { x with state := .relay, items := [], cur := none, stopped := false }) s with
    relay := { on := true, headerAt := s.now } }

/-- Steps 11 and 12 on a port that starts: the reset pulse of 60 µs, and the presence sampled 20 µs after its release, which
is now (R262). -/
def bootReset (chains : BitVec 4) (p : Port) (s : State) : State :=
  if (s.ports.get p).items.any (fun i => i.1 == .reset) then
    presence p (chains.getLsbD p.val) (beginItem p .reset (s.now - 80 * Config.usPs) s)
  else s

/-- Every port stands off with its configured parameters; the enabled ones start, while VIO is good with their reset and
presence (R65, R87, R267, R281, R284). -/
def bootPorts (chains : BitVec 4) (s : State) : State :=
  let t := eachPort restartPort (takePortCfg s)
  eachPort (bootReset chains) (if t.cfg.relay then bootRelay t else t)

/-- The boot scene slot is named and not usable (R89, R336). -/
def bootSceneBad (s : State) : Bool :=
  s.cfg.bootScene != 0xFF && !(decide (s.cfg.bootScene.toNat < 64) && sceneUsable s s.cfg.bootScene.toNat)

/-- FLAGS of EVT.BOOT (Table 16-9). -/
def bootFlags (s : State) : Nat :=
  flagBits [s.cnt.lost, bootSceneBad s, !deckGood s, decide (curveBad s ≠ 0), s.fw.fellBack, s.ka.lost,
    s.ka.rc && s.ka.notStarted]

/-- Fields of EVT.BOOT (Table 16-9). -/
def bootFields (s : State) : List Byte :=
  [s.pw.cause] ++ leBytes 2 (bootFlags s) ++ [BitVec.ofNat 8 s.fw.run, Config.romMajor, Config.romMinor,
    BitVec.ofNat 8 (curveBad s), BitVec.ofNat 8 s.nv.repaired.length]
    ++ ((s.nv.repaired.map (BitVec.ofNat 8)) ++ List.replicate 8 (0xFF : Byte)).take 8 ++ leBytes 8 s.node.uid.toNat

/-- Events held for the next entry to RUN: a reserve latch (R106) and the RC fallback (R69, R444). -/
def tellOnRun (s : State) : State :=
  let s := if s.ka.latchEvt then raisePower 7 { s with ka.latchEvt := false } else s
  if s.ka.rc && !s.ka.rcTold then raiseTime 2 { s with ka.rcTold := true } else s

/-- EVT.TIME enters its queue after EVT.BOOT, whichever holdoff is the longer (R110, R444). -/
def timeAfterBoot (s : State) : State :=
  let b := ((s.ev.held.filter fun e => e.op == 0xF4).map (·.due)).foldl max 0
  { s with ev.held := s.ev.held.map fun e => if e.op = 0xF3 then { e with due := max e.due b } else e }

/-- Step 15 (R76, R110, R157, R444): Spanline-ready, EVT.BOOT queued, EVT.TIME after it where WT was lost. -/
def bootReady (s : State) : State :=
  let sq := Config.firstSeq s.node.uid s.cnt.pup
  let s := { s with
    pw.mode := .run
    pw.fosc := true
    pw.wrc := true
    pw.lockAt := s.now
    pw.bootAt := s.now
    span.quietFrom := s.now
    rd.lastNow := s.now
    rd.bootScene := true
    rd.syncLocked := s.cfg.sync == 2
    span.seq := if sq = 0 then 1 else sq }
  let s := restartHold { s with pw.termOn := termNow s }
  let s := { s with ev.bootFields := bootFields s }
  let s := raise 0xF4 0 s.ev.bootFields s.ka.wt s
  let s := if s.ka.lost && !s.ka.lostTold then raiseTime 1 { s with ka.lostTold := true } else s
  timeAfterBoot (tellOnRun s)

/-- The boot's duration passes and its inputs are taken. -/
def bootInputs (b : BootIn) (s : State) : State :=
  setVin b.vin { elapse b.took s with pw.vio := b.vio, pw.vres := b.vres }

/-- The sectors repaired are noted, and their ERASE-DONE records wait as housekeeping (R329). -/
def noteRepairs (l : List Nat) (s : State) : State := { s with nv.repaired := l, nv.jobs := l.map doneJob }

/-- Step 5 and the security configuration; a factory reset under way is completed (R329, R451, R457). -/
def bootStore (s : State) : State :=
  let r := bootRepair s
  let s := noteRepairs r.2 (loadSec r.1)
  if s.sec.freset then completeReset r.2 { s with nv.jobs := [] } else s

/-- Steps 7 to 15. -/
def bootRest (b : BootIn) (s : State) : State :=
  let s := curveSectors.foldl loadCurveSector (loadDeck (reSource (loadConfig b s)))
  bootReady (journalCheck (bootPorts b.chains (loadCounters s.pw.cause s)))

/-- VIN falls below VPDN before step 9 completes: the boot is abandoned without writing NV and waits at step 4 (R88). -/
def bootAbandoned (b : BootIn) (s : State) : State := { s with pw.vin := b.vinMin }

/-- Steps 5 to 15, with VIN good (R87). -/
def bootOn (b : BootIn) (s : State) : Host.Outcome State Fault Refusal :=
  if b.vinMin < Config.vpdn then go (bootAbandoned b s)
  else
    let s := bootImage (bootStore (bootInputs b s))
    if otherRelease s then .refused .otherRelease else go (bootRest b s)

/-- Step 3: the LFXO takes WT back where it has run long enough; POOR stays until a keystone (R70). -/
def lfxoBack (b : BootIn) (s : State) : State :=
  if s.ka.rc && b.lfxoOk then { s with ka.rc := false, ka.poorHeld := true, ka.notStarted := false } else s

/-- The core domain starts anew, with the cause and the straps (R33, R35, R38, R83). -/
def bootStart (cause : Byte) (b : BootIn) (s : State) : State :=
  let s := setVin b.vin (coreReset .bootWait (cutOp s))
  lfxoBack b { s with
    pw.cause := cause
    pw.rails := true
    pw.fosc := true
    pw.lockAt := s.now
    pw.wrc := true
    pw.gp2 := b.gp2
    pw.gp3 := b.gp3
    pw.vio := b.vio
    pw.vres := b.vres }

/-- TEST is high at the latch: the node does not boot (R35). -/
def halt (s : State) : State := { s with pw.mode := .halted }

/-- A reset with a cause: TEST high halts, VIN below VIN good waits at step 4 (R35, R87). -/
def bootFrom (cause : Byte) (b : BootIn) (s : State) : Host.Outcome State Fault Refusal :=
  let s := bootStart cause b s
  if b.test then go (halt s)
  else if b.vin < Config.vinGood then go s
  else bootOn b s

end Sys2Proof.Machine
end

