-- ==== Sys2Proof/Machine/EvPower.lean ====
section
/-!
DEFINITION. Power, wake and reset events (03, 04): REST and SHELF, the reset causes, SAVE and HOLDOVER, DARKCUT, the reserve
and its charger, VIO, the LFXO, the thermal limiter and the harvester.
-/
namespace Sys2Proof.Machine

/-! ## REST and SHELF (R76 to R82, R139, R223) -/

/-- REST_HOLD_EXPIRY (R76). -/
def execRestHoldExpiry (dt : Nat) (s : State) : Host.Outcome State Fault Refusal :=
  let s := elapse dt s
  go (if inRun s && decide (s.pw.restDue ≤ s.now) then { s with pw.restFree := true } else s)

/-- The ports of a node whose readiness is counted again: after SHELF, and where VIO has been low (R64, R65, R82, R90). -/
def unready (s : State) : State := upPorts (fun _ x => { x with ready := false, framed := false, firstAt := none }) s

/-- FOSC starts, if it does not run already, and locks (Table 3-3, R68). -/
def startFosc (s : State) : State :=
  { s with pw.fosc := true, pw.lockAt := if s.pw.fosc then s.pw.lockAt else s.now + Config.foscLock }

/-- Where the wake finds Spanline: no rate held, the bus not yet idle (R133, R152). -/
def spanWake (s : State) : State :=
  { s with span.held := none, span.busRate := none, span.idle := false, span.quietFrom := s.now, span.wakeHold := none }

/-- The ports restart at a wake, as VIO then stands (R65, R78, R82): good again after a loss, their readiness counts anew and
the return is reported; low, they wait for it, and LAMPEN is released until then: DESIGN CHOICE [67] (R78 keeps the state
LAMPEN had before REST). -/
def wakePorts (s : State) : State :=
  let was := s.pw.vioLow
  let low := s.pw.vioDown
  let s := { s with pw.vioLow := low, pw.lampen := s.pw.lampen && !low, pw.lampMet := s.pw.lampMet && !low }
  let s := eachPort restartPort (if was || low then unready s else s)
  if was && !low then raisePower 1 s else s

/-- The node leaves REST or SHELF for RUN: FOSC locks, ports restart, REST_HOLD restarts (R65, R68, R76 to R78, R82). -/
def leaveRest (s : State) : State :=
  let s := spanWake (startFosc { s with pw.mode := .run, pw.wrc := true, rd.lastNow := s.now })
  tellOnRun (wakePorts (restartHold s))

/-- A character of the wake listener: framed, with this mark bit, its start bit within 1 c of the one before (R139). -/
def wakeChar (mark : Bool) (c : WakeChar) : Bool :=
  c.framed && c.mark == mark && decide (c.gap ≤ bitsPs 19200 (charBits 1))

/-- The address in a wake sequence: SYNC 0x55 with M 0, DSTH and DSTL with M 1, WAKE 0xA5 with M 0, in that order; further
characters are ignored (R138, R139, Table 5-7). -/
def wakeAddress : List WakeChar → Option (Byte × Byte)
  | y :: h :: l :: w :: _ =>
    if wakeChar false { y with gap := 0 } && y.value == 0x55 && wakeChar true h && wakeChar true l && wakeChar false w
        && w.value == 0xA5 then
      some (h.value, l.value)
    else none
  | _ => none

/-- WAKE_FRAME (R77, R138 to R140): a match on the wake listener ends REST. -/
def execWakeFrame (dt : Nat) (chars : List WakeChar) (s : State) : Host.Outcome State Fault Refusal :=
  let s := elapse dt s
  go (match wakeAddress chars with
    | some (h, l) => if s.pw.mode = .rest ∧ (matchOf h l s).isSome = true then leaveRest s else s
    | none => s)

/-- An SVC wake is recognised: after an idle, at 9600 to 19 200 bit/s; in REST only with RWAKE set (R209, R223). -/
def svcWakes (rate : Nat) (s : State) : Bool :=
  s.svc.idle && decide (9600 ≤ rate) && decide (rate ≤ 19200)
    && ((s.pw.mode == .rest && s.svc.ctl.getLsbD 2) || s.pw.mode == .shelf)

/-- An SVC wake: WAKE is set and the measured rate kept; its address character breaks the sequence of R216, and the read it
begins is not answered (R223). -/
def svcWoken (rate : Nat) (s : State) : State :=
  leaveRest (svcEdge { s with svc.cause := s.svc.cause ||| 0x08, svc.rate := some rate, svc.armed := false,
                              svc.sel := none })

/-- SVC_WAKE (R77, R82, R223): an SVSYNC and the address character 0x80. In RUN they are what they are elsewhere; where no wake
is recognised the node ignores them. -/
def execSvcWake (dt : Nat) (rate : Nat) (s : State) : Host.Outcome State Fault Refusal :=
  let s := elapse dt s
  go (if svcWakes rate s then svcWoken rate s
    else if inRun s then svcChar (.addr 0x80) (svcSync true rate s)
    else svcEdge s)

/-- One KEEP frame on a port in OK or BROKEN@k once FOSC is locked; its return is not observed (R68, R79, R233). -/
def keepFrame (p : Port) (s : State) : State :=
  let x := s.ports.get p
  if x.cfg.enable && x.state.running then
    upPort p (fun y => { y with awaits := x.awaits }) (sendKeep p (s.now + Config.foscLock) s)
  else s

/-- KEEP_BURST (R65, R79): in REST with KEEP enabled, at a multiple of 4096 ticks, while VIO is good. -/
def execKeepBurst (dt : Nat) (s : State) : Host.Outcome State Fault Refusal :=
  let s := elapse dt s
  go (if s.pw.mode = .rest ∧ s.pw.keepRest = true ∧ wtN s % 4096 = 0 ∧ s.pw.vioDown = false then eachPort keepFrame s
    else s)

/-- SHELF may be entered: it was asked for, the reply is gone and the outbound queue is empty (R81). -/
def shelfMayEnter (s : State) : Bool :=
  inRun s && s.pw.shelfReq == some none && s.span.outQ.isEmpty && s.span.overflow.isEmpty && s.span.tx.isNone
    && !npBlocked s

/-- SHELF_ENTRY (R81). -/
def execShelfEntry (dt : Nat) (s : State) : Host.Outcome State Fault Refusal :=
  let s := elapse dt s
  go (if shelfMayEnter s then
      { unready (stopPorts s) with
        pw.mode := .shelf, pw.shelfReq := none, pw.lampen := false, pw.lampMet := false, pw.fosc := false, pw.wrc := false }
    else s)

/-- SHELF_SVC_EDGE (R82): the WRC runs. -/
def execShelfSvcEdge (dt : Nat) (s : State) : Host.Outcome State Fault Refusal :=
  let s := elapse dt s
  go (if s.pw.mode = .shelf then { s with pw.wrc := true, svc.edgeAt := s.now } else s)

/-- WRC_STOP (R82): 20 ms after the last SVC edge in SHELF. -/
def execWrcStop (dt : Nat) (s : State) : Host.Outcome State Fault Refusal :=
  let s := elapse dt s
  go (if s.pw.mode = .shelf ∧ s.pw.wrc = true ∧ s.svc.edgeAt + 20 * Config.msPs ≤ s.now then
      { s with pw.wrc := false, svc.idle := true }
    else s)

/-! ## SAVE (R112 to R117) -/

/-- A reserve or a hold-up capacitor carries a full save (Table 4-7); `vin` in mV, charge in nC. -/
def fullSaveOk (vin vresLoaded : Nat) (s : State) : Bool :=
  (reserveUp s && decide (3200 ≤ vresLoaded)) || decide (1800000 ≤ s.ka.reserve.chold.toNat * (vin - 2100))

/-- The program or erase in progress as SAVE meets it: a program ends, an erase is abandoned (R113, step 1). -/
def saveMeetsOp (s : State) : State :=
  match s.nv.running with
  | none => s
  | some (.erase sec, user) => { cutOp { s with nv.running := some (.erase sec, user) } with nv.running := none }
  | some (o, user) =>
    match runningJob o user s with
    | some j => { opEffect j o true s with nv.running := none }
    | none => { s with nv.running := none }

/-- SAVE may begin: from RUN, REST and SHELF (Table 3-4). -/
def saveFrom (m : PMode) : Bool := m == .run || m == .rest || m == .shelf

/-- SAVE (R112 to R114): output stops, the SAVE-OPEN mark is set, and a full save or a summary is decided; with the
alternate bank not fully erased nothing is written. Of the clocks FOSC runs, WRC does not (Table 3-3). -/
def enterSave (vin vresLoaded : Nat) (s : State) : State :=
  let s := startFosc (saveMeetsOp (stopPorts s))
  { s with
    pw.mode := .save
    pw.vin := vin
    pw.wrc := false
    pw.lampen := false
    pw.lampMet := false
    pw.termOn := false
    span.tx := none
    ka.saveOpen := true
    pw.saving := if bankReady s (altBank s) then (if fullSaveOk vin vresLoaded s then 1 else 2) else 0 }

/-- SAVE (R113). -/
def execSave (dt : Nat) (vin vresLoaded : Nat) (s : State) : Host.Outcome State Fault Refusal :=
  let s := elapse dt s
  go (if saveFrom s.pw.mode then enterSave vin vresLoaded s else s)

/-- The first `n` pages of a bank are programmed from SRAM (R339). -/
def writeBank (b : Bool) (n : Nat) (s : State) : State :=
  (List.range n).foldl (fun s k => nvProgram (4096 * bankSector b + 256 * k) (counterPageBytes s k) s) s

/-- The SAVE-OPEN mark is cleared (R112). -/
def clearMark (s : State) : State := { s with ka.saveOpen := false }

/-- What SAVE writes, whole (R113, R114, R339): the COUNTERS record clears the mark (R112). -/
def writeSave (s : State) : State :=
  if s.pw.saving = 1 then clearMark (writeCounters 0 (altBank s) (writeBank (altBank s) 64 s))
  else if s.pw.saving = 2 then clearMark (writeCounters 1 (s.cnt.bank.getD false) s)
  else s

/-- A full SAVE cut after `n` of its 64 pages: what was being programmed is left a free value (R117). -/
def cutAfter (n : Nat) (b : Bool) (s : State) : State :=
  if n = 64 then tornRec (liveJ s.nv.mem) 3 0 (counterPayload s 0 b) s
  else
    let a := 4096 * bankSector b + 256 * n
    spend (nvProgram a (tornData s.draws a (counterPageBytes s n)) s)

/-- SAVE cut short (R117): some pages, and what was being programmed left a free value; no record. -/
def cutSave (s : State) : State :=
  if s.pw.saving = 1 then
    let b := altBank s
    let (n, s) := drawN 64 s
    cutAfter n b (writeBank b n s)
  else if s.pw.saving = 2 then tornRec (liveJ s.nv.mem) 3 0 (counterPayload s 1 (s.cnt.bank.getD false)) s
  else s

/-- HOLDOVER: the core rails are off, the keep-alive domain runs (R96, Table 1-6). -/
def enterHoldover (vin vres : Nat) (s : State) : State :=
  let s := setVin vin (coreReset .holdover s)
  reSource { s with pw.vres := vres, ka.chg := if vin < 1900 then .off else s.ka.chg }

/-- SAVE_COMPLETE (R72, R73, R85). -/
def execSaveComplete (dt : Nat) (b : BootIn) (s : State) : Host.Outcome State Fault Refusal :=
  let s := elapse dt s
  if s.pw.mode = .save then
    let s := writeSave s
    if b.vin < Config.vinGood then go (enterHoldover b.vin b.vres s) else bootFrom 0x06 b s
  else go s

/-! ## Resets (R34, R62, R83 to R87, R367, R461) -/

/-- A reset that cuts SAVE leaves its traces first (R117). -/
def resetFrom (cause : Byte) (b : BootIn) (s : State) : Host.Outcome State Fault Refusal :=
  bootFrom cause b (if s.pw.mode = .save then cutSave s else s)

/-- The keep-alive domain has restarted after a dark cut (R109). -/
def endDark (vres : Nat) (s : State) : State := { kaReset vres s with ka.darkLatch := false }

/-- A power-on reset: out of DARKCUT the keep-alive domain restarts with it (R109). -/
def powerReset (b : BootIn) (s : State) : Host.Outcome State Fault Refusal :=
  resetFrom 0x01 b (if s.pw.mode = .darkcut then endDark b.vres s else s)

/-- POWER_ON (R63, R83, R109). -/
def execPowerOn (dt : Nat) (b : BootIn) (s : State) : Host.Outcome State Fault Refusal := powerReset b (elapse dt s)

/-- The core domain is powered. -/
def coreOn (m : PMode) : Bool := m != .holdover && m != .darkcut

/-- A reset by a pin or a supply (Table 3-4: from any state). In HOLDOVER and DARKCUT the core rails are off and the power-on
reset holds the core until VIN is at POR: with VIN below it the reset changes nothing [72]. -/
def resetAny (cause : Byte) (b : BootIn) (s : State) : Host.Outcome State Fault Refusal :=
  if coreOn s.pw.mode || decide (Config.vinPor ≤ b.vin) then
    resetFrom cause b (if s.pw.mode = .darkcut then endDark b.vres s else s)
  else go s

/-- RESET_PIN (R34): 10 µs and more reset, less than 1 µs is ignored, between them a free value decides. -/
def execResetPin (dt : Nat) (widthNs : Nat) (b : BootIn) (s : State) : Host.Outcome State Fault Refusal :=
  let s := elapse dt s
  if 10000 ≤ widthNs then resetAny 0x03 b s
  else if widthNs < 1000 then go s
  else
    let hit := Config.pulseResets s.draws
    let s := spend s
    if hit then resetAny 0x03 b s else go s

/-- BROWN_OUT (R62): the higher of VIN and VRES falls below the core brown-out threshold. -/
def execBrownOut (dt : Nat) (vin vres : Nat) (b : BootIn) (s : State) : Host.Outcome State Fault Refusal :=
  let s := elapse dt s
  if max vin vres < Config.brownOut then resetAny 0x02 b s else go s

/-- The NP runs, and so does its watchdog: not in REST and SHELF, where FOSC stands (Table 3-3) [72]. -/
def npRuns (m : PMode) : Bool := m == .run || m == .save || m == .bootWait

/-- WATCHDOG (R84): not while the NP is blocked by a program or erase. -/
def execWatchdog (dt : Nat) (b : BootIn) (s : State) : Host.Outcome State Fault Refusal :=
  let s := elapse dt s
  if npRuns s.pw.mode && !npBlocked s then resetFrom 0x05 b s else go s

/-- A requested reset is due: its 5 ms have passed, no operation runs, and a pending choice is stored (R367, R434). -/
def resetDue (s : State) : Bool :=
  inRun s && !npBlocked s && (match s.pw.resetReq with
    | some { due := some t, .. } => decide (t ≤ s.now)
    | _ => false)
  && s.nv.jobs.all fun j => match j.kind with
    | .security (.pending _) => false
    | _ => true

/-- RESET_AFTER_REPLY (R367). -/
def execResetAfterReply (dt : Nat) (b : BootIn) (s : State) : Host.Outcome State Fault Refusal :=
  let s := elapse dt s
  if resetDue s then resetFrom 0x04 b s else go s

/-- VIN_GOOD (R87): boot goes on from step 4. -/
def execVinGood (dt : Nat) (b : BootIn) (s : State) : Host.Outcome State Fault Refusal :=
  let s := elapse dt s
  if s.pw.mode = .bootWait ∧ Config.vinGood ≤ b.vin then bootOn b s else go s

/-- HOLDOVER_VIN_GOOD (R86, R109). -/
def execHoldoverVinGood (dt : Nat) (b : BootIn) (s : State) : Host.Outcome State Fault Refusal :=
  let s := elapse dt s
  if b.vin < Config.vinGood then go s
  else if !coreOn s.pw.mode then powerReset b s
  else go s

/-- The image on trial has had its 60 s without a confirmation (R461). -/
def trialOver (s : State) : Bool :=
  inRun s && !npBlocked s && s.fw.trial && decide (s.pw.bootAt + 60 * Config.secPs ≤ s.now)
    && s.nv.jobs.all fun j => match j.kind with
      | .security (.confirmed _) => false
      | _ => true

/-- FW_CONFIRM_TIMEOUT (R461). -/
def execFwConfirmTimeout (dt : Nat) (b : BootIn) (s : State) : Host.Outcome State Fault Refusal :=
  let s := elapse dt s
  if trialOver s then resetFrom 0x04 b s else go s

/-! ## The reserve (R96, R98, R103, R105 to R109, R118) -/

/-- A latch that is reported at the next entry to RUN (R106). -/
def latch (s : State) : State := { s with ka.latchEvt := true }

/-- The die lies outside 0 to 45 °C (R105); eighths of a degree. -/
def tempBad (t8 : Int) : Bool := decide (t8 < 0) || decide (t8 > 360)

/-- The VIN charger may charge. -/
def mayCharge (s : State) : Bool :=
  s.ka.present && !s.ka.tempStop && s.ka.reserve.ichg != 3 && decide (1900 ≤ s.pw.vin)

/-- The charger's next state at a VRES in mV (Table 4-5); `tapered`: the current is below 10 % of the selected one. -/
def chargeNext (vres : Nat) (tapered : Bool) (s : State) : Chg :=
  let top := vchgMv s.ka.reserve
  if !mayCharge s then .off
  else if s.ka.chg = .terminated ∧ top < vres + 100 then .terminated
  else if vres < 3000 then .precharge
  else if s.ka.chg = .constantVoltage ∧ top * 99 ≤ vres * 100 then (if tapered then .terminated else .constantVoltage)
  else if top ≤ vres then .constantVoltage
  else .constantCurrent

/-- CHARGE_STATE_CHANGE (R105, R106, Table 4-5): the charge path stays usable through dark cut and hard disconnect. -/
def execChargeStateChange (dt : Nat) (vres : Nat) (tapered : Bool) (s : State) : Host.Outcome State Fault Refusal :=
  let s := elapse dt s
  go { s with pw.vres := vres, ka.chg := chargeNext vres tapered s }

/-- The temperature check of R105. -/
def tempCheck (t8 : Int) (s : State) : State :=
  if tempBad t8 then { s with ka.tempStop := true, ka.chg := .off } else { s with ka.tempStop := false }

/-- CHARGE_TEMPERATURE_CHECK (R105): every 64 ms in RUN, REST and SHELF. -/
def execChargeTemperatureCheck (dt : Nat) (t8 : Int) (s : State) : Host.Outcome State Fault Refusal :=
  let s := elapse dt s
  go (if saveFrom s.pw.mode then tempCheck t8 s else s)

/-- Charge flows into the reserve: from the VIN charger, or from the boost converter (R101, R105). -/
def chargeFlows (s : State) : Bool := charging s || boostOut s == .vres

/-- VRES below 2.75 V opens the discharge path (Table 4-5). -/
def hardCut (vres : Nat) (s : State) : State :=
  if s.ka.present && !s.ka.hardDisc && decide (vres < 2750) then
    latch { s with ka.hardDisc := true, ka.hardSince := true }
  else s

/-- VRES at 3.00 V while charging closes it again (Table 4-5). -/
def hardEnd (vres : Nat) (s : State) : State :=
  if s.ka.hardDisc && decide (3000 ≤ vres) && chargeFlows s then { s with ka.hardDisc := false } else s

/-- The bandgap reference is on: for 1 ms from the start of its window (R103). -/
def windowOpen (s : State) : Bool :=
  match s.ka.window with
  | some t => decide (s.now ≤ t + Config.msPs)
  | none => false

/-- HARD_DISCONNECT (R103, R106): compared in the reference's window only. -/
def execHardDisconnect (dt : Nat) (vres : Nat) (s : State) : Host.Outcome State Fault Refusal :=
  let s := elapse dt s
  go (if windowOpen s then reSource (hardCut vres { s with pw.vres := vres }) else s)

/-- HARD_DISCONNECT_END (R103, R106). -/
def execHardDisconnectEnd (dt : Nat) (vres : Nat) (s : State) : Host.Outcome State Fault Refusal :=
  let s := elapse dt s
  go (if windowOpen s then reSource (hardEnd vres { s with pw.vres := vres }) else s)

/-- OVERCURRENT (R106). -/
def execOvercurrent (dt : Nat) (s : State) : Host.Outcome State Fault Refusal :=
  let s := elapse dt s
  go (if reserveUp s then reSource (latch { s with ka.oc := true }) else s)

/-- Since when VRES has stood below the dark-cut threshold (R106). -/
def belowStep (s : State) : State :=
  if s.ka.present && decide (s.pw.vres < darkcutMv s.ka.reserve) then
    { s with ka.belowSince := some (s.ka.belowSince.getD s.now) }
  else { s with ka.belowSince := none }

/-- VRES has reached the reconnect level in DARKCUT: the keep-alive domain restarts, and without VIN the node is in HOLDOVER
(R109). -/
def reconnect (s : State) : State :=
  if s.pw.mode = .darkcut ∧ 3600 ≤ s.pw.vres then reSource { endDark s.pw.vres s with pw.mode := .holdover } else s

/-- What a window compares in DARKCUT: the reconnect level alone draws on the cell's latch (R86, R108, R109). -/
def darkWindow (s : State) : State := reSource (reconnect s)

/-- What a window compares elsewhere: the dark-cut and hard-disconnect levels, and in HOLDOVER the temperature (R103, R105,
R106). -/
def litWindow (t8 : Int) (s : State) : State :=
  let s := belowStep (hardEnd s.pw.vres (hardCut s.pw.vres s))
  reSource (if s.pw.mode = .holdover then tempCheck t8 s else s)

/-- A window is due: 64 ms after the one before it (R103). -/
def windowDue (s : State) : Bool :=
  match s.ka.window with
  | some t => decide (t + 64 * Config.msPs ≤ s.now)
  | none => true

/-- BANDGAP_WINDOW (R86, R103, R105): the thresholds that depend on the reference are compared. -/
def execBandgapWindow (dt : Nat) (vin vres : Nat) (t8 : Int) (s : State) : Host.Outcome State Fault Refusal :=
  let s := elapse dt s
  go (if windowDue s then
      let s := setVin vin s
      let s := { s with ka.window := some s.now, pw.vres := vres }
      if s.pw.mode = .darkcut then darkWindow s else litWindow t8 s
    else s)

/-- The keep-alive domain is disconnected from VRES: WT is lost, and VKA falls unless VIN still feeds it (R86, R108). -/
def darkCut (s : State) : State :=
  reSource { loseWt s with pw.mode := .darkcut, pw.vka := 0, ka.darkLatch := true, ka.darkSince := true, ka.belowSince := none,
                           ka.hst := .stopped, ka.chg := .off }

/-- DARKCUT_ENTRY (R106, R108): from HOLDOVER, after 10 s below the threshold. -/
def execDarkcutEntry (dt : Nat) (s : State) : Host.Outcome State Fault Refusal :=
  let s := elapse dt s
  go (match s.ka.belowSince with
    | some t => if s.pw.mode = .holdover ∧ t + 10 * Config.secPs ≤ s.now then latch (darkCut s) else s
    | none => s)

/-- VIN has risen through POR, or stands past VIN good (R86, R109). -/
def vinBack (b : BootIn) (s : State) : Bool :=
  (decide (s.pw.vin < Config.vinPor) && decide (Config.vinPor ≤ b.vin)) || decide (Config.vinGood ≤ b.vin)

/-- DARKCUT_EXIT (R72, R109): VIN back resets the core domain (Table 3-4); at 3.60 V, in a window, the node is in
HOLDOVER. -/
def execDarkcutExit (dt : Nat) (vres : Nat) (b : BootIn) (s : State) : Host.Outcome State Fault Refusal :=
  let s := elapse dt s
  if s.pw.mode ≠ .darkcut then go s
  else if vinBack b s then powerReset b s
  else go (if windowOpen s then reconnect { s with pw.vres := vres } else s)

/-- KEEPALIVE_POWER_ON_RESET (R97, R109): VKA has collapsed and is back at 1.60 V. With no cell that ends DARKCUT too; with one
the dark-cut latch, which the cell feeds, stands. -/
def execKeepalivePowerOnReset (dt : Nat) (vres : Nat) (s : State) : Host.Outcome State Fault Refusal :=
  let s := elapse dt s
  let s := kaReset vres { s with pw.vres := vres, pw.vka := 1600 }
  go (reSource (if s.pw.mode = .darkcut ∧ s.ka.present = false then
      { s with pw.mode := .holdover, ka.darkLatch := false } else s))

/-- RESERVE_TEST (R118): Table 4-7 with VIN taken as 2.55 V; a change of RESERVE_LOW is one EVT.POWER. -/
def execReserveTest (dt : Nat) (vresLoaded : Nat) (s : State) : Host.Outcome State Fault Refusal :=
  let s := elapse dt s
  go (if inRun s then
      let low := !fullSaveOk Config.vpdn vresLoaded s
      if low = s.pw.reserveLow then s
      else raisePower (if low then 5 else 6) { s with pw.reserveLow := low }
    else s)

/-- VKA_SOURCE_HANDOVER (R86, R96). -/
def execVkaSourceHandover (dt : Nat) (vin vres : Nat) (s : State) : Host.Outcome State Fault Refusal :=
  let s := elapse dt s
  go (reSource { setVin vin s with pw.vres := vres })

/-! ## VIO (R64, R65) -/

/-- VIO reads `v`: its monitor falls below VIO low and rises past VIO good (R62). -/
def setVio (v : Nat) (s : State) : State :=
  { s with pw.vio := v
           pw.vioDown := if v < Config.vioLow then true else if Config.vioGood ≤ v then false else s.pw.vioDown }

/-- VIO_LOW (R37, R64). -/
def execVioLow (dt : Nat) (vio : Nat) (s : State) : Host.Outcome State Fault Refusal :=
  let s := setVio vio (elapse dt s)
  go (if inRun s && !s.pw.vioLow && s.pw.vioDown then
      { stopPorts s with pw.vioLow := true, pw.lampen := false, pw.lampMet := false }
    else s)

/-- VIO_GOOD (R64, R65): the ports configured now restart, and readiness counts from their first frames. -/
def execVioGood (dt : Nat) (vio : Nat) (s : State) : Host.Outcome State Fault Refusal :=
  let s := setVio vio (elapse dt s)
  go (if inRun s && s.pw.vioLow && !s.pw.vioDown then
      raisePower 1 (eachPort restartPort (unready { s with pw.vioLow := false }))
    else s)

/-! ## Clocks and temperature (R69, R92 to R94) -/

/-- The LFXO has failed: it has run and stopped, or has not started in its 2 s (R69). -/
def lfxoFailed (s : State) : Bool :=
  s.pw.mode != .darkcut && !s.ka.rc && (s.ka.startIn == 0 || decide (s.ka.poweredAt + 2 * Config.secPs ≤ s.now))

/-- LFXO_FAILURE (R69): WT goes on from the RC fallback; the ticks lost in the detection, at most 16, are a free value. -/
def execLfxoFailure (dt : Nat) (s : State) : Host.Outcome State Fault Refusal :=
  let s := elapse dt s
  go (if lfxoFailed s then
      let (d, s) := drawN 16 s
      let s := { s with ka.rc := true, ka.rcTold := false, ka.wt := BitVec.ofNat 48 (s.ka.wt.toNat - d),
                        ka.notStarted := decide (0 < s.ka.startIn), ka.startIn := 0 }
      if inRun s then tellOnRun s else s
    else s)

/-- THERMAL at 125 °C and below 120 °C (R93). -/
def thermalFlag (s : State) : State :=
  if !s.pw.thermal && decide (1000 ≤ s.pw.tAvg) then raisePower 2 { s with pw.thermal := true }
  else if s.pw.thermal && decide (s.pw.tAvg < 960) then raisePower 3 { s with pw.thermal := false }
  else s

/-- Rendering stops at 140 °C and resumes below 130 °C (R94). -/
def thermalFreeze (s : State) : State :=
  if !s.pw.frozen && decide (1120 ≤ s.pw.tAvg) then raisePower 4 { s with pw.frozen := true }
  else if s.pw.frozen && decide (s.pw.tAvg < 1040) then { s with pw.frozen := false }
  else s

/-- THERMAL_UPDATE (R92 to R94): the average and the latest reading, in eighths of a degree. -/
def execThermalUpdate (dt : Nat) (avg8 now8 : Int) (s : State) : Host.Outcome State Fault Refusal :=
  let s := elapse dt s
  go (if inRun s then thermalFreeze (thermalFlag { s with pw.tAvg := avg8, pw.tNow := now8 }) else s)

/-! ## The harvester (R100 to R102) -/

/-- COLD_START (R100): only below 1.50 V. -/
def execColdStart (dt : Nat) (vka : Nat) (s : State) : Host.Outcome State Fault Refusal :=
  let s := elapse dt s
  go (if s.node.member.harvester && decide (vka < 1500) then { s with pw.vka := vka, ka.hst := .coldStart } else s)

/-- COLD_START_END (R100, R101): at 1.90 V the boost converter takes over. -/
def execColdStartEnd (dt : Nat) (vka : Nat) (s : State) : Host.Outcome State Fault Refusal :=
  let s := elapse dt s
  go (if s.ka.hst = .coldStart ∧ 1900 ≤ vka then
      reSource { s with pw.vka := vka, ka.hst := if s.ka.harvest.enable = 1 then .boost else .stopped }
    else s)

/-- The Voc sample period in picoseconds (Table 16-3). -/
def vocPeriod (h : HarvestCfg) : Nat :=
  Config.secPs * (if h.period = 0 then 4 else if h.period = 1 then 16 else 64)

/-- VOC_SAMPLE (R96, R102): the boost converter stops, and VKA is fed as Table 4-1 says. The period counts from the start of
the last sample, also across a stop and a restart of the converter: DESIGN CHOICE [73]. -/
def execVocSample (dt : Nat) (s : State) : Host.Outcome State Fault Refusal :=
  let s := elapse dt s
  go (if s.ka.hst = .boost ∧ s.ka.vocAt + vocPeriod s.ka.harvest ≤ s.now then
      reSource { s with ka.hst := .sampling, ka.vocAt := s.now } else s)

/-- VOC_SAMPLE_END (R102): after 2.0 ms the boost restarts with the target k × Voc. -/
def execVocSampleEnd (dt : Nat) (voc : Nat) (s : State) : Host.Outcome State Fault Refusal :=
  let s := elapse dt s
  go (if s.ka.hst = .sampling ∧ s.ka.vocAt + 2 * Config.msPs ≤ s.now then
      reSource { s with ka.hst := .boost, ka.voc := voc, ka.target := voc * (4 + s.ka.harvest.k.toNat) / 10 } else s)

end Sys2Proof.Machine
end

