-- ==== Sys2Proof/Machine/EvString.lean ====
section
/-!
DEFINITION. String-port events (09, 10): loop returns and their deadline, maintenance, backward answers, presence, probes,
readiness and LAMPEN.
-/
namespace Sys2Proof.Machine

/-! ## Loop returns (R90, R255, R273, R274) -/

/-- TYPE of a header (Table 9-4). -/
def hdrType (h : W32) : Nat := bits h.toNat 0 4
/-- FMT of a header. -/
def hdrFmt (h : W32) : Nat := bits h.toNat 4 4
/-- FSEQ of a header. -/
def hdrFseq (h : W32) : Byte := BitVec.ofNat 8 (bits h.toNat 8 8)

/-- The forward frame a return echoes (R255). -/
def awaitOf (x : PortState) (h : W32) : Option Await :=
  if headerOk h then x.awaits.find? fun a => a.type == hdrType h && a.fmt == hdrFmt h && a.fseq == hdrFseq h else none

/-- A port that takes loop returns: in RUN, enabled, a loop, not stopped, not S0 in relay mode. -/
def takesReturns (s : State) (x : PortState) : Bool :=
  inRun s && x.cfg.enable && !x.cfg.stub && !x.stopped && x.state != .relay

/-- TOL events of a frame on port `p` (Table 13-3). -/
def countTol (p : Port) (n : Nat) (s : State) : State := upPort p (fun x => { x with tol := sat 32 (x.tol + n) }) s

/-- The identity collection ends; it begins again at the next bit 0 (R249). -/
def endCollection (p : Port) (s : State) : State := upPort p (fun x => { x with srNext := none, srAcc := [], srLen := 0 }) s

/-- A return of `a` that is not there, or rejected: SR collection ends, and DATA gives break evidence (R249, R274). -/
def lostReturn (p : Port) (a : Await) (s : State) : State :=
  let s := returnEnded p a (endCollection p (upPort p (fun x => { x with awaits := x.awaits.filter fun b => b != a }) s))
  if a.type = tyData then evidenceIfOk p true s else s

/-- What a valid return of W words says of a break: W of N or more clears the count, whatever the frame; fewer in the return
of a DATA frame are evidence (R274). -/
def returnEvidence (p : Port) (a : Await) (s : State) : State :=
  let x := s.ports.get p
  let short := decide (x.w.getD 0 < x.cfg.n)
  if !short || a.type == tyData then evidenceIfOk p short s else s

/-- A return that is taken: its words are observed and SR collected (R249, R273, R274); on a broken loop a probe follows at
once (R278). -/
def goodReturn (p : Port) (a : Await) (ws : List W12) (s : State) : State :=
  let s := returnEnded p a (upPort p (fun x => collectSr a.fseq ws
    { x with awaits := x.awaits.filter fun b => b != a, w := some ws.length, returned := true }) s)
  let s := returnEvidence p a (observations p a.fseq ws s)
  match pstate s p with
  | .broken _ => addItem p .census s
  | _ => s

/-- A frame arrives on SnR. A header that echoes one sent makes the port ready (R90). -/
def takeReturn (p : Port) (r : Return) (s : State) : State :=
  let s := countTol p r.tol s
  let x := s.ports.get p
  match awaitOf x r.header with
  | some a =>
    if a.due < s.now then s
    else
      let s := markReady p s
      if r.clean && decide (r.tol ≤ 8) then goodReturn p a r.words s else lostReturn p a s
  | none =>
    match x.awaits with
    | a :: _ => lostReturn p a s
    | [] => endCollection p s

/-- LOOP_RETURN (R90, R255, R273). -/
def execLoopReturn (dt : Nat) (port : Port) (r : Return) (s : State) : Host.Outcome State Fault Refusal :=
  let s := elapse dt s
  go (if takesReturns s (s.ports.get port) then takeReturn port r s else s)

/-- RETURN_DEADLINE (R273, R274): every return whose deadline has passed is missing. -/
def execReturnDeadline (dt : Nat) (port : Port) (s : State) : Host.Outcome State Fault Refusal :=
  let s := elapse dt s
  go (if takesReturns s (s.ports.get port) then
      ((s.ports.get port).awaits.filter fun a => decide (a.due ≤ s.now)).foldl (fun s a => lostReturn port a s) s
    else s)

/-! ## Maintenance (R272) -/

/-- The first waiting item that `ok` admits, in the order of R272. After a presence a probe waits for the DATA frame that
precedes it (R279, R281). -/
def pickItem (x : PortState) (ok : Maint × Nat → Bool) : Option Maint :=
  (x.items.find? fun i => ok i && !(x.fresh && i.1 == .census)).map (·.1)

/-- A maintenance item may begin on the port now (R272). -/
def maintReady (s : State) (x : PortState) : Bool := portLive s x && x.cfg.enable && itemGap x s.now

/-- MAINTENANCE_START (R272, R289): the first item that can finish before the next frame. -/
def execMaintenanceStart (dt : Nat) (port : Port) (s : State) : Host.Outcome State Fault Refusal :=
  let s := elapse dt s
  let x := s.ports.get port
  go (if maintReady s x then
      match pickItem x fun i => canFinish s x i.1 with
      | some m => startItem port m s
      | none => s
    else s)

/-- MAINTENANCE_FORCED (R272): an item that has waited 1 s. -/
def execMaintenanceForced (dt : Nat) (port : Port) (s : State) : Host.Outcome State Fault Refusal :=
  let s := elapse dt s
  let x := s.ports.get port
  go (if maintReady s x then
      match pickItem x fun i => decide (i.2 + Config.secPs ≤ s.now) with
      | some m => startItem port m s
      | none => s
    else s)

/-- `now` at which SnO is released after the pulse of the item in progress, where one is. -/
def releasedAt (x : PortState) : Option Nat := x.pulse.map fun u => u.at_ + u.width

/-- The release of the item in progress lies `ago` or more before now. -/
def releasedFor (ago : Nat) (x : PortState) (s : State) : Bool :=
  match releasedAt x with
  | some t => decide (t + ago ≤ s.now)
  | none => false

/-- PRESENCE_SAMPLE (R262, R279, R281): SnO low 20 µs after the release is a presence. -/
def execPresenceSample (dt : Nat) (port : Port) (low : Bool) (s : State) : Host.Outcome State Fault Refusal :=
  let s := elapse dt s
  let x := s.ports.get port
  go (if x.cur = some .reset ∧ inRun s = true ∧ releasedFor (20 * Config.usPs) x s = true then
      settleLine port (presence port low s)
    else s)

/-! ## Backward answers (R259, R261, R275, R276, R278) -/

/-- The query item in progress on the port ends; SnO is not driven before `t` (R261). -/
def endItem (p : Port) (t : Nat) (s : State) : State :=
  upPort p (fun x => { x with cur := none, pulse := none, freeAt := max x.freeAt t }) s

/-- TYPE of the answer to an item (Table 9-5). -/
def answerType (m : Maint) : Nat :=
  match m with
  | .status => 0x8
  | .identity => 0x9
  | _ => 0xA

/-- The answer is taken: HCRC, TYPE and FSEQ right, structure and tolerance right (R229, R261). -/
def answerOk (x : PortState) (m : Maint) (r : Return) : Bool :=
  headerOk r.header && hdrType r.header == answerType m && hdrFseq r.header == x.fseq && r.clean && decide (r.tol ≤ 8)

/-- CRC-8 over COUNT (R236, R254). -/
def countOk (r : Return) : Bool := crc8 (lsbBits 16 r.count.toNat) == r.countCrc.toNat

/-- A status answer of W words: word j belongs to position W - 1 - j (R275). -/
def statusAnswer (p : Port) (ws : List W12) (s : State) : State :=
  let s := upPort p (fun x => { x with w := some ws.length }) s
  let s := observations p (s.ports.get p).fseq ws.reverse s
  evidenceIfOk p (decide (ws.length < (s.ports.get p).cfg.n)) s

/-- Every CELL.IDENT waiting on the port has its words (R407). -/
def serveIdents (p : Port) (words : PortState) (s : State) : State :=
  let l := (s.ports.get p).idents
  l.foldl (fun s i => resolve i.tok stOk (identBytes words i.first i.count) s)
    (upPort p (fun x => { x with idents := [] }) s)

/-- The identity words of an answer, by position, those that pass their validation (R249, R407). -/
def identTab (n : Nat) (ws : List W64) : Tab W64 :=
  (List.range (min n ws.length)).foldl (fun t i =>
    let w := ws.reverse.getD i 0
    tset idBlank t i (if identValid w then w else 0)) []

/-- An identity answer, or none: its words serve the verbs that wait (R276, R407). -/
def identAnswer (p : Port) (ws : Option (List W64)) (s : State) : State :=
  match ws with
  | some l =>
    let s := upPort p (fun x => { x with ids := identTab x.cfg.n l }) s
    serveIdents p (s.ports.get p) s
  | none => serveIdents p { s.ports.get p with ids := [] } s

/-- A census answer that is not valid is asked for again, up to three times, and is then C = 0 (R278). -/
def censusRetry (p : Port) (s : State) : State :=
  let x := s.ports.get p
  if x.tries = 0 then probeOutcome p 0 s else addItem p .census (upPort p (fun x => { x with tries := x.tries - 1 }) s)

/-- What an answer does that is taken (`ok`) or discarded. -/
def itemAnswer (p : Port) (m : Maint) (r : Return) (ok : Bool) (s : State) : State :=
  match m with
  | .status => if ok then statusAnswer p r.words s else evidenceIfOk p true s
  | .census => if ok && countOk r then probeOutcome p r.count.toNat s else censusRetry p s
  | .identity => identAnswer p (if ok then some r.idents else none) s
  | .reset => s

/-- `now` by which the header of an answer must have arrived (R261). -/
def headerLimit (x : PortState) (released : Nat) : Nat :=
  released + x.cfg.n * 500000 + x.cfg.n * 8 * bitPs x.cfg.rate + 20 * Config.usPs

/-- An answer's preamble began while the node listened: from the release on, for 8 µs (R261). -/
def heard (released : Nat) (r : Return) (s : State) : Bool :=
  decide (released ≤ s.now - r.began) && decide (s.now - r.began ≤ released + 8 * Config.usPs)

/-- An answer ends in EOF or an abort: SnO may be driven 4 µs after it (R261). -/
def answerEnds (p : Port) (m : Maint) (released : Nat) (r : Return) (s : State) : State :=
  let x := s.ports.get p
  let ok := answerOk x m r && decide (s.now - r.headed ≤ headerLimit x released)
  itemAnswer p m r ok (endItem p (s.now + 4 * Config.usPs) (countTol p r.tol s))

/-- An answer discarded at its header limit ends. -/
def discardEnds (p : Port) (s : State) : State :=
  upPort p (fun x => { x with discarded := false, freeAt := max x.freeAt (s.now + 4 * Config.usPs) }) s

/-- BACKWARD_ANSWER (R261): the answer to the query in progress ends. One that began before the release or after the 8 µs is
none. -/
def execBackwardAnswer (dt : Nat) (port : Port) (r : Return) (s : State) : Host.Outcome State Fault Refusal :=
  let s := elapse dt s
  let x := s.ports.get port
  go (settleLine port (if x.discarded then discardEnds port s
    else match x.cur, releasedAt x with
      | some .reset, _ => s
      | some m, some t => if heard t r s then answerEnds port m t r s else s
      | _, _ => s))

/-- What a query without an answer means (R261, R275, R278). -/
def itemSilent (p : Port) (m : Maint) (s : State) : State :=
  match m with
  | .status => evidenceIfOk p true s
  | .census => probeOutcome p 0 s
  | .identity => identAnswer p none s
  | .reset => s

/-- No preamble by 8 µs after the release: the answer is over, and SnO is driven again 20 µs after the release (R261). -/
def noPreamble (p : Port) (m : Maint) (released : Nat) (s : State) : State :=
  if released + 8 * Config.usPs ≤ s.now then itemSilent p m (endItem p (released + 20 * Config.usPs) s) else s

/-- A discarded answer: for a status cycle a rejected one, for a census one asked for again [68]. -/
def itemDiscarded (p : Port) (m : Maint) (s : State) : State :=
  match m with
  | .census => censusRetry p s
  | m => itemSilent p m s

/-- No header by its limit: the answer is discarded, and SnO stays released until it has ended (R261). -/
def noHeader (p : Port) (m : Maint) (released : Nat) (s : State) : State :=
  if headerLimit (s.ports.get p) released ≤ s.now then
    itemDiscarded p m (upPort p (fun x => { x with discarded := true }) (endItem p s.now s))
  else s

/-- ANSWER_TIMEOUT (R261); `begun`: a preamble transition has arrived. -/
def execAnswerTimeout (dt : Nat) (port : Port) (begun : Bool) (s : State) : Host.Outcome State Fault Refusal :=
  let s := elapse dt s
  let x := s.ports.get port
  go (settleLine port (match x.cur, releasedAt x with
    | some .reset, _ => s
    | some m, some t => if begun then noHeader port m t s else noPreamble port m t s
    | _, _ => s))

/-! ## Probes, readiness, EOF -/

/-- The second's request of one port (R278, R280). -/
def periodicPort (p : Port) (s : State) : State :=
  let x := s.ports.get p
  if !portLive s x || !x.cfg.enable then s
  else match x.state with
    | .nochain => wantReset p .probe s
    | .broken _ => addItem p .census s
    | .ok => if x.cfg.stub then addItem p .census s else s
    | _ => s

/-- PERIODIC_PROBE (R278): at a multiple of 4096 ticks in RUN. -/
def execPeriodicProbe (dt : Nat) (s : State) : Host.Outcome State Fault Refusal :=
  let s := elapse dt s
  go (if inRun s && decide (wtN s % 4096 = 0) then eachPort periodicPort s else s)

/-- READINESS_TIMEOUT (R90): 1 s after its first frame the port is treated as ready and reported. -/
def execReadinessTimeout (dt : Nat) (port : Port) (s : State) : Host.Outcome State Fault Refusal :=
  let s := elapse dt s
  let x := s.ports.get port
  go (match x.firstAt with
    | some t =>
      if x.cfg.enable = true ∧ x.ready = false ∧ inRun s = true ∧ t + Config.secPs ≤ s.now then
        raisePort port x.state.code x.state.code 1 (markReady port s)
      else s
    | none => s)

/-- LAMPEN_ASSERT (R37, R64, R90, R427). -/
def execLampenAssert (dt : Nat) (s : State) : Host.Outcome State Fault Refusal :=
  let s := elapse dt s
  go (if inRun s && !s.pw.vioLow && allReady s then { s with pw.lampMet := true, pw.lampen := !s.pw.lampHold } else s)

/-- STRING_FRAME_EOF (R90, R392, R406, Table 10-6): a forward frame has ended on SnO. -/
def execStringFrameEof (dt : Nat) (port : Port) (s : State) : Host.Outcome State Fault Refusal :=
  let s := elapse dt s
  let x := s.ports.get port
  go (if x.last.isSome && decide (x.eofAt ≤ s.now) then
      let s := upPort port (fun x =>
        { x with release := false, ready := x.ready || (x.cfg.enable && x.cfg.stub && x.framed) }) s
      configDone port s
    else s)

end Sys2Proof.Machine
end

