-- ==== Sys2Proof/Machine/EvRelay.lean ====
section
/-!
DEFINITION. Relay mode (01, 10): input frames on S0R, the frames they drive on S1 to S3, forwarding on S0O, and the loss of
the input.
-/
namespace Sys2Proof.Machine

/-- An input header is valid: HCRC right, a width that is not reserved, and FMT 0xB on CONFIG (R238, R243). -/
def inputValid (h : W32) : Bool :=
  headerOk h && hdrFmt h / 4 != 3 && (hdrType h != tyConfig || hdrFmt h == 0xB)

/-- Cells a port takes from the input; a port that is off takes none (R284). -/
def relayCells (s : State) (p : Port) : Nat := if pstate s p = .off then 0 else (s.ports.get p).cfg.n

/-- The first input slot of port `p` (R285). -/
def relayFirst (s : State) (p : Port) : Nat :=
  if p = 2 then relayCells s 1 else if p = 3 then relayCells s 1 + relayCells s 2 else 0

/-- The consumed slots N (R284). -/
def relayCount (s : State) : Nat := relayCells s 1 + relayCells s 2 + relayCells s 3

/-- The last good values of an input slot never received are not held. -/
def goodBlank (_ : Nat) : List W16 := []

/-- Slots with a right CRC become the last good values, widened to 16 bits (R239, R240, R285, R286). -/
def takeSlots (w : Nat) : Nat → List Slot → Tab (List W16) → Tab (List W16)
  | _, [], t => t
  | i, x :: l, t =>
    takeSlots w (i + 1) l
      (if slotGood w x then tset goodBlank t i (x.values.map fun v => BitVec.ofNat 16 (widen w v.toNat)) else t)

/-- The slots that are taken: a frame of more than 8 TOL events is rejected from the ninth on (R229). -/
def usedSlots (f : RelayIn) : List Slot := if f.tol > 8 then f.slots.take f.tolSlots else f.slots

/-- The 16-bit value of channel `c` of input slot `i`: the last good one, a channel that is missing 0 (R285, R286); a slot
never received well is a free value. -/
def relayValue (t : Tab (List W16)) (i c : Nat) : Nat :=
  match tget goodBlank t i with
  | [] => (Config.noGoodYet i c).toNat
  | l => (l.getD c 0).toNat

/-- Stages 1 to 3 in relay mode (R285, Table 1-4). -/
def relayInput (s : State) (g c : Nat) : Int :=
  let p := portOf (BitVec.ofNat 8 (g / 1024))
  relayValue s.relay.good (relayFirst s p + g % 1024) c

/-- `now` at which port `p` starts its frame (R287), with the input header's start at `now`. -/
def relayStart (s : State) (f : RelayIn) (p : Port) : Nat :=
  let t := bitPs (BitVec.ofNat 8 f.rate)
  let sIn := slotLen (hdrFmt f.header)
  let sOut := slotLen (s.ports.get p).cfg.fmt.toNat
  let h := s.now + 32 * t
  let e := h + (relayFirst s p + 1) * sIn * t
  let d := Config.usPs + (relayCells s p - 1) * (sIn - sOut) * t
  max (h + 32 * t) (e + d) - 50 * t

/-- S1 to S3 take the input's rate (R285). -/
def relayRates (f : RelayIn) (s : State) : State :=
  upPorts (fun p x => if p = 0 then x else { x with cfg.rate := BitVec.ofNat 8 f.rate }) s

/-- The slots of port `p`'s derived frame; while rendering is frozen the last values stay (R94). -/
def relaySlots (t : W48) (s : State) (p : Port) : List (List Nat) :=
  if sendsData s (s.ports.get p) then
    (if s.pw.frozen then frozenSlots s p else renderSlots s t.toNat (relayInput s) p)
  else []

/-- SnO is not free at the input header: an item, or a frame still on the line (R287). -/
def lineBusy (s : State) (x : PortState) : Bool := busyItem x || decide (s.now < x.freeAt)

/-- Port `p` sends its derived frame, and is ready with it; busy at the input header, it skips it (R90, R287). -/
def relayPort (f : RelayIn) (s : State) (e : Port × List (List Nat)) : State :=
  let x := s.ports.get e.1
  if !sendsData s x then s
  else if holding x || lineBusy s x then countSkip e.1 s
  else markReady e.1 (emitFrame e.1 e.2 (relayStart s f e.1) (Nat.testBit f.header.toNat 17) s)

/-- What S1 to S3 send, rendered from one state for all of them (R19). -/
def relaySent (t : W48) (s : State) : List (Port × List (List Nat)) := [1, 2, 3].map fun p => (p, relaySlots t s p)

/-- The frames an input DATA frame drives on S1 to S3 (R18, R285 to R287). -/
def relayFrames (f : RelayIn) (t : W48) (s : State) : State :=
  if !s.relay.on || hdrType f.header != tyData then s
  else
    let s := relayRates f s
    (relaySent t s).foldl (relayPort f) s

/-- A header that is wrong ends the derived frames that have already started: EOF at its end (R286). Their FSEQ, not sent yet,
does not count: DESIGN CHOICE [70]. -/
def cutPort (f : RelayIn) (s : State) (p : Port) : State :=
  let x := s.ports.get p
  let t := bitPs (BitVec.ofNat 8 f.rate)
  let h := s.now + 32 * t
  if sendsData s x && !holding x && !lineBusy s x && decide (relayStart s f p < h) then
    upPort p (fun x => { x with cutAt := some h, eofAt := h, freeAt := h + 16 * t }) s
  else s

/-- The derived frames of an input frame whose header proves wrong (R243, R286). -/
def cutDerived (f : RelayIn) (s : State) : State :=
  if hdrType f.header != tyData || hdrFmt f.header / 4 == 3 then s else ([1, 2, 3] : List Port).foldl (cutPort f) s

/-- The count a node forwards, as a cell does: COUNT + 1 with a new CRC-8, its complement where the input's is wrong (R254)
[69]. -/
def forwardCount (c : W16 × Byte) : W16 × Byte :=
  let out := c.1 + 1
  let crc : Byte := BitVec.ofNat 8 (crc8 (lsbBits 16 out.toNat))
  (out, if crc8 (lsbBits 16 c.1.toNat) = c.2.toNat then crc else ~~~crc)

/-- The elements forwarded on S0O: DATA and CONFIG without the first N slots, CENSUS with its count, other types without
payload; tail unchanged, EOF at once after a code error (R237, R241, R243, R288). -/
def forwardOf (f : RelayIn) (s : State) : PFrame :=
  { header := f.header
    slots := if hasSlots (hdrType f.header) then f.slots.drop (relayCount s) else []
    census := if hdrType f.header = 4 then f.census.map forwardCount else none
    tail := f.tail
    cut := !f.clean }

/-- Bit times of payload, TM, tail and EOF of a forwarded frame. -/
def afterHeader (x : PFrame) : Nat :=
  x.slots.length * slotLen (hdrFmt x.header) + (if x.census.isSome then 24 else 0) + 2 + 12 * x.tail.length + 2

/-- S0O forwards the input frame, its header delayed by 4 T, or by N slots and 4 T where it carries slots (R242, R288). -/
def forwardInput (f : RelayIn) (s : State) : State :=
  if !s.relay.on then s
  else
    let x := forwardOf f s
    let n := if hasSlots (hdrType f.header) then relayCount s * slotLen (hdrFmt f.header) else 0
    { s with relay.forwarded := some x,
             relay.outEnd := s.now + (32 + n + 4 + afterHeader x) * bitPs (BitVec.ofNat 8 f.rate) }

/-- S0O cuts a frame whose header is wrong with EOF (R243). -/
def forwardCut (f : RelayIn) (s : State) : State :=
  { s with relay.forwarded := none, relay.outEnd := s.now + 36 * bitPs (BitVec.ofNat 8 f.rate) }

/-- An input header: the interval since the one before it (R289). -/
def headerSeen (s : State) : State :=
  { s with relay.gap := (s.relay.hdrAt.map fun t => s.now - t).getD 0, relay.hdrAt := some s.now }

/-- A DATA header is valid: the input is being received, and the slots' values are taken (R286, R290). -/
def takeInput (f : RelayIn) (s : State) : State :=
  let s := if s.relay.input = .lost then raisePort 0 PState.relay.code PState.relay.code 4 s else s
  markReady 0 { s with
    relay.input := .receiving
    relay.headerAt := s.now
    relay.keepStop := false
    relay.good := takeSlots (fmtWidth (hdrFmt f.header)) 0 (usedSlots f) s.relay.good }

/-- A valid input header is a frame boundary (Table 1-4); what S0O forwards follows the parameters that come into force with
it (R18, R22). -/
def relayHeader (f : RelayIn) (s : State) : State :=
  let s := if hdrType f.header = tyData then takeInput f s else s
  forwardInput f (boundaryWith (relayFrames f) s.ka.wt s)

/-- RELAY_INPUT_FRAME (R284 to R288, Table 1-4), at the start of the input header. -/
def execRelayInputFrame (dt : Nat) (f : RelayIn) (s : State) : Host.Outcome State Fault Refusal :=
  let s := elapse dt s
  go (if !s.relay.on || !inRun s || s.pw.vioLow then s
    else
      let s := headerSeen (countTol 0 f.tol s)
      if inputValid f.header then relayHeader f s else forwardCut f (cutDerived f s))

/-- d_f of a low in picoseconds, 0.3 to 0.4 µs, and how much shorter d_r is, at most 5 ns (R257): free values. -/
def lowDelays (n : Nat) : Nat × Nat := (300000 + Config.lowDelay n % 100001, Config.lowDelay (n + 1) % 5001)

/-- The mark of the query class a measured width falls in, ps (R257, Table 9-11); 0 outside the classes. -/
def lowMark (ps : Nat) : Nat :=
  if 1600000 ≤ ps ∧ ps ≤ 2400000 then 2 * Config.usPs
  else if 3200000 ≤ ps ∧ ps ≤ 4800000 then 4 * Config.usPs
  else if 6400000 ≤ ps ∧ ps ≤ 9600000 then 8 * Config.usPs
  else 0

/-- A low on S0R that has just ended: S0O goes low d_f after its start, or at the end of the frame being sent where that is
later, if the input is still low then; it is released d_r after the input's release, or at the class's mark (R257). -/
def passLow (width : Nat) (s : State) : State :=
  let (df, less) := lowDelays s.draws
  let from_ := max (s.now - width + df) s.relay.outEnd
  let s := spend (spend s)
  if from_ < s.now then
    { s with relay.low := some { at_ := from_, width := max (s.now + (df - less)) (from_ + lowMark width) - from_ } }
  else s

/-- RELAY_INPUT_LOW (R257, R288), at the end of the low: it is never answered and resets nothing. While VIO is low no port
passes it on (R64). -/
def execRelayInputLow (dt : Nat) (widthNs : Nat) (s : State) : Host.Outcome State Fault Refusal :=
  let s := elapse dt s
  go (if !s.relay.on || !inRun s || s.pw.vioLow then s else passLow (1000 * widthNs) s)

/-- RELAY_INPUT_LOSS (R290): 100 ms without a valid DATA header. -/
def execRelayInputLoss (dt : Nat) (s : State) : Host.Outcome State Fault Refusal :=
  let s := elapse dt s
  go (if s.relay.on = true ∧ inRun s = true ∧ s.relay.input ≠ .lost ∧ s.relay.headerAt + 100 * Config.msPs ≤ s.now then
      raisePort 0 PState.relay.code PState.relay.code 3
        { s with relay.input := .lost, relay.lossAt := s.now, relay.keepAt := s.now - 100 * Config.msPs,
                 relay.keepStop := false }
    else s)

/-- A KEEP frame on one of S1 to S3, once SnO is free (R233, R235, R290). -/
def relayKeepPort (s : State) (p : Port) : State :=
  let x := s.ports.get p
  if !(portLive s x && x.state.running) then s
  else if busyItem x then upPort p (fun x => { x with keepDue := true }) s
  else sendKeep p s.now s

/-- RELAY_KEEP (R290): every 100 ms from the declaration of loss on. -/
def execRelayKeep (dt : Nat) (s : State) : Host.Outcome State Fault Refusal :=
  let s := elapse dt s
  go (if s.relay.on = true ∧ inRun s = true ∧ s.relay.input = .lost ∧ s.relay.keepStop = false
        ∧ s.relay.keepAt + 100 * Config.msPs ≤ s.now then
      ([1, 2, 3] : List Port).foldl relayKeepPort { s with relay.keepAt := s.now }
    else s)

/-- RELAY_HOLD_LIMIT (R290, R409): KEEP frames stop at the hold limit; 0 sets none. -/
def execRelayHoldLimit (dt : Nat) (s : State) : Host.Outcome State Fault Refusal :=
  let s := elapse dt s
  go (if s.relay.on = true ∧ s.relay.input = .lost ∧ s.cfg.relayHold ≠ 0
        ∧ s.relay.lossAt + Config.secPs * s.cfg.relayHold ≤ s.now then
      { s with relay.keepStop := true }
    else s)

end Sys2Proof.Machine
end

