-- ==== Sys2Proof/Machine/EvReports.lean ====
section
/-!
DEFINITION. Reports and timeouts (11 to 17): EVT.FAIL and the other events as they reach their queue, the buffers and
sessions that expire, the end of an image verification and the confirmation of an image on trial.
-/
namespace Sys2Proof.Machine

/-! ## Reports (R174, R352 to R356) -/

/-- EVT_FAIL (R354). -/
def execEvtFail (dt : Nat) (s : State) : Host.Outcome State Fault Refusal :=
  let s := elapse dt s
  go (if failDue s then makeFail s else s)

/-- EVENT_HOLDOFF_EXPIRY (R356). -/
def execEventHoldoffExpiry (dt : Nat) (s : State) : Host.Outcome State Fault Refusal :=
  let s := elapse dt s
  go (if inRun s && !npBlocked s then
      (match takeDue s.now s.ev.held with
        | some (e, l) => heldEvent e { s with ev.held := l }
        | none => s)
    else s)

/-! ## Timeouts (R201, R386, R402, R432, R435) -/

/-- STAGE_TIMEOUT (R201): 60 s without a staging verb from the owner and without an armed commit. -/
def execStageTimeout (dt : Nat) (s : State) : Host.Outcome State Fault Refusal :=
  let s := elapse dt s
  go (if s.st.owner.isSome && s.st.commit.isNone && decide (s.st.lastAt + 60 * Config.secPs ≤ s.now) then abortStage s
    else s)

/-- SCENE_BUFFER_TIMEOUT (R386). -/
def execSceneBufferTimeout (dt : Nat) (s : State) : Host.Outcome State Fault Refusal :=
  let s := elapse dt s
  go (match s.nv.sceneBuf with
    | some x => if x.lastAt + 10 * Config.secPs ≤ s.now then { s with nv.sceneBuf := none } else s
    | none => s)

/-- CURVE_BUFFER_TIMEOUT (R402). -/
def execCurveBufferTimeout (dt : Nat) (s : State) : Host.Outcome State Fault Refusal :=
  let s := elapse dt s
  go (match s.nv.curveBuf with
    | some x => if x.lastAt + 10 * Config.secPs ≤ s.now then { s with nv.curveBuf := none } else s
    | none => s)

/-- FW_SESSION_TIMEOUT (R432). -/
def execFwSessionTimeout (dt : Nat) (s : State) : Host.Outcome State Fault Refusal :=
  let s := elapse dt s
  go (match s.fw.session with
    | some x => if x.lastAt + 60 * Config.secPs ≤ s.now then { s with fw.session := none } else s
    | none => s)

/-- NONCE_EXPIRY (R435). -/
def execNonceExpiry (dt : Nat) (s : State) : Host.Outcome State Fault Refusal :=
  let s := elapse dt s
  go { s with sec.nonces := s.sec.nonces.filter fun x => decide (s.now < x.at_ + nonceLife) }

/-! ## Firmware (R433, R459, R461) -/

/-- The image under verification, as the slot holds it. -/
def verifyImage (v : Verify) (s : State) : List Byte := nvBytesAt s (slotBase v.slot) v.size

/-- A verification ends: the slot is VERIFIED or REJECTED, which a security configuration copy stores, and FW.FINISH has its
result (R433, R459). -/
def endVerify (v : Verify) (s : State) : State :=
  let image := verifyImage v s
  let k := verdict image v.size s.node.member
  let s := { s with fw.verify := none, fw.partials := s.fw.partials &&& ~~~ BitVec.ofNat 2 v.slot }
  resolve v.tok stOk [BitVec.ofNat 8 k]
    (commitSec (if k = 0 then .verified v.slot (BitVec.ofNat 32 (crc32 image)) else .rejected v.slot) s)

/-- FW_VERIFICATION_END (R433). -/
def execFwVerificationEnd (dt : Nat) (s : State) : Host.Outcome State Fault Refusal :=
  let s := elapse dt s
  go (match s.fw.verify with
    | some v => if inRun s then endVerify v s else s
    | none => s)

/-- The image on trial may confirm itself, and its commit is not yet under way (R461). -/
def confirmDue (s : State) : Bool :=
  inRun s && s.fw.trial && s.fw.sawKey && s.fw.sawPort
    && s.nv.jobs.all fun j => match j.kind with
      | .security (.confirmed _) => false
      | _ => true

/-- FW_CONFIRMATION (R461): a copy with CONFIRMED set to the running slot and PENDING 0 is written. -/
def execFwConfirmation (dt : Nat) (s : State) : Host.Outcome State Fault Refusal :=
  let s := elapse dt s
  go (if confirmDue s then addJob (secJob (.confirmed s.fw.run) [] none s) s else s)

end Sys2Proof.Machine
end

