-- ==== Sys2Proof/Machine/ExecVerbs.lean ====
section
/-!
DEFINITION. The verbs as commands: each is a clause of that one verb (`runVerb`); its checks, effect and answer are its
row of Sys2Proof/Machine/Verbs.lean.
-/
namespace Sys2Proof.Machine

/-- ID_READ (R366). -/
def execIdRead (q : Req) (s : State) : Host.Outcome State Fault Refusal :=
  go (runVerb q (.idRead q) s)

/-- NODE_STATUS (R366). -/
def execNodeStatus (q : Req) (s : State) : Host.Outcome State Fault Refusal :=
  go (runVerb q (.nodeStatus q) s)

/-- NODE_RESET (R367). -/
def execNodeReset (q : Req) (mode confirm : Byte) (s : State) : Host.Outcome State Fault Refusal :=
  go (runVerb q (.nodeReset q mode confirm) s)

/-- FACTORY_RESET (R225). -/
def execFactoryReset (q : Req) (confirm : Byte) (s : State) : Host.Outcome State Fault Refusal :=
  go (runVerb q (.factoryReset q confirm) s)

/-- NODE_REST (R368). -/
def execNodeRest (q : Req) (mode keep : Byte) (hold : W16) (s : State) : Host.Outcome State Fault Refusal :=
  go (runVerb q (.nodeRest q mode keep hold) s)

/-- ADDR_SET (R370). -/
def execAddrSet (q : Req) (addr : W16) (uid : W64) (s : State) : Host.Outcome State Fault Refusal :=
  go (runVerb q (.addrSet q addr uid) s)

/-- ADDR_CLAIM (R371). -/
def execAddrClaim (q : Req) (value mask : W64) (spread : Byte) (s : State) : Host.Outcome State Fault Refusal :=
  go (runVerb q (.addrClaim q value mask spread) s)

/-- GROUP_SET (R373). -/
def execGroupSet (q : Req) (op : Byte) (map : BitVec 256) (s : State) : Host.Outcome State Fault Refusal :=
  go (runVerb q (.groupSet q op map) s)

/-- GROUP_READ (R369). -/
def execGroupRead (q : Req) (s : State) : Host.Outcome State Fault Refusal :=
  go (runVerb q (.groupRead q) s)

/-- ROLLCALL (R374). -/
def execRollcall (q : Req) (base : W16) (count kind : Byte) (s : State) : Host.Outcome State Fault Refusal :=
  go (runVerb q (.rollcall q base count kind) s)

/-- WINK (R377). -/
def execWink (q : Req) (seconds : W16) (ports : Byte) (s : State) : Host.Outcome State Fault Refusal :=
  go (runVerb q (.wink q seconds ports) s)

/-- TIME_KEYSTONE (R194). -/
def execTimeKeystone (q : Req) (k : W48) (s : State) : Host.Outcome State Fault Refusal :=
  go (runVerb q (.timeKeystone q k) s)

/-- TIME_READ (R379). -/
def execTimeRead (q : Req) (s : State) : Host.Outcome State Fault Refusal :=
  go (runVerb q (.timeRead q) s)

/-- FRAME_RATE (R380). -/
def execFrameRate (q : Req) (mode : Byte) (value : W16) (s : State) : Host.Outcome State Fault Refusal :=
  go (runVerb q (.frameRate q mode value) s)

/-- SYNC_CFG (R381). -/
def execSyncCfg (q : Req) (mode : Byte) (s : State) : Host.Outcome State Fault Refusal :=
  go (runVerb q (.syncCfg q mode) s)

/-- LEVEL_SET (R295). -/
def execLevelSet (q : Req) (zone mask : Byte) (level : W16) (s : State) : Host.Outcome State Fault Refusal :=
  go (runVerb q (.levelSet q zone mask level) s)

/-- FADE_START (R382). -/
def execFadeStart (q : Req) (zone mask flags : Byte) (start target : W16) (dur : W32) (curve : Byte)
    (s : State) : Host.Outcome State Fault Refusal :=
  go (runVerb q (.fadeStart q zone mask flags start target dur curve) s)

/-- FADE_STOP (R295). -/
def execFadeStop (q : Req) (zone mask : Byte) (s : State) : Host.Outcome State Fault Refusal :=
  go (runVerb q (.fadeStop q zone mask) s)

/-- EFFECT_SET (R298). -/
def execEffectSet (q : Req) (zone mask curve : Byte) (depth : W16) (period : W32)
    (s : State) : Host.Outcome State Fault Refusal :=
  go (runVerb q (.effectSet q zone mask curve depth period) s)

/-- EFFECT_CLEAR (R298). -/
def execEffectClear (q : Req) (zone : Byte) (s : State) : Host.Outcome State Fault Refusal :=
  go (runVerb q (.effectClear q zone) s)

/-- MASTER_SET (R382). -/
def execMasterSet (q : Req) (flags : Byte) (start target : W16) (dur : W32) (curve : Byte)
    (s : State) : Host.Outcome State Fault Refusal :=
  go (runVerb q (.masterSet q flags start target dur curve) s)

/-- OUTCURVE_SET (R300). -/
def execOutcurveSet (q : Req) (classes curve : Byte) (s : State) : Host.Outcome State Fault Refusal :=
  go (runVerb q (.outcurveSet q classes curve) s)

/-- LEVEL_READ (R383). -/
def execLevelRead (q : Req) (zone : Byte) (s : State) : Host.Outcome State Fault Refusal :=
  go (runVerb q (.levelRead q zone) s)

/-- SCENE_RECALL (R336). -/
def execSceneRecall (q : Req) (slot : Byte) (s : State) : Host.Outcome State Fault Refusal :=
  go (runVerb q (.sceneRecall q slot) s)

/-- SCENE_CAPTURE (R385). -/
def execSceneCapture (q : Req) (slot zone : Byte) (deffade : W32) (s : State) : Host.Outcome State Fault Refusal :=
  go (runVerb q (.sceneCapture q slot zone deffade) s)

/-- SCENE_WRITE (R386). -/
def execSceneWrite (q : Req) (slot flags : Byte) (offset : W16) (deffade : W32) (records : List Byte)
    (s : State) : Host.Outcome State Fault Refusal :=
  go (runVerb q (.sceneWrite q slot flags offset deffade records) s)

/-- SCENE_READ (R387). -/
def execSceneRead (q : Req) (slot : Byte) (offset : W16) (len : Byte)
    (s : State) : Host.Outcome State Fault Refusal :=
  go (runVerb q (.sceneRead q slot offset len) s)

/-- SCENE_ERASE (R388). -/
def execSceneErase (q : Req) (slot : Byte) (s : State) : Host.Outcome State Fault Refusal :=
  go (runVerb q (.sceneErase q slot) s)

/-- SCENE_LIST (R389). -/
def execSceneList (q : Req) (boot : Option Byte) (s : State) : Host.Outcome State Fault Refusal :=
  go (runVerb q (.sceneList q boot) s)

/-- DECK_WRITE (R394). -/
def execDeckWrite (q : Req) (first : W16) (entries : List Byte) (s : State) : Host.Outcome State Fault Refusal :=
  go (runVerb q (.deckWrite q first entries) s)

/-- DECK_READ (R395). -/
def execDeckRead (q : Req) (bank : Byte) (first : W16) (count : Byte)
    (s : State) : Host.Outcome State Fault Refusal :=
  go (runVerb q (.deckRead q bank first count) s)

/-- STAGE_BEGIN (R198). -/
def execStageBegin (q : Req) (s : State) : Host.Outcome State Fault Refusal :=
  go (runVerb q (.stageBegin q) s)

/-- STAGE_COMMIT (R397). -/
def execStageCommit (q : Req) (flags : Byte) (c : W48) (s : State) : Host.Outcome State Fault Refusal :=
  go (runVerb q (.stageCommit q flags c) s)

/-- STAGE_ABORT (R399). -/
def execStageAbort (q : Req) (s : State) : Host.Outcome State Fault Refusal :=
  go (runVerb q (.stageAbort q) s)

/-- DECK_SAVE (R331). -/
def execDeckSave (q : Req) (s : State) : Host.Outcome State Fault Refusal :=
  go (runVerb q (.deckSave q) s)

/-- DECK_LOAD (R400). -/
def execDeckLoad (q : Req) (first count : Byte) (s : State) : Host.Outcome State Fault Refusal :=
  go (runVerb q (.deckLoad q first count) s)

/-- CURVE_WRITE (R402). -/
def execCurveWrite (q : Req) (id flags : Byte) (first : W16) (points : List W16)
    (s : State) : Host.Outcome State Fault Refusal :=
  go (runVerb q (.curveWrite q id flags first points) s)

/-- CURVE_READ (R403). -/
def execCurveRead (q : Req) (id : Byte) (first : W16) (count : Byte) (s : State) : Host.Outcome State Fault Refusal :=
  go (runVerb q (.curveRead q id first count) s)

/-- PORT_CFG (R404). -/
def execPortCfg (q : Req) (port flags rate fmt : Byte) (n : W16) (interval : Byte)
    (s : State) : Host.Outcome State Fault Refusal :=
  go (runVerb q (.portCfg q port flags rate fmt n interval) s)

/-- PORT_STATUS (R280). -/
def execPortStatus (q : Req) (port : Byte) (s : State) : Host.Outcome State Fault Refusal :=
  go (runVerb q (.portStatus q port) s)

/-- PORT_CENSUS (R280). -/
def execPortCensus (q : Req) (s : State) : Host.Outcome State Fault Refusal :=
  go (runVerb q (.portCensus q) s)

/-- CELL_SIDECFG (R405). -/
def execCellSidecfg (q : Req) (ports mode : Byte) (first last : W16) (wdog : Byte) (failsafe : W16) (cls : Byte) (poweron : W16)
    (s : State) : Host.Outcome State Fault Refusal :=
  go (runVerb q (.cellSidecfg q ports mode first last wdog failsafe cls poweron) s)

/-- CELL_IDENT (R407). -/
def execCellIdent (q : Req) (port : Byte) (first : W16) (count : Byte)
    (s : State) : Host.Outcome State Fault Refusal :=
  go (runVerb q (.cellIdent q port first count) s)

/-- PORT_PROBE (R408). -/
def execPortProbe (q : Req) (port kind : Byte) (s : State) : Host.Outcome State Fault Refusal :=
  go (runVerb q (.portProbe q port kind) s)

/-- RELAY_CFG (R409). -/
def execRelayCfg (q : Req) (mode : Byte) (hold : W16) (s : State) : Host.Outcome State Fault Refusal :=
  go (runVerb q (.relayCfg q mode hold) s)

/-- FAIL_SUMMARY (R410). -/
def execFailSummary (q : Req) (s : State) : Host.Outcome State Fault Refusal :=
  go (runVerb q (.failSummary q) s)

/-- FAIL_MAP (R411). -/
def execFailMap (q : Req) (page mode first count : Byte) (s : State) : Host.Outcome State Fault Refusal :=
  go (runVerb q (.failMap q page mode first count) s)

/-- FAIL_NOTIFY (R412). -/
def execFailNotify (q : Req) (args : Option (W16 × Byte × Byte × Byte × Byte))
    (s : State) : Host.Outcome State Fault Refusal :=
  go (runVerb q (.failNotify q args) s)

/-- COUNTER_READ (R413). -/
def execCounterRead (q : Req) (what : Byte) (first : W16) (count : Byte)
    (s : State) : Host.Outcome State Fault Refusal :=
  go (runVerb q (.counterRead q what first count) s)

/-- COUNTER_SAVE (R414). -/
def execCounterSave (q : Req) (flags period : Byte) (s : State) : Host.Outcome State Fault Refusal :=
  go (runVerb q (.counterSave q flags period) s)

/-- CONCEAL_CFG (R415). -/
def execConcealCfg (q : Req) (flags : Option Byte) (s : State) : Host.Outcome State Fault Refusal :=
  go (runVerb q (.concealCfg q flags) s)

/-- LINK_STATS (R416). -/
def execLinkStats (q : Req) (mode : Byte) (s : State) : Host.Outcome State Fault Refusal :=
  go (runVerb q (.linkStats q mode) s)

/-- NV_READ (R420). -/
def execNvRead (q : Req) (addr : W32) (len : Byte) (s : State) : Host.Outcome State Fault Refusal :=
  go (runVerb q (.nvRead q addr len) s)

/-- NV_WRITE (R421). -/
def execNvWrite (q : Req) (addr : W32) (data : List Byte) (s : State) : Host.Outcome State Fault Refusal :=
  go (runVerb q (.nvWrite q addr data) s)

/-- NV_ERASE (R422). -/
def execNvErase (q : Req) (sector : Byte) (s : State) : Host.Outcome State Fault Refusal :=
  go (runVerb q (.nvErase q sector) s)

/-- NV_PROTECT (R423). -/
def execNvProtect (q : Req) (v : Byte) (s : State) : Host.Outcome State Fault Refusal :=
  go (runVerb q (.nvProtect q v) s)

/-- NV_STATUS (R417). -/
def execNvStatus (q : Req) (s : State) : Host.Outcome State Fault Refusal :=
  go (runVerb q (.nvStatus q) s)

/-- POWER_STATUS (R424). -/
def execPowerStatus (q : Req) (s : State) : Host.Outcome State Fault Refusal :=
  go (runVerb q (.powerStatus q) s)

/-- RESERVE_CFG (R425). -/
def execReserveCfg (q : Req) (mode present vchg ichg darkcut : Byte) (chold : W16)
    (s : State) : Host.Outcome State Fault Refusal :=
  go (runVerb q (.reserveCfg q mode present vchg ichg darkcut chold) s)

/-- HARVEST_CFG (R426). -/
def execHarvestCfg (q : Req) (mode enable k period : Byte) (s : State) : Host.Outcome State Fault Refusal :=
  go (runVerb q (.harvestCfg q mode enable k period) s)

/-- LAMPEN_SET (R427). -/
def execLampenSet (q : Req) (mode : Byte) (s : State) : Host.Outcome State Fault Refusal :=
  go (runVerb q (.lampenSet q mode) s)

/-- GPIO_CFG (R428). -/
def execGpioCfg (q : Req) (pin mode init : Byte) (s : State) : Host.Outcome State Fault Refusal :=
  go (runVerb q (.gpioCfg q pin mode init) s)

/-- GPIO_RW (R429). -/
def execGpioRw (q : Req) (wmask wlevel : Byte) (s : State) : Host.Outcome State Fault Refusal :=
  go (runVerb q (.gpioRw q wmask wlevel) s)

/-- TEMP_READ (R417). -/
def execTempRead (q : Req) (s : State) : Host.Outcome State Fault Refusal :=
  go (runVerb q (.tempRead q) s)

/-- FW_INFO (R430). -/
def execFwInfo (q : Req) (s : State) : Host.Outcome State Fault Refusal :=
  go (runVerb q (.fwInfo q) s)

/-- FW_BEGIN (R431). -/
def execFwBegin (q : Req) (size : W32) (s : State) : Host.Outcome State Fault Refusal :=
  go (runVerb q (.fwBegin q size) s)

/-- FW_CHUNK (R432). -/
def execFwChunk (q : Req) (offset : W32) (data : List Byte) (s : State) : Host.Outcome State Fault Refusal :=
  go (runVerb q (.fwChunk q offset data) s)

/-- FW_FINISH (R433). -/
def execFwFinish (q : Req) (s : State) : Host.Outcome State Fault Refusal :=
  go (runVerb q (.fwFinish q) s)

/-- FW_ACTIVATE (R434). -/
def execFwActivate (q : Req) (mode : Byte) (s : State) : Host.Outcome State Fault Refusal :=
  go (runVerb q (.fwActivate q mode) s)

/-- SEC_CHALLENGE (R435). -/
def execSecChallenge (q : Req) (s : State) : Host.Outcome State Fault Refusal :=
  go (runVerb q (.secChallenge q) s)

/-- SEC_SETKEY (R437). -/
def execSecSetkey (q : Req) (form : Byte) (nonce : W64) (key : List Byte) (kcv : W32)
    (s : State) : Host.Outcome State Fault Refusal :=
  go (runVerb q (.secSetkey q form nonce key kcv) s)

/-- SEC_LOCK (R438). -/
def execSecLock (q : Req) (mode : Byte) (nonce : W64) (s : State) : Host.Outcome State Fault Refusal :=
  go (runVerb q (.secLock q mode nonce) s)

/-- SPAN_CFG (R439). -/
def execSpanCfg (q : Req) (mode flags : Byte) (defrate : W32) (s : State) : Host.Outcome State Fault Refusal :=
  go (runVerb q (.spanCfg q mode flags defrate) s)

/-- SPAN_STATUS (R440). -/
def execSpanStatus (q : Req) (mode : Byte) (s : State) : Host.Outcome State Fault Refusal :=
  go (runVerb q (.spanStatus q mode) s)

end Sys2Proof.Machine
end

