-- ==== Sys2Proof/Machine/Dispatch.lean ====
section
/-!
DEFINITION. The dispatch: one arm per command of the opcode table, each a direct call of its meaning.
-/
namespace Sys2Proof.Machine

/-- The effect of a command on everything but the queue. -/
def exec (i : Instr) (s : State) : Host.Outcome State Fault Refusal :=
  match i with
  | .idRead q => Sys2Proof.Machine.execIdRead q s
  | .nodeStatus q => Sys2Proof.Machine.execNodeStatus q s
  | .nodeReset q mode confirm => Sys2Proof.Machine.execNodeReset q mode confirm s
  | .factoryReset q confirm => Sys2Proof.Machine.execFactoryReset q confirm s
  | .nodeRest q mode keep hold => Sys2Proof.Machine.execNodeRest q mode keep hold s
  | .addrSet q addr uid => Sys2Proof.Machine.execAddrSet q addr uid s
  | .addrClaim q value mask spread => Sys2Proof.Machine.execAddrClaim q value mask spread s
  | .groupSet q op map => Sys2Proof.Machine.execGroupSet q op map s
  | .groupRead q => Sys2Proof.Machine.execGroupRead q s
  | .rollcall q base count kind => Sys2Proof.Machine.execRollcall q base count kind s
  | .wink q seconds ports => Sys2Proof.Machine.execWink q seconds ports s
  | .timeKeystone q k => Sys2Proof.Machine.execTimeKeystone q k s
  | .timeRead q => Sys2Proof.Machine.execTimeRead q s
  | .frameRate q mode value => Sys2Proof.Machine.execFrameRate q mode value s
  | .syncCfg q mode => Sys2Proof.Machine.execSyncCfg q mode s
  | .levelSet q zone mask level => Sys2Proof.Machine.execLevelSet q zone mask level s
  | .fadeStart q zone mask flags start target dur curve => Sys2Proof.Machine.execFadeStart q zone mask flags start target dur curve s
  | .fadeStop q zone mask => Sys2Proof.Machine.execFadeStop q zone mask s
  | .effectSet q zone mask curve depth period => Sys2Proof.Machine.execEffectSet q zone mask curve depth period s
  | .effectClear q zone => Sys2Proof.Machine.execEffectClear q zone s
  | .masterSet q flags start target dur curve => Sys2Proof.Machine.execMasterSet q flags start target dur curve s
  | .outcurveSet q classes curve => Sys2Proof.Machine.execOutcurveSet q classes curve s
  | .levelRead q zone => Sys2Proof.Machine.execLevelRead q zone s
  | .sceneRecall q slot => Sys2Proof.Machine.execSceneRecall q slot s
  | .sceneCapture q slot zone deffade => Sys2Proof.Machine.execSceneCapture q slot zone deffade s
  | .sceneWrite q slot flags offset deffade records => Sys2Proof.Machine.execSceneWrite q slot flags offset deffade records s
  | .sceneRead q slot offset len => Sys2Proof.Machine.execSceneRead q slot offset len s
  | .sceneErase q slot => Sys2Proof.Machine.execSceneErase q slot s
  | .sceneList q boot => Sys2Proof.Machine.execSceneList q boot s
  | .deckWrite q first entries => Sys2Proof.Machine.execDeckWrite q first entries s
  | .deckRead q bank first count => Sys2Proof.Machine.execDeckRead q bank first count s
  | .stageBegin q => Sys2Proof.Machine.execStageBegin q s
  | .stageCommit q flags c => Sys2Proof.Machine.execStageCommit q flags c s
  | .stageAbort q => Sys2Proof.Machine.execStageAbort q s
  | .deckSave q => Sys2Proof.Machine.execDeckSave q s
  | .deckLoad q first count => Sys2Proof.Machine.execDeckLoad q first count s
  | .curveWrite q id flags first points => Sys2Proof.Machine.execCurveWrite q id flags first points s
  | .curveRead q id first count => Sys2Proof.Machine.execCurveRead q id first count s
  | .portCfg q port flags rate fmt n interval => Sys2Proof.Machine.execPortCfg q port flags rate fmt n interval s
  | .portStatus q port => Sys2Proof.Machine.execPortStatus q port s
  | .portCensus q => Sys2Proof.Machine.execPortCensus q s
  | .cellSidecfg q ports mode first last wdog failsafe cls poweron => Sys2Proof.Machine.execCellSidecfg q ports mode first last wdog failsafe cls poweron s
  | .cellIdent q port first count => Sys2Proof.Machine.execCellIdent q port first count s
  | .portProbe q port kind => Sys2Proof.Machine.execPortProbe q port kind s
  | .relayCfg q mode hold => Sys2Proof.Machine.execRelayCfg q mode hold s
  | .failSummary q => Sys2Proof.Machine.execFailSummary q s
  | .failMap q page mode first count => Sys2Proof.Machine.execFailMap q page mode first count s
  | .failNotify q args => Sys2Proof.Machine.execFailNotify q args s
  | .counterRead q what first count => Sys2Proof.Machine.execCounterRead q what first count s
  | .counterSave q flags period => Sys2Proof.Machine.execCounterSave q flags period s
  | .concealCfg q flags => Sys2Proof.Machine.execConcealCfg q flags s
  | .linkStats q mode => Sys2Proof.Machine.execLinkStats q mode s
  | .nvRead q addr len => Sys2Proof.Machine.execNvRead q addr len s
  | .nvWrite q addr data => Sys2Proof.Machine.execNvWrite q addr data s
  | .nvErase q sector => Sys2Proof.Machine.execNvErase q sector s
  | .nvProtect q v => Sys2Proof.Machine.execNvProtect q v s
  | .nvStatus q => Sys2Proof.Machine.execNvStatus q s
  | .powerStatus q => Sys2Proof.Machine.execPowerStatus q s
  | .reserveCfg q mode present vchg ichg darkcut chold => Sys2Proof.Machine.execReserveCfg q mode present vchg ichg darkcut chold s
  | .harvestCfg q mode enable k period => Sys2Proof.Machine.execHarvestCfg q mode enable k period s
  | .lampenSet q mode => Sys2Proof.Machine.execLampenSet q mode s
  | .gpioCfg q pin mode init => Sys2Proof.Machine.execGpioCfg q pin mode init s
  | .gpioRw q wmask wlevel => Sys2Proof.Machine.execGpioRw q wmask wlevel s
  | .tempRead q => Sys2Proof.Machine.execTempRead q s
  | .fwInfo q => Sys2Proof.Machine.execFwInfo q s
  | .fwBegin q size => Sys2Proof.Machine.execFwBegin q size s
  | .fwChunk q offset data => Sys2Proof.Machine.execFwChunk q offset data s
  | .fwFinish q => Sys2Proof.Machine.execFwFinish q s
  | .fwActivate q mode => Sys2Proof.Machine.execFwActivate q mode s
  | .secChallenge q => Sys2Proof.Machine.execSecChallenge q s
  | .secSetkey q form nonce key kcv => Sys2Proof.Machine.execSecSetkey q form nonce key kcv s
  | .secLock q mode nonce => Sys2Proof.Machine.execSecLock q mode nonce s
  | .spanCfg q mode flags defrate => Sys2Proof.Machine.execSpanCfg q mode flags defrate s
  | .spanStatus q mode => Sys2Proof.Machine.execSpanStatus q mode s
  | .spanlineFrameClose dt f => Sys2Proof.Machine.execSpanlineFrameClose dt f s
  | .receiveTimeout dt f => Sys2Proof.Machine.execReceiveTimeout dt f s
  | .clauseTakeUp dt => Sys2Proof.Machine.execClauseTakeUp dt s
  | .timedClauseDue dt => Sys2Proof.Machine.execTimedClauseDue dt s
  | .frameBoundary dt => Sys2Proof.Machine.execFrameBoundary dt s
  | .syncEdge dt => Sys2Proof.Machine.execSyncEdge dt s
  | .syncHold dt => Sys2Proof.Machine.execSyncHold dt s
  | .keystoneWindowExpiry dt => Sys2Proof.Machine.execKeystoneWindowExpiry dt s
  | .busIdle dt lead => Sys2Proof.Machine.execBusIdle dt lead s
  | .arbitrationLoss dt bit => Sys2Proof.Machine.execArbitrationLoss dt bit s
  | .transmitFault dt bit => Sys2Proof.Machine.execTransmitFault dt bit s
  | .frameSent dt => Sys2Proof.Machine.execFrameSent dt s
  | .wakeBandTraffic dt rate dsth dstl => Sys2Proof.Machine.execWakeBandTraffic dt rate dsth dstl s
  | .wakeHoldoffExpiry dt lead => Sys2Proof.Machine.execWakeHoldoffExpiry dt lead s
  | .slotReplyStart dt busy recessive edge => Sys2Proof.Machine.execSlotReplyStart dt busy recessive edge s
  | .lateWindowOpen dt => Sys2Proof.Machine.execLateWindowOpen dt s
  | .lateReplyHoldoff dt => Sys2Proof.Machine.execLateReplyHoldoff dt s
  | .lateReplyCancel dt => Sys2Proof.Machine.execLateReplyCancel dt s
  | .claimHoldoff dt => Sys2Proof.Machine.execClaimHoldoff dt s
  | .restHoldExpiry dt => Sys2Proof.Machine.execRestHoldExpiry dt s
  | .wakeFrame dt chars => Sys2Proof.Machine.execWakeFrame dt chars s
  | .svcWake dt rate => Sys2Proof.Machine.execSvcWake dt rate s
  | .keepBurst dt => Sys2Proof.Machine.execKeepBurst dt s
  | .shelfEntry dt => Sys2Proof.Machine.execShelfEntry dt s
  | .wrcStop dt => Sys2Proof.Machine.execWrcStop dt s
  | .powerOn dt b => Sys2Proof.Machine.execPowerOn dt b s
  | .resetPin dt widthNs b => Sys2Proof.Machine.execResetPin dt widthNs b s
  | .brownOut dt vin vres b => Sys2Proof.Machine.execBrownOut dt vin vres b s
  | .watchdog dt b => Sys2Proof.Machine.execWatchdog dt b s
  | .resetAfterReply dt b => Sys2Proof.Machine.execResetAfterReply dt b s
  | .vinGood dt b => Sys2Proof.Machine.execVinGood dt b s
  | .save dt vin vresLoaded => Sys2Proof.Machine.execSave dt vin vresLoaded s
  | .saveComplete dt b => Sys2Proof.Machine.execSaveComplete dt b s
  | .holdoverVinGood dt b => Sys2Proof.Machine.execHoldoverVinGood dt b s
  | .darkcutEntry dt => Sys2Proof.Machine.execDarkcutEntry dt s
  | .darkcutExit dt vres b => Sys2Proof.Machine.execDarkcutExit dt vres b s
  | .keepalivePowerOnReset dt vres => Sys2Proof.Machine.execKeepalivePowerOnReset dt vres s
  | .overcurrent dt => Sys2Proof.Machine.execOvercurrent dt s
  | .hardDisconnect dt vres => Sys2Proof.Machine.execHardDisconnect dt vres s
  | .chargeStateChange dt vres tapered => Sys2Proof.Machine.execChargeStateChange dt vres tapered s
  | .chargeTemperatureCheck dt t8 => Sys2Proof.Machine.execChargeTemperatureCheck dt t8 s
  | .reserveTest dt vresLoaded => Sys2Proof.Machine.execReserveTest dt vresLoaded s
  | .vioLow dt vio => Sys2Proof.Machine.execVioLow dt vio s
  | .vioGood dt vio => Sys2Proof.Machine.execVioGood dt vio s
  | .lfxoFailure dt => Sys2Proof.Machine.execLfxoFailure dt s
  | .thermalUpdate dt avg8 now8 => Sys2Proof.Machine.execThermalUpdate dt avg8 now8 s
  | .bandgapWindow dt vin vres t8 => Sys2Proof.Machine.execBandgapWindow dt vin vres t8 s
  | .coldStart dt vka => Sys2Proof.Machine.execColdStart dt vka s
  | .coldStartEnd dt vka => Sys2Proof.Machine.execColdStartEnd dt vka s
  | .vocSample dt => Sys2Proof.Machine.execVocSample dt s
  | .vocSampleEnd dt voc => Sys2Proof.Machine.execVocSampleEnd dt voc s
  | .loopReturn dt port r => Sys2Proof.Machine.execLoopReturn dt port r s
  | .returnDeadline dt port => Sys2Proof.Machine.execReturnDeadline dt port s
  | .maintenanceStart dt port => Sys2Proof.Machine.execMaintenanceStart dt port s
  | .maintenanceForced dt port => Sys2Proof.Machine.execMaintenanceForced dt port s
  | .presenceSample dt port low => Sys2Proof.Machine.execPresenceSample dt port low s
  | .backwardAnswer dt port r => Sys2Proof.Machine.execBackwardAnswer dt port r s
  | .answerTimeout dt port begun => Sys2Proof.Machine.execAnswerTimeout dt port begun s
  | .periodicProbe dt => Sys2Proof.Machine.execPeriodicProbe dt s
  | .readinessTimeout dt port => Sys2Proof.Machine.execReadinessTimeout dt port s
  | .lampenAssert dt => Sys2Proof.Machine.execLampenAssert dt s
  | .relayInputFrame dt f => Sys2Proof.Machine.execRelayInputFrame dt f s
  | .relayInputLoss dt => Sys2Proof.Machine.execRelayInputLoss dt s
  | .relayKeep dt => Sys2Proof.Machine.execRelayKeep dt s
  | .relayHoldLimit dt => Sys2Proof.Machine.execRelayHoldLimit dt s
  | .onTimeTick dt => Sys2Proof.Machine.execOnTimeTick dt s
  | .powerOnTimeTick dt => Sys2Proof.Machine.execPowerOnTimeTick dt s
  | .periodicSave dt => Sys2Proof.Machine.execPeriodicSave dt s
  | .counterBankErase dt => Sys2Proof.Machine.execCounterBankErase dt s
  | .nvOperationStart dt => Sys2Proof.Machine.execNvOperationStart dt s
  | .nvOperationComplete dt ok => Sys2Proof.Machine.execNvOperationComplete dt ok s
  | .curveSectorRewrite dt => Sys2Proof.Machine.execCurveSectorRewrite dt s
  | .deckLoadComplete dt => Sys2Proof.Machine.execDeckLoadComplete dt s
  | .evtFail dt => Sys2Proof.Machine.execEvtFail dt s
  | .eventHoldoffExpiry dt => Sys2Proof.Machine.execEventHoldoffExpiry dt s
  | .stageTimeout dt => Sys2Proof.Machine.execStageTimeout dt s
  | .sceneBufferTimeout dt => Sys2Proof.Machine.execSceneBufferTimeout dt s
  | .curveBufferTimeout dt => Sys2Proof.Machine.execCurveBufferTimeout dt s
  | .fwSessionTimeout dt => Sys2Proof.Machine.execFwSessionTimeout dt s
  | .fwVerificationEnd dt => Sys2Proof.Machine.execFwVerificationEnd dt s
  | .nonceExpiry dt => Sys2Proof.Machine.execNonceExpiry dt s
  | .fwConfirmation dt => Sys2Proof.Machine.execFwConfirmation dt s
  | .fwConfirmTimeout dt b => Sys2Proof.Machine.execFwConfirmTimeout dt b s
  | .svsync dt valid rate => Sys2Proof.Machine.execSvsync dt valid rate s
  | .svcIdle dt => Sys2Proof.Machine.execSvcIdle dt s
  | .svdataWrite dt addressed b => Sys2Proof.Machine.execSvdataWrite dt addressed b s
  | .svdoorSubmit dt addressed => Sys2Proof.Machine.execSvdoorSubmit dt addressed s
  | .svdoorDiscard dt addressed => Sys2Proof.Machine.execSvdoorDiscard dt addressed s
  | .svctlWrite dt addressed b => Sys2Proof.Machine.execSvctlWrite dt addressed b s
  | .svstatRead dt n => Sys2Proof.Machine.execSvstatRead dt n s
  | .svdataRead dt n => Sys2Proof.Machine.execSvdataRead dt n s
  | .svcauseRead dt n => Sys2Proof.Machine.execSvcauseRead dt n s
  | .registerWrite dt addr data => Sys2Proof.Machine.execRegisterWrite dt addr data s
  | .svcCharacterError dt parity => Sys2Proof.Machine.execSvcCharacterError dt parity s
  | .collision dt reg sent => Sys2Proof.Machine.execCollision dt reg sent s
  | .submissionTakeUp dt => Sys2Proof.Machine.execSubmissionTakeUp dt s
  | .vkaSourceHandover dt vin vres => Sys2Proof.Machine.execVkaSourceHandover dt vin vres s
  | .hardDisconnectEnd dt vres => Sys2Proof.Machine.execHardDisconnectEnd dt vres s
  | .stringFrameEof dt port => Sys2Proof.Machine.execStringFrameEof dt port s
  | .shelfSvcEdge dt => Sys2Proof.Machine.execShelfSvcEdge dt s
  | .relayInputLow dt widthNs => Sys2Proof.Machine.execRelayInputLow dt widthNs s

end Sys2Proof.Machine
end

