-- ==== Sys2Proof/Safety.lean ====
section
/-!
DEFINITION. What a safe state is, in the terms the statements use: tables in their canonical form, queues within the places
the spec gives them, and the model's own counts in their ranges.
-/
namespace Sys2Proof.Machine

/-- The NV store and both deck banks are in their canonical form. -/
def memOk (nv active staging : Memory) : Prop :=
  Memory.wf nv = true ∧ Memory.deckWf active = true ∧ Memory.deckWf staging = true

/-- The rings and queues hold no more than their places: 16 ring slots (R27), 8 frames outbound (R174), 64 timed clauses
(R188), 32 tracked sources (R183), 4 nonces (R435), 249 bytes of service image (R215). -/
def boundsOk (ring : List RingSlot) (outQ : List OutFrame) (timed : List Queued) (track : List Track)
    (nonces : List Nonce) (image : List Byte) : Prop :=
  ring.length ≤ 16 ∧ outQ.length ≤ 8 ∧ timed.length ≤ 64 ∧ track.length ≤ 32 ∧ nonces.length ≤ 4 ∧ image.length ≤ 249

/-- A clause that waits has a number that was given out before (log [8]). -/
def idsOk (waiting : List Waiting) (nextId : Nat) : Prop := ∀ w ∈ waiting, w.id < nextId

/-- The parts of a state that the invariant is about. -/
def coreOk (nv active staging : Memory) (ring : List RingSlot) (outQ : List OutFrame) (timed : List Queued)
    (track : List Track) (nonces : List Nonce) (image : List Byte) (waiting : List Waiting) (nextId sub : Nat) : Prop :=
  memOk nv active staging ∧ boundsOk ring outQ timed track nonces image ∧ idsOk waiting nextId ∧ sub < Config.tickPs

/-- The invariant of the node: memory in its canonical form, every queue within its places, clause numbers given out in
order, and less than a tick of time not yet counted in WT. -/
abbrev State.Inv (s : State) : Prop :=
  coreOk s.nv.mem s.rd.active s.rd.staging s.span.ring s.span.outQ s.cl.timed s.cl.track s.sec.nonces s.svc.image
    s.cl.waiting s.cl.nextId s.ka.sub

end Sys2Proof.Machine
end

