-- ==== Sys2Proof/Certificates/Slice0/Obligations.lean ====
section
/-!
DEFINITION. The statements for the provers: what the commands of the block do, rule by rule of spec/. The notions they share
stand first, under `Sys2Proof.Claims`.
-/
namespace Sys2Proof.Claims

open Sys2Proof Sys2Proof.Machine

/-- A verb given as a command takes effect at once (R19, R186): the node is in RUN (R365), a boundary falls now with nothing
before a new clause at it (no program or erase blocks the NP (R23), no clause and no flip waits for it, the boot scene is
past), the clause is untimed, and the clauses that wait have numbers given out before (log [8]; a part of `State.Inv`). -/
def Ready (q : Req) (s : State) : Prop :=
  s.pw.mode = .run ∧ boundaryFree s = true ∧ q.applyAt = none ∧ idsOk s.cl.waiting s.cl.nextId

/-- The lock lets a protected verb through (R446). -/
def Unlocked (q : Req) (s : State) : Prop := s.sec.locked = false ∨ q.auth = true

/-- No user job of the NV store runs (R319). -/
def NoUserJob (s : State) : Prop := ∀ j ∈ s.nv.jobs, j.user = false

/-- The state with the clause's number used and REST_HOLD restarted (log [8], R76), and nothing else changed. -/
def counted (s : State) : State :=
  { s with cl.nextId := s.cl.nextId + 1, pw.restDue := s.now + Config.msPs * s.cfg.restHold, pw.restFree := false }

/-- The place of the verb's result: the clause number and index 0. -/
def tokOf (s : State) : Tok := { id := s.cl.nextId, idx := 0 }

/-- State `t` with the reply to `q`'s clause of one verb: its opcode, its status and its result bytes (R177). -/
def replied (q : Req) (op st : Byte) (r : List Byte) (s t : State) : State :=
  replyOr q false (replyBody q.seq [(op, st, r)]) s.cl.nextId t

/-- The answer to a verb whose checks fail: one entry with its opcode, the status and the verb's index 0, and nothing else
changes (R177, R181). -/
def rejected (q : Req) (op st : Byte) (s : State) : State :=
  replyOr q false (replyBody q.seq [(op, st, [0])]) s.cl.nextId { s with cl.nextId := s.cl.nextId + 1 }

/-- State `t` in which the verb's clause waits for a result that comes later (R179, R392, R418). -/
def waits (q : Req) (op : Byte) (s t : State) : State :=
  { t with cl.waiting := t.cl.waiting ++ [{ id := s.cl.nextId, req := q, entries := [{ op := op, res := none }], late := 0 }] }

/-- The order key of an untimed clause that takes effect now: its WT is the render time of the boundary (R190, R192). -/
def keyNow (q : Req) (s : State) : Key := { wt := renderNow s, src := q.src, seq := q.seq }

/-- A lane target of a verb: a zone of its selector and a channel of its mask (Table 14-1). -/
def Names (zone mask : Byte) (z c : Nat) : Prop := (zone = 0xFF ∨ zone.toNat = z) ∧ mask.getLsbD c = true

/-- The lanes of state `s` become `L`: those a verb names, but for one last written with a strictly later key (R192), are as
`f` makes them, with origin `o` and the verb's key `k`, and every other lane stays (R190, R295). -/
def LanesSet (zone mask : Byte) (k : Key) (o : W48) (f : Nat → Nat → Lane → Lane) (s : State) (L : Tab Lane) : Prop :=
  ∀ z < 256, ∀ c < 4,
    (Names zone mask z c ∧ laterThan (zoneLane s z c).key k = false →
      tget laneBlank L (z * 4 + c) = { f z c (zoneLane s z c) with t0 := o, key := some k })
    ∧ (¬ (Names zone mask z c ∧ laterThan (zoneLane s z c).key k = false) →
      tget laneBlank L (z * 4 + c) = zoneLane s z c)

/-- A record of a scene names channel `c` of zone `z`: ZONE, and MASK in bits 3..0 of FLAGS (Table 12-8). -/
def RecordNames (r : List Byte) (z c : Nat) : Prop := fieldLe r 0 1 = z ∧ (r.getD 2 0).getLsbD c = true

/-- A channel mask is valid (Table 14-1). -/
def MaskOk (mask : Byte) : Prop := mask ≠ 0 ∧ mask.toNat < 16

/-- A curve id is valid (Table 14-1). -/
def CurveOk (c : Byte) : Prop := c.toNat < 12 ∨ (16 ≤ c.toNat ∧ c.toNat ≤ 47)

/-- LINE of SPAN.CFG (Table 16-7): the termination, the integrated bias, external-transceiver mode. The bias stands with GP2
latched low, outside that mode, while VIN is present (R58, R59). -/
def lineOf (termOn : Bool) (s : State) : Byte :=
  BitVec.ofNat 8 ((if termOn then 1 else 0) + (if !s.pw.gp2 && !s.pw.extOn && decide (0 < s.pw.vin) then 2 else 0)
    + (if s.pw.extOn then 4 else 0))

/-- A quiet node at a boundary: rendering and its queues stand, no setting waits for the boundary and every port is off. -/
def Quiet (t : State) : Prop :=
  t.pw.mode = .run ∧ t.relay.on = false ∧ t.rd.bootScene = false ∧ t.st.commit = none ∧ t.cfg.restOk = false ∧ t.cfg.sync ≠ 1
  ∧ t.st.loads = [] ∧ t.ka.corr = none ∧ t.fail.unreach = 0 ∧ t.fail.fresh = false ∧ t.fail.coming = 0 ∧ liveMap t = t.fail.map
  ∧ ∀ p : Port, (t.ports.get p).state = .off ∧ (t.ports.get p).cfg = t.cfg.ports.get p ∧ (t.cfg.ports.get p).enable = false

/-- The state after a boundary of render time `r` at which nothing took effect: its render time, that of the boundary before it
and its instant are noted (R15, R308), the thermal factor of its frame is taken (R92), and with no port configured the port
condition of R461 holds. -/
def passed (r : W48) (t : State) : State :=
  { t with rd.prevT := t.rd.lastT, rd.lastT := r, rd.lastNow := t.now, pw.f := thermalFactor t.pw.tAvg, fw.sawPort := true }

/-- A WT-locked boundary falls now, at a WT that is a multiple of n and was not placed before (R15, R308). -/
def WtBoundary (t : State) : Prop :=
  t.rd.syncLocked = false ∧ t.cfg.freeRun = false ∧ 0 < t.cfg.frameValue ∧ t.ka.wt.toNat % t.cfg.frameValue = 0
  ∧ t.ka.startIn = 0 ∧ t.rd.lastT ≠ t.ka.wt

/-- Without relay a boundary falls now, of render time `r`, and it was not placed before: WT is a multiple of n, or a slew has
just counted past such a multiple (R15, R195); a free-running period has passed; or, SYNC held, the mean interval (R308, R309). -/
def Placed (r : W48) (t : State) : Prop :=
  (WtBoundary t ∧ r = t.ka.wt)
  ∨ (t.rd.syncLocked = false ∧ t.cfg.freeRun = false ∧ t.ka.startIn = 0 ∧ t.ka.wt.toNat % t.cfg.frameValue ≠ 0
    ∧ (t.ka.wt.toNat - 1) % t.cfg.frameValue = 0 ∧ t.rd.lastT ≠ t.ka.wt - 1 ∧ r = t.ka.wt - 1
    ∧ ∃ j l, t.ka.jumps = j :: l ∧ j.step = false ∧ 0 < j.size ∧ j.at_ = t.now - t.ka.sub)
  ∨ (t.rd.syncLocked = false ∧ t.cfg.freeRun = true ∧ t.rd.lastNow + freePeriod t.cfg.frameValue ≤ t.now ∧ r = t.ka.wt)
  ∨ (t.rd.syncLocked = true ∧ t.rd.syncHold = true ∧ t.rd.intervals ≠ [] ∧ r = t.ka.wt
    ∧ t.rd.lastNow + t.rd.intervals.sum / t.rd.intervals.length ≤ t.now)

/-- State `t` with traffic just seen on the bus at `rate`, its last stop-bit sample `ago` before now: the bus is not idle, the
IFS counts from half a bit after that sample (R152), and a holdoff of the wake band runs from it (R141). -/
def busHeard (rate ago : Nat) (t : State) : State :=
  { t with
    span.idle := false
    span.busRate := some rate
    span.quietFrom := t.now - ago + 1000000000000 / (2 * rate)
    span.wakeHold := t.span.wakeHold.map fun _ => t.now - ago }

/-- State `t` with traffic of the wake band just seen: the bus is busy, and REST_HOLD restarts where it matches (R141). -/
def wakeHeard (dsth dstl : Byte) (t : State) : State :=
  let ours := (matchOf dsth dstl t).isSome
  { t with
    span.wakeHold := some t.now
    span.idle := false
    pw.restDue := if ours then t.now + Config.msPs * t.cfg.restHold else t.pw.restDue
    pw.restFree := if ours then false else t.pw.restFree }

/-- The transmitter may start: RUN, FOSC locked, no holdoff of the wake band, nothing in its attempt (R68, R141). -/
def MayStart (t : State) : Prop :=
  t.pw.mode = .run ∧ t.pw.fosc = true ∧ t.pw.lockAt ≤ t.now ∧ t.span.wakeHold = none ∧ t.span.tx = none

/-- A frame at the start of an attempt: the attempt counts, and SRC is the node's address as it stands (R147, R156). -/
def attempt (t : State) (f : OutFrame) : OutFrame :=
  { f with src := if t.cfg.addr = 0 then f.src else t.cfg.addr, attempts := f.attempts + 1 }

/-- An SVC character is heard: RUN with FOSC locked, a rate held, no idle before it (R209, R223). -/
def SvcHears (t : State) : Prop :=
  t.pw.mode = .run ∧ t.pw.fosc = true ∧ t.pw.lockAt ≤ t.now ∧ t.svc.rate.isSome = true ∧ t.svc.idle = false

/-- The boot from `v` selects the ROM (R460). -/
def RomSelected (b : BootIn) (v : State) : Prop := (bootImage (bootStore (bootInputs b v))).fw.run = 0

/-- VIN reads `v`: a rise past VIN good ends an overcurrent (Table 4-5). -/
def vinReads (v : Nat) (t : State) : State :=
  { t with pw.vin := v, ka.oc := t.ka.oc && !(decide (t.pw.vin < 2650) && decide (2650 ≤ v)) }

/-- VKA takes the first source of Table 4-1 that is there: VIN of 1.90 V or more, the reserve while it is connected and holds
2.75 V, the boost converter with no reserve; with none, log [44]'s choice, the last one stands (R96). -/
def fed (t : State) : State :=
  if 1900 ≤ t.pw.vin then { t with ka.source := 1, pw.vka := 1800 }
  else if t.ka.present = true ∧ t.ka.darkLatch = false ∧ t.ka.hardDisc = false ∧ t.ka.oc = false ∧ 2750 ≤ t.pw.vres then
    { t with ka.source := 2, pw.vka := 1800 }
  else if t.ka.hst = .boost ∧ t.ka.present = false then { t with ka.source := 3 }
  else t

/-- A boot goes on from state `v` to RUN: `b.took` later, with REST_HOLD restarted and the boot scene to come (R76, R87, R89). -/
def BootsOn (b : BootIn) (v : State) (o : Host.Outcome State Fault Refusal) : Prop :=
  ∃ w, o = .next w ∧ w.pw.mode = .run ∧ w.pw.cause = v.pw.cause ∧ w.now = v.now + b.took ∧ w.pw.bootAt = w.now
    ∧ w.pw.restDue = w.now + Config.msPs * w.cfg.restHold ∧ w.fw.run = 0 ∧ w.fw.trial = false ∧ w.rd.bootScene = true

/-- A reset with a cause: TEST high halts (R35), VIN below VIN good waits at step 4 (R87), and else the boot goes on, and is
abandoned where VIN falls below 2.55 V before step 9 is over (R88). -/
def Boots (cause : Byte) (b : BootIn) (u : State) (o : Host.Outcome State Fault Refusal) : Prop :=
  let v := bootStart cause b u
  (b.test = true → o = .next { v with pw.mode := .halted })
  ∧ (b.test = false → b.vin < 2650 → o = .next v ∧ v.pw.mode = .bootWait)
  ∧ (b.test = false → 2650 ≤ b.vin → b.vinMin < 2550 → o = .next { v with pw.vin := b.vinMin })
  ∧ (b.test = false → 2650 ≤ b.vin → 2550 ≤ b.vinMin → RomSelected b v → BootsOn b v o)

end Sys2Proof.Claims

open Sys2Proof Sys2Proof.Machine Sys2Proof.Claims

/-! ## The queue, the invariant, time -/

/-- A step runs the command at the front of the queue on the queue's rest. -/
def Obligations.StepRunsFrontCommand : Prop :=
  ∀ (c : Instr) (rest : List Instr) (s : State),
    step { s with pending := c :: rest } = exec c { s with pending := rest }

/-- The reset state meets the invariant. -/
def Obligations.ResetMeetsInvariant : Prop := State.reset.Inv

/-- Every step keeps the invariant: memory in its canonical form, every queue within its places, clause numbers in order,
less than a tick uncounted. -/
def Obligations.StepKeepsInvariant : Prop := ∀ s t : State, s.Inv → step s = .next t → t.Inv

/-- A step with no command waiting lets one tick of time pass: log [1]'s choice. WT moves on by one tick where it counts,
with the slew of R195: one tick more or less after every 64 periods while slew is left, noted among the changes of WT (R12). A port that waited for SnO past the instant of its frame counts SKIP and drops the frame (R270); no other port
changes. -/
def Obligations.IdleStepPassesOneTick : Prop :=
  ∀ s : State, s.pending = [] → s.ka.startIn = 0 → s.ka.sub < Config.tickPs → ∃ t, step s = .next t
    ∧ t = { s with now := s.now + 244140625, ka := t.ka, ports := t.ports, span.skipMark := t.span.skipMark }
    ∧ (∀ p : Port, t.ports.get p = match (s.ports.get p).due with
        | some d => if d.start < s.now + 244140625 then
            { s.ports.get p with skip := bump (s.ports.get p).skip, due := none } else s.ports.get p
        | none => s.ports.get p)
    ∧ (s.pw.mode = .darkcut → t.ka = s.ka)
    ∧ let old := s.ka.jumps.take 16
      let next := fun (size : Int) => (({ at_ := s.now - s.ka.sub + 244140625, size := size, step := false } : Jump)
        :: s.ka.jumps).take 16
      (s.pw.mode ≠ .darkcut → s.ka.slew = 0 → t.ka = { s.ka with wt := s.ka.wt + 1, slewPhase := 0, jumps := old })
      ∧ (s.pw.mode ≠ .darkcut → s.ka.slew ≠ 0 → s.ka.slewPhase < 63 →
          t.ka = { s.ka with wt := s.ka.wt + 1, slewPhase := s.ka.slewPhase + 1, jumps := old })
      ∧ (s.pw.mode ≠ .darkcut → 0 < s.ka.slew → s.ka.slewPhase = 63 →
          t.ka = { s.ka with wt := s.ka.wt + 2, slew := s.ka.slew - 1, slewPhase := 0, jumps := next 1 })
      ∧ (s.pw.mode ≠ .darkcut → s.ka.slew < 0 → s.ka.slewPhase = 63 →
          t.ka = { s.ka with wt := s.ka.wt, slew := s.ka.slew + 1, slewPhase := 0, jumps := next (-1) })

/-- A refusal comes from a reset whose boot would run another release, and from nothing else (R2). -/
def Obligations.OnlyResetsRefuse : Prop :=
  ∀ (c : Instr) (s : State) (r : Refusal), exec c s = .refused r →
    r = .otherRelease ∧ ∃ (dt : Nat) (b : BootIn), c = .powerOn dt b ∨ (∃ w, c = .resetPin dt w b)
      ∨ (∃ vin vres, c = .brownOut dt vin vres b) ∨ (∃ vres, c = .darkcutExit dt vres b) ∨ c = .watchdog dt b
      ∨ c = .resetAfterReply dt b ∨ c = .vinGood dt b ∨ c = .saveComplete dt b ∨ c = .holdoverVinGood dt b
      ∨ c = .fwConfirmTimeout dt b

/-! ## Clauses -/

/-- Clauses are executed in RUN only: outside RUN a verb changes nothing (R365). In RUN, at the boundary that falls now, every
verb whose checks pass at its take-up and there takes effect: its clause gets its number and its places for results, the verb
its effect with the boundary's render time, REST_HOLD restarts (R19, R76, R179, R181, R186), and the verb's answer, where it
has one now, is the reply; else the clause waits for it. -/
def Obligations.VerbsRunOnlyInRun : Prop :=
  (∀ (i : Instr) (s : State), verbOf i ≠ none → s.pw.mode ≠ .run → exec i s = .next s)
  ∧ ∀ (i : Instr) (v : Verb) (q : Req) (s : State), verbOf i = some v → i.req? = some q → i.lengthOk = true → Ready q s →
    (∀ due, checkVerb due v q s = 0) →
    let opened := waits q v.op s { s with cl.nextId := s.cl.nextId + 1 }
    let b : Bd := { t := renderNow s, org := renderNow s, key := keyNow q s, q := q, tok := tokOf s, pre := opened }
    let done := restartHold (v.eff b opened)
    (v.ans b done = none → exec i s = .next done)
    ∧ ∀ (u : State) (st : Byte) (r : List Byte), v.ans b done = some (u, st, r) → u.cl.waiting = opened.cl.waiting →
      exec i s = .next (finishClause q [(v.op, st, r)] s.cl.nextId { u with cl.waiting := s.cl.waiting })

/-- While a program or erase blocks the NP a verb is not looked at: it waits for the end of the block, in arrival order (R23).
With the NP free but no boundary now, an untimed verb waits for the next boundary, in arrival order, once its checks pass
(R19, R186). -/
def Obligations.UntimedVerbWaitsDuringBlock : Prop :=
  ∀ (i : Instr) (v : Verb) (q : Req) (s : State), verbOf i = some v → i.req? = some q → s.pw.mode = .run →
    let w : Queued := { req := q, verbs := [i], held := false, at_ := s.now }
    (s.nv.running ≠ none → exec i s = .next { s with cl.blocked := s.cl.blocked ++ [w] })
    ∧ (s.nv.running = none → boundaryFree s = false → q.applyAt = none → i.lengthOk = true → checkVerb false v q s = 0 →
      exec i s = .next { s with cl.ready := s.cl.ready ++ [w] })

/-- A timed verb, on arrival at WT W with apply-at A, the NP not blocked: with WT LOST, or W - A above 65 536 ticks, it is
rejected with STALE_TIME, and with A - W above 16 777 216 ticks with RANGE (R189), as it is when the timed queue holds 64
clauses (R188). Otherwise, its checks passed, it is queued until its time (R187); where a boundary with a render time at or
after A falls now it is due there: a LEVEL.SET takes effect, DONE_LATE where a frame period or more has passed (R191). -/
def Obligations.TimedClauseIsQueuedOrRejected : Prop :=
  ∀ (q : Req) (a : W48) (s : State), s.pw.mode = .run → s.nv.running = none → q.applyAt = some a →
    let turnedDown := fun st : Byte =>
      replyOr q false (replyBody q.seq [(0, st, [])]) s.cl.nextId { s with cl.nextId := s.cl.nextId + 1 }
    (∀ i : Instr, i.req? = some q →
      ((s.ka.lost = true ∨ a.toNat + 65536 < s.ka.wt.toNat) → exec i s = .next (turnedDown 0x41))
      ∧ (s.ka.lost = false → s.ka.wt.toNat + 16777216 < a.toNat → exec i s = .next (turnedDown 0x13))
      ∧ (s.ka.lost = false → s.ka.wt.toNat ≤ a.toNat + 65536 → 64 ≤ s.cl.timed.length → exec i s = .next (turnedDown 0x13))
      ∧ ∀ v : Verb, verbOf i = some v → i.lengthOk = true → checkVerb false v q s = 0 → s.ka.lost = false →
        s.cl.timed.length < 64 → s.ka.wt.toNat ≤ a.toNat + 65536 → a.toNat ≤ s.ka.wt.toNat + 16777216 →
        (boundaryFree s = false ∨ (renderNow s).toNat < a.toNat) →
        exec i s = .next { s with cl.timed := s.cl.timed ++ [{ req := q, verbs := [i], held := false, at_ := s.now }] })
    ∧ ∀ (zone mask : Byte) (level : W16), MaskOk mask → s.ka.lost = false → s.cl.timed.length < 64 →
      a.toNat ≤ s.ka.wt.toNat + 16777216 → s.ka.wt.toNat ≤ a.toNat + 65536 → boundaryFree s = true →
      a.toNat ≤ (renderNow s).toNat →
      idsOk s.cl.waiting s.cl.nextId → ∃ L : Tab Lane, exec (.levelSet q zone mask level) s =
        .next (replied q 0x20 (if a.toNat + periodTicks s ≤ (renderNow s).toNat then 0x01 else 0) [] s
          { counted s with rd.lanes := L })
        ∧ LanesSet zone mask { wt := a, src := q.src, seq := q.seq } a
            (fun _ _ l => { l with l0 := level, l1 := level, d := 0 }) s L

/-- Failed checks. A mask without a channel or with reserved bits is BAD_ARG, a curve id 12 to 15 BAD_ARG and one above 47
RANGE, a port above 3 RANGE and one the member lacks NOT_SUPPORTED, a slot above 63 RANGE, an address above 0x0FFF RANGE
and a UID not the own BAD_ARG (Table 14-1, R370, R393): the answer is one entry with the opcode, the status and the verb's
index (R177, R181), and nothing else changes. On a LOCKED node FW.INFO, SEC.CHALLENGE, DECK.SAVE, the firmware verbs,
ADDR.SET, GROUP.SET and NV.PROTECT of a clause without an accepted tag are answered AUTH_REQUIRED (R446). -/
def Obligations.FailedChecksReject : Prop :=
  (∀ (q : Req) (s : State), s.pw.mode = .run → s.nv.running = none → q.applyAt = none →
    (∀ zone mask level, ¬ MaskOk mask → exec (.levelSet q zone mask level) s = .next (rejected q 0x20 0x12 s))
    ∧ (∀ zone mask curve depth period, MaskOk mask → 12 ≤ curve.toNat → curve.toNat ≤ 15 →
      exec (.effectSet q zone mask curve depth period) s = .next (rejected q 0x23 0x12 s))
    ∧ (∀ zone mask curve depth period, MaskOk mask → 47 < curve.toNat →
      exec (.effectSet q zone mask curve depth period) s = .next (rejected q 0x23 0x13 s))
    ∧ (∀ port, 3 < port.toNat → exec (.portStatus q port) s = .next (rejected q 0x51 0x13 s))
    ∧ (∀ port, port.toNat ≤ 3 → s.node.member.ports ≤ port.toNat → exec (.portStatus q port) s = .next (rejected q 0x51 0x60 s))
    ∧ (∀ slot : Byte, 63 < slot.toNat → exec (.sceneErase q slot) s = .next (rejected q 0x34 0x13 s))
    ∧ (∀ addr uid, 0x0FFF < addr.toNat → exec (.addrSet q addr uid) s = .next (rejected q 0x05 0x13 s))
    ∧ (∀ addr uid, addr.toNat ≤ 0x0FFF → uid ≠ s.node.uid → exec (.addrSet q addr uid) s = .next (rejected q 0x05 0x12 s)))
  ∧ ∀ (q : Req) (s : State), s.pw.mode = .run → s.nv.running = none → q.applyAt = none → s.sec.locked = true → q.auth = false →
    exec (.fwInfo q) s = .next (rejected q 0x90 0x30 s)
    ∧ exec (.secChallenge q) s = .next (rejected q 0x95 0x30 s)
    ∧ exec (.deckSave q) s = .next (rejected q 0x45 0x30 s)
    ∧ exec (.fwFinish q) s = .next (rejected q 0x93 0x30 s)
    ∧ (∀ offset data, 1 ≤ data.length → data.length ≤ 224 → exec (.fwChunk q offset data) s = .next (rejected q 0x92 0x30 s))
    ∧ (∀ addr, addr.toNat ≤ 0x0FFF → exec (.addrSet q addr s.node.uid) s = .next (rejected q 0x05 0x30 s))
    ∧ (∀ op map, op.toNat ≤ 2 → exec (.groupSet q op map) s = .next (rejected q 0x07 0x30 s))
    ∧ (∀ v, v.toNat ≤ 3 ∨ v = 0xFF → exec (.nvProtect q v) s = .next (rejected q 0x73 0x30 s))
    ∧ (∀ mode, mode.toNat ≤ 2 ∨ mode = 0xFF → exec (.fwActivate q mode) s = .next (rejected q 0x94 0x30 s))
    ∧ (∀ size : W32, 1 ≤ size.toNat → size.toNat ≤ 114688 → exec (.fwBegin q size) s = .next (rejected q 0x91 0x30 s))

/-- The reply to a clause: none with NOREPLY, to a group or broadcast match, or on Spanline from an unaddressed node or to a
requester whose SRC is no destination (broadcast, a group, 0xFFFF); else one frame to the requesting SRC, from the node's
address, with the node's own SEQ, which moves on past 0x0000 (R147, R157, R177, R178). It joins the outbound queue where that
has a place, and its attempt starts at once where the bus is idle and nothing else comes first (R152); from the service mailbox it is the image of the empty
outbound mailbox, with SRC 0xFFFE (Table 8-6). A reset that waited for the reply of a clause that has none comes 5 ms
later (R367). -/
def Obligations.ReplyIsOneFrame : Prop :=
  ∀ (q : Req) (body : List Byte) (id : Nat) (s : State),
    let cached := fun (f : OutFrame) => cacheReply q { f with clause := none } s
    let next : W16 := if s.span.seq = 0xFFFF then 1 else s.span.seq + 1
    (q.noreply = true ∨ q.kind ≠ .individual ∨ (q.mbox = .span ∧
        (s.cfg.addr = 0 ∨ q.src = 0 ∨ q.src = 0xFFFF ∨ q.src.toNat / 256 = 0x10)) →
      (s.pw.resetReq = none → s.pw.shelfReq = none → replyOr q false body id s = s)
      ∧ (s.pw.resetReq = some { waits := some id, due := none } → s.pw.shelfReq = none → replyOr q false body id s =
          { s with pw.resetReq := some { waits := none, due := some (s.now + 5000000000) } }))
    ∧ (q.noreply = false → q.kind = .individual → q.mbox = .span → s.cfg.addr ≠ 0 → q.src ≠ 0 → q.src ≠ 0xFFFF →
      q.src.toNat / 256 ≠ 0x10 → s.span.outQ.length < 8 → s.span.overflow = [] →
      let f : OutFrame := { dst := q.src, src := s.cfg.addr, seq := s.span.seq, body := body, rate := replyRate s q.rate,
                            op := 0xFE, attempts := 0, clause := some id }
      (s.span.idle = false → replyOr q false body id s = { cached f with span.seq := next, span.outQ := s.span.outQ ++ [f] })
      ∧ (s.span.idle = true → mayTransmit s = true → s.span.lates = [] → s.span.roll = none → s.span.outQ = [] →
        replyOr q false body id s = { cached f with
          span.seq := next
          span.outQ := [{ f with attempts := 1 }]
          span.tx := some .queue
          span.txAt := s.now
          span.idle := false }))
    ∧ (q.noreply = false → q.kind = .individual → q.mbox = .svc → s.svc.out = none →
      let f : OutFrame := { dst := q.src, src := 0xFFFE, seq := s.span.seq, body := body, rate := replyRate s q.rate,
                            op := 0xFE, attempts := 0, clause := some id }
      replyOr q false body id s =
        { cached f with
          span.seq := next
          svc.out := some { bytes := frameBytes f, event := false, op := 0xFE, begun := false, clause := some id }
          svc.cause := s.svc.cause ||| 0x01 })

/-! ## Node, addressing, roll-call, time (14) -/

/-- ID.READ, NODE.STATUS and GROUP.READ answer the fields of Tables 14-2 and 14-3, and LEVEL.READ those of Table 14-5: the
levels of the zone's four lanes, the master lane without and with the thermal factor, the output curves and the zone's effect,
the zone's fields 0 for zone 255; they change nothing, but that NODE.STATUS clears ADDR_CONTEST (R158, R366, R383). -/
def Obligations.NodeReadsAnswer : Prop :=
  ∀ (q : Req) (s : State), Ready q s →
    exec (.idRead q) s = .next (replied q 0x01 0 (leBytes 8 s.node.uid.toNat
        ++ [s.node.member.code, BitVec.ofNat 8 s.node.member.ports] ++ leBytes 2 s.node.member.cells
        ++ leBytes 2 s.node.member.nvKb ++ leBytes 2 s.node.member.ramKb
        ++ [if s.node.member.harvester then 3 else 0, 3, 2] ++ leBytes 2 s.cfg.addr.toNat) s (counted s))
    ∧ exec (.nodeStatus q) s = .next (replied q 0x02 0 ([s.pw.cause] ++ leBytes 2 (nodeFlags s) ++ [wtq s]
        ++ [(pstate s 0).code, (pstate s 1).code, (pstate s 2).code, (pstate s 3).code]
        ++ [BitVec.ofNat 8 s.cl.timed.length] ++ leSigned 2 s.pw.tAvg) s { counted s with node.contest := false })
    ∧ exec (.groupRead q) s = .next (replied q 0x08 0 (leBytes 32 s.cfg.groups.toNat) s (counted s))
    ∧ ∀ zone,
      let t := (renderNow s).toNat
      let level := fun c => leBytes 2 (laneAt s (zoneLane s zone.toNat c) t)
      let m := laneAt s s.rd.master t
      let e := zoneEffect s zone.toNat
      let node := leBytes 2 m ++ leBytes 2 (m * s.pw.f / 65536)
        ++ s.rd.outc.toList.map (·.1)
      (zone ≠ 0xFF → exec (.levelRead q zone) s = .next (replied q 0x27 0 (level 0 ++ level 1 ++ level 2 ++ level 3 ++ node
          ++ [e.curve, BitVec.ofNat 8 e.mask.toNat] ++ leBytes 2 e.depth.toNat ++ leBytes 4 e.period.toNat) s (counted s)))
      ∧ (zone = 0xFF → exec (.levelRead q zone) s =
          .next (replied q 0x27 0 (List.replicate 8 0 ++ node ++ List.replicate 8 0) s (counted s)))

/-- NODE.RESET mode 0 asks for a reset that waits for its own reply; with its confirm byte 0xA5 only (R367). A factory
reset, by FACTORY_RESET or NODE.RESET mode 1 from the service mailbox with GP3 low within 60 s of boot, adds its first
commit, sends nothing, and silences SVC until its reset; elsewhere and later it is NOT_SUPPORTED (R225, R456). -/
def Obligations.ResetVerbsAsk : Prop :=
  ∀ (q : Req) (s : State), Ready q s →
    exec (.nodeReset q 0 0xA5) s = .next (replied q 0x03 0 [] s
        { counted s with pw.resetReq := some { waits := some s.cl.nextId, due := none } })
    ∧ (q.mbox = .svc → s.pw.gp3 = false → s.now ≤ s.pw.bootAt + 60000000000000 →
        let begun := waits q 0x03 s (addJob (secJob (.freset true) [] none s) { counted s with sec.factory := true })
        exec (.nodeReset q 1 0xA5) s = .next begun ∧ exec (.factoryReset q 0xA5) s = .next begun)
    ∧ (∀ mode confirm, confirm ≠ 0xA5 → exec (.nodeReset q mode confirm) s = .next (rejected q 0x03 0x12 s)
        ∧ exec (.factoryReset q confirm) s = .next (rejected q 0x03 0x12 s))
    ∧ (q.mbox = .span ∨ s.pw.gp3 = true ∨ s.pw.bootAt + 60000000000000 < s.now →
        exec (.nodeReset q 1 0xA5) s = .next (rejected q 0x03 0x60 s)
        ∧ exec (.factoryReset q 0xA5) s = .next (rejected q 0x03 0x60 s))

/-- NODE.REST stores what its MODE, KEEP and HOLD say, restarts REST_HOLD with the new value, asks for SHELF in mode 2, and
answers the settings in force (R71, R81, R368). -/
def Obligations.NodeRestStoresSettings : Prop :=
  ∀ (q : Req) (mode keep : Byte) (hold : W16) (s : State), Ready q s → (mode.toNat ≤ 2 ∨ mode = 0xFF) →
    (keep.toNat ≤ 1 ∨ keep = 0xFF) → (hold = 0 ∨ (50 ≤ hold.toNat ∧ hold.toNat ≤ 60000)) → poor s = false →
    let ok := if mode = 0 then false else if mode = 1 then true else s.cfg.restOk
    let k := if keep = 0 then false else if keep = 1 then true else s.cfg.keep
    let h := if hold = 0 then s.cfg.restHold else hold.toNat
    exec (.nodeRest q mode keep hold) s = .next (replied q 0x04 0 ([bit ok, bit k] ++ leBytes 2 h) s
      (persist { counted s with
        cfg.restOk := ok
        cfg.keep := k
        cfg.restHold := h
        pw.restDue := s.now + Config.msPs * h
        pw.shelfReq := if mode = 2 then some (some s.cl.nextId) else s.pw.shelfReq }))

/-- ADDR.SET with the node's own UID sets the address from its boundary on, answered also where it was heard by broadcast or
as unaddressed (R370); a node that gives up its address drops what it may no longer send (R147). GROUP.SET replaces, sets or
clears group bits (R373). Both persist. -/
def Obligations.AddressAndGroupsAreSet : Prop :=
  ∀ (q : Req) (s : State), Ready q s → Unlocked q s →
    (∀ addr : W16, addr.toNat ≤ 0x0FFF → exec (.addrSet q addr s.node.uid) s =
      .next (replyOr q (q.kind == .broadcast || q.kind == .unaddressed) (replyBody q.seq [(0x05, 0, [1])]) s.cl.nextId
        (dropUnsent (persist { counted s with cfg.addr := addr }))))
    ∧ (∀ map, exec (.groupSet q 0 map) s = .next (replied q 0x07 0 [] s (persist { counted s with cfg.groups := map })))
    ∧ (∀ map, exec (.groupSet q 1 map) s =
      .next (replied q 0x07 0 [] s (persist { counted s with cfg.groups := s.cfg.groups ||| map })))
    ∧ (∀ map, exec (.groupSet q 2 map) s =
      .next (replied q 0x07 0 [] s (persist { counted s with cfg.groups := s.cfg.groups &&& ~~~ map })))

/-- ADDR.CLAIM: a node whose UID agrees with VALUE under MASK, and that may answer, puts its reply into a holdoff of 0 to
SPREAD × 10 ms in steps of 100 µs; any other node gives no reply (R371). -/
def Obligations.ClaimWaitsItsHoldoff : Prop :=
  ∀ (q : Req) (value mask : W64) (spread : Byte) (s : State), Ready q s →
    (claimAnswers value mask q s = true → ∃ d ≤ 100 * spread.toNat,
      exec (.addrClaim q value mask spread) s = .next { counted s with
        draws := s.draws + 1
        span.claims := (s.span.claims.map fun c => if c.id = s.cl.nextId then
            { c with body := replyBody q.seq [(0x06, 0, leBytes 8 s.node.uid.toNat ++ [s.node.member.code])] } else c)
          ++ [{ due := s.now + 100000000 * d, req := q, id := s.cl.nextId,
                body := replyBody q.seq [(0x06, 0, leBytes 8 s.node.uid.toNat ++ [s.node.member.code])] }] })
    ∧ (claimAnswers value mask q s = false → (∀ c ∈ s.span.claims, c.id < s.cl.nextId) →
        s.pw.resetReq = none → s.pw.shelfReq = none →
      exec (.addrClaim q value mask spread) s = .next (counted s))

/-- WINK starts at the boundary's render time for SECONDS on the ports of its mask, 0 s ending one (R377); a reserved bit is
BAD_ARG, more than 600 s RANGE, a port the member lacks NOT_SUPPORTED. ROLLCALL outside a roll-call is an ordinary query
(R376): a node whose address lies in BASE to BASE + COUNT answers the bytes of Table 14-4 for its kind, no bytes for kind 0,
and a kind-1 reply starts the SKIP marks afresh; any other node answers no bytes. A kind above 3 is BAD_ARG, a range from 0x0000
or beyond 0x0FFF RANGE (R374). -/
def Obligations.WinkAndRollcall : Prop :=
  ∀ (q : Req) (s : State), Ready q s →
    (∀ (seconds : W16) (ports : Byte),
      (ports.toNat < 16 → seconds.toNat ≤ 600 → ports.toNat < 2 ^ s.node.member.ports →
        exec (.wink q seconds ports) s = .next (replied q 0x0A 0 [] s { counted s with
          node.winkFrom := renderNow s, node.winkSecs := seconds.toNat, node.winkPorts := BitVec.ofNat 4 ports.toNat }))
      ∧ (16 ≤ ports.toNat → exec (.wink q seconds ports) s = .next (rejected q 0x0A 0x12 s))
      ∧ (ports.toNat < 16 → 600 < seconds.toNat → exec (.wink q seconds ports) s = .next (rejected q 0x0A 0x13 s))
      ∧ (ports.toNat < 16 → seconds.toNat ≤ 600 → 2 ^ s.node.member.ports ≤ ports.toNat →
        exec (.wink q seconds ports) s = .next (rejected q 0x0A 0x60 s)))
    ∧ ∀ (base : W16) (count : Byte),
      let inside := s.cfg.addr ≠ 0 ∧ base.toNat ≤ s.cfg.addr.toNat ∧ s.cfg.addr.toNat ≤ base.toNat + count.toNat
      let sum2 := fun (f : Port → Nat) => leBytes 2 (min 65535 (f 0 + f 1 + f 2 + f 3))
      let hot := fun p => countCells s p (·.hot)
      (base ≠ 0 → base.toNat + count.toNat ≤ 0x0FFF → inside →
        exec (.rollcall q base count 0) s = .next (replied q 0x09 0 [] s (counted s))
        ∧ exec (.rollcall q base count 1) s = .next (replied q 0x09 0
            (sum2 (faultyOf s) ++ sum2 (unreachOf s) ++ sum2 (staleOf s)
              ++ [BitVec.ofNat 8 (downPorts s + 16 * s.span.skipMark.toNat),
                  BitVec.ofNat 8 (min 255 (hot 0 + hot 1 + hot 2 + hot 3))]) s { counted s with span.skipMark := 0 })
        ∧ exec (.rollcall q base count 2) s = .next (replied q 0x09 0
            (leBytes 2 s.pw.vin ++ leBytes 2 (if s.ka.present then s.pw.vres else 0) ++ [pflags s, wtq s]) s (counted s))
        ∧ exec (.rollcall q base count 3) s = .next (replied q 0x09 0
            (leBytes 8 s.node.uid.toNat ++ leBytes 2 (nodeFlags s) ++ [wtq s,
              BitVec.ofNat 8 ((pstate s 0).code2 + 4 * (pstate s 1).code2 + 16 * (pstate s 2).code2
                + 64 * (pstate s 3).code2)]) s (counted s)))
      ∧ (∀ kind : Byte, kind.toNat ≤ 3 → base ≠ 0 → base.toNat + count.toNat ≤ 0x0FFF → ¬ inside →
        exec (.rollcall q base count kind) s = .next (replied q 0x09 0 [] s (counted s)))
      ∧ (∀ kind : Byte, 3 < kind.toNat → exec (.rollcall q base count kind) s = .next (rejected q 0x09 0x12 s))
      ∧ ∀ kind : Byte, kind.toNat ≤ 3 → (base = 0 ∨ 0x0FFF < base.toNat + count.toNat) →
        exec (.rollcall q base count kind) s = .next (rejected q 0x09 0x13 s)

/-- TIME.KEYSTONE: e is K less the stamp of its frame; with WT LOST or e beyond 256 ticks WT steps by e after
the next boundary, within 2 ticks nothing is corrected, else e is slewed (Table 7-6, R194 to R196, R378). It makes WT GOOD,
ends LOST, and answers e and the action. From the service mailbox it is NOT_SUPPORTED (R378). -/
def Obligations.KeystoneCorrectsTime : Prop :=
  ∀ (q : Req) (k : W48) (s : State), Ready q s →
    let e : Int := (k.toNat : Int) - q.stamp.toNat
    let action : Byte := if s.ka.lost = true ∨ 256 < e.natAbs then 2 else if e.natAbs ≤ 2 then 0 else 1
    (q.mbox = .span → exec (.timeKeystone q k) s = .next (replied q 0x10 0 (leSigned 4 e ++ [action]) s { counted s with
      ka.corr := some (if action = 2 then .step e else if action = 1 then .slew e else .slew 0)
      ka.lastE := e
      ka.ksAt := some s.now
      ka.good := true
      ka.lost := false
      ka.poorHeld := false
      fw.sawKey := true }))
    ∧ (q.mbox = .svc → exec (.timeKeystone q k) s = .next (rejected q 0x10 0x60 s))

/-- TIME.READ answers WT at its boundary, its quality, the last error, the ticks since the last keystone and the slew still to
run (R379). FRAME.RATE and SYNC.CFG set the frame clock, each
ending the other's hold on it, and answer what is in force; with mode 0xFF they only read (R310, R380, R381). -/
def Obligations.FrameClockIsSet : Prop :=
  ∀ (q : Req) (s : State), Ready q s →
    exec (.timeRead q) s = .next (replied q 0x11 0 (leBytes 6 (renderNow s).toNat ++ [wtq s] ++ leSigned 4 s.ka.lastE
        ++ leBytes 4 (match s.ka.ksAt with
            | some a => min 0xFFFFFFFF ((s.now - a) / 244140625)
            | none => 0xFFFFFFFF)
        ++ leSigned 2 (match s.ka.corr with
            | some (.slew e) => e
            | _ => s.ka.slew)) s (counted s))
    ∧ (∀ (mode : Byte) (value : W16), (mode = 0 ∧ 8 ≤ value.toNat ∧ value.toNat ≤ 255)
        ∨ (mode = 1 ∧ 16 ≤ value.toNat ∧ value.toNat ≤ 512) →
      exec (.frameRate q mode value) s = .next (replied q 0x12 0 ([mode] ++ leBytes 2 value.toNat) s
        (persist { counted s with
          cfg.freeRun := mode == 1
          cfg.frameValue := value.toNat
          cfg.sync := if s.cfg.sync = 2 then 0 else s.cfg.sync
          rd.syncLocked := false
          rd.syncHold := false })))
    ∧ (∀ value, s.rd.syncLocked = false → exec (.frameRate q 0xFF value) s =
        .next (replied q 0x12 0 ([bit s.cfg.freeRun] ++ leBytes 2 s.cfg.frameValue) s (counted s)))
    ∧ (∀ mode : Byte, mode.toNat ≤ 1 →
        exec (.syncCfg q mode) s = .next (replied q 0x13 0 ([mode, 0] ++ leBytes 2 (meanInterval s / 1000000)) s
          (persist { counted s with cfg.sync := mode, rd.syncLocked := false, rd.syncHold := false })))
    ∧ (s.rd.syncLocked = false →
        exec (.syncCfg q 2) s = .next (replied q 0x13 0 [2, 1, 0, 0] s (persist { counted s with
          cfg.sync := 2, rd.syncLocked := true, rd.edgeAt := none, rd.intervals := [], rd.syncHold := false })))
    ∧ exec (.syncCfg q 0xFF) s = .next (replied q 0x13 0 ([s.cfg.sync,
        bit (s.rd.syncLocked && (s.rd.intervals.isEmpty || s.rd.syncHold))] ++ leBytes 2 (meanInterval s / 1000000))
        s (counted s))

/-! ## Levels and scenes (11, 14) -/

/-- LEVEL.SET, FADE.START and FADE.STOP write the lanes their zone and mask name, unless such a lane was last written with a
strictly later key (R192), and no other lane (R190, R294, R382, Table 11-2). A LEVEL.SET holds the level, a FADE.START runs
from its start, stated or present, to its target over DUR, a FADE.STOP holds the present value. -/
def Obligations.LanesAreWritten : Prop :=
  ∀ (q : Req) (zone mask : Byte) (s : State), Ready q s → MaskOk mask →
    let now := fun z c => BitVec.ofNat 16 (laneAt s (zoneLane s z c) (renderNow s).toNat)
    let writes := fun f (L : Tab Lane) => LanesSet zone mask (keyNow q s) (renderNow s) f s L
    (∀ level, ∃ L, exec (.levelSet q zone mask level) s = .next (replied q 0x20 0 [] s { counted s with rd.lanes := L })
      ∧ writes (fun _ _ l => { l with l0 := level, l1 := level, d := 0 }) L)
    ∧ (∀ (flags : Byte) (start target : W16) (dur : W32) (curve : Byte), flags.toNat ≤ 1 → CurveOk curve → ∃ L,
      exec (.fadeStart q zone mask flags start target dur curve) s =
        .next (replied q 0x21 0 [] s { counted s with rd.lanes := L })
      ∧ writes (fun z c l => { l with l0 := if flags = 1 then now z c else start, l1 := target, d := dur, c := curve }) L)
    ∧ (∃ L, exec (.fadeStop q zone mask) s = .next (replied q 0x22 0 [] s { counted s with rd.lanes := L })
      ∧ writes (fun z c l => { l with l0 := now z c, l1 := now z c, d := 0 }) L)

/-- EFFECT.SET puts its effect, and EFFECT.CLEAR none, on the zones of the selector, unless the zone's effect was last written
with a strictly later key (R192, R298); no other zone changes. MASTER.SET sets the master lane (R299) and OUTCURVE.SET the
output curve of each class of its mask (R300), unless a strictly later key holds there (R192). -/
def Obligations.EffectsAndMasterAreWritten : Prop :=
  (∀ (q : Req) (zone : Byte) (s : State), Ready q s →
    let writes := fun (e : Effect) (E : Tab Effect) => ∀ z < 256,
      ((zone = 0xFF ∨ zone.toNat = z) ∧ laterThan (zoneEffect s z).key (keyNow q s) = false →
        tget effectBlank E z = { e with key := some (keyNow q s) })
      ∧ (¬ ((zone = 0xFF ∨ zone.toNat = z) ∧ laterThan (zoneEffect s z).key (keyNow q s) = false) →
        tget effectBlank E z = zoneEffect s z)
    (∀ (mask curve : Byte) (depth : W16) (period : W32), MaskOk mask → CurveOk curve → 8 ≤ period.toNat → ∃ E,
      exec (.effectSet q zone mask curve depth period) s =
        .next (replied q 0x23 0 [] s { counted s with rd.effects := E })
      ∧ writes { curve := curve, period := period, depth := depth, mask := BitVec.ofNat 4 mask.toNat } E)
    ∧ ∃ E, exec (.effectClear q zone) s = .next (replied q 0x24 0 [] s { counted s with rd.effects := E }) ∧ writes {} E)
  ∧ ∀ (q : Req) (curve : Byte) (s : State), Ready q s → CurveOk curve →
    (∀ (flags : Byte) (start target : W16) (dur : W32), flags.toNat ≤ 1 →
      exec (.masterSet q flags start target dur curve) s = .next (replied q 0x25 0 [] s { counted s with
        rd.master := if laterThan s.rd.master.key (keyNow q s) then s.rd.master
          else { l0 := if flags = 1 then BitVec.ofNat 16 (laneAt s s.rd.master (renderNow s).toNat) else start,
                 l1 := target, t0 := renderNow s, d := dur, c := curve, key := some (keyNow q s) } }))
    ∧ (∀ classes : Byte, classes ≠ 0 → classes.toNat < 16 → ∃ O : Vector (Byte × Option Key) 4,
      exec (.outcurveSet q classes curve) s = .next (replied q 0x26 0 [] s { counted s with rd.outc := O })
      ∧ ∀ c : Fin 4, O.get c = if classes.getLsbD c.val ∧ laterThan (s.rd.outc.get c).2 (keyNow q s) = false
          then (curve, some (keyNow q s)) else s.rd.outc.get c)

/-- SCENE.RECALL of a usable slot that no user job writes fades the lanes that a record of the slot names from their present
level to the record's, over FADE or, with DEFFADE, over AUX, with the record's curve; where two records name one lane the
later stands; a lane with a strictly later key and every other lane stay (R192, R295, R336, R384). A slot that a user job
writes is BUSY_NV, one not usable BAD_ARG (R336). SCENE.LIST answers the bitmap of valid slots and the boot scene, which it sets
where one is given, and SCENE.READ answers TOTAL and the slot's bytes, clipped to TOTAL (R387, R389). -/
def Obligations.ScenesAreReadAndRecalled : Prop :=
  ∀ (q : Req) (slot : Byte) (s : State), Ready q s → slot.toNat ≤ 63 →
    (sceneUsable s slot.toNat = true → sceneBusy s slot.toNat = false → ∃ L,
      exec (.sceneRecall q slot) s = .next (replied q 0x30 0 [] s { counted s with rd.lanes := L })
      ∧ ∀ z < 256, ∀ c < 4,
        ((∀ r ∈ sceneRecords s slot.toNat, ¬ RecordNames r z c) ∨ laterThan (zoneLane s z c).key (keyNow q s) = true →
          tget laneBlank L (z * 4 + c) = zoneLane s z c)
        ∧ ∀ (before after : List (List Byte)) (r : List Byte), sceneRecords s slot.toNat = before ++ r :: after →
          RecordNames r z c → (∀ x ∈ after, ¬ RecordNames x z c) → laterThan (zoneLane s z c).key (keyNow q s) = false →
          tget laneBlank L (z * 4 + c) =
            { l0 := BitVec.ofNat 16 (laneAt s (zoneLane s z c) (renderNow s).toNat)
              l1 := BitVec.ofNat 16 (fieldLe r (8 + 2 * c) 2)
              t0 := renderNow s
              d := BitVec.ofNat 32 (if (r.getD 2 0).getLsbD 4 then sectorAux s (0x40 + slot.toNat) else fieldLe r 4 4)
              c := r.getD 1 0
              key := some (keyNow q s) })
    ∧ (sceneBusy s slot.toNat = true → exec (.sceneRecall q slot) s = .next (rejected q 0x30 0x20 s))
    ∧ (sceneBusy s slot.toNat = false → sceneUsable s slot.toNat = false →
        exec (.sceneRecall q slot) s = .next (rejected q 0x30 0x12 s))
    ∧ (∀ (offset : W16) (len : Byte), offset.toNat ≤ 4095 → 1 ≤ len.toNat → len.toNat ≤ 200 →
      let total := if sceneValid s slot.toNat then 32 + sectorLen s (0x40 + slot.toNat) else 0
      exec (.sceneRead q slot offset len) s = .next (replied q 0x33 0
        (leBytes 2 total ++ nvBytesAt s (4096 * (0x40 + slot.toNat) + offset.toNat) (min len.toNat (total - offset.toNat)))
        s (counted s)))
    ∧ ∃ bitmap : List Byte, bitmap.length = 8 ∧ (∀ k < 64, (bitmap.getD (k / 8) 0).getLsbD (k % 8) = sceneValid s k)
      ∧ exec (.sceneList q none) s = .next (replied q 0x35 0 (bitmap ++ [s.cfg.bootScene]) s (counted s))
      ∧ ∀ boot : Byte, boot.toNat ≤ 63 ∨ boot = 0xFF → exec (.sceneList q (some boot)) s =
          .next (replied q 0x35 0 (bitmap ++ [boot]) s (persist { counted s with cfg.bootScene := boot }))

/-- SCENE.CAPTURE, the LAST chunk of SCENE.WRITE and SCENE.ERASE each begin one user job of the slot's sector, 0x40 + SLOT,
and wait for it (R317, R319, R385, R386, R388); another chunk of SCENE.WRITE only fills the buffer: a first one begins it, a
later one of the same slot and source continues it. -/
def Obligations.SceneJobsBegin : Prop :=
  ∀ (q : Req) (slot : Byte) (s : State), Ready q s → slot.toNat ≤ 63 → s.sec.prot ≠ 3 → NoUserJob s →
    (∀ zone deffade, ∃ j : Job, j.user = true ∧ j.op = 0x31 ∧ j.tok = some (tokOf s) ∧ j.failed = false
      ∧ j.ops.take 3 = [.intent (0x40 + slot.toNat), .erase (0x40 + slot.toNat), .done (0x40 + slot.toNat)]
      ∧ exec (.sceneCapture q slot zone deffade) s = .next (waits q 0x31 s (addJob j (counted s))))
    ∧ (exec (.sceneErase q slot) s = .next (waits q 0x34 s (addJob
        { kind := .sceneErase slot.toNat, user := true, op := 0x34,
          ops := [.intent (0x40 + slot.toNat), .erase (0x40 + slot.toNat), .done (0x40 + slot.toNat)],
          tok := some (tokOf s), failed := false } (counted s))))
    ∧ (∀ (deffade : W32) (records : List Byte), records.length % 16 = 0 → records.length ≤ 224 →
        (∀ r ∈ recordsOf (records.length / 16) records, recordStatus r = stOk) →
      exec (.sceneWrite q slot 0 0 deffade records) s = .next (replied q 0x32 0 [] s { counted s with
        nv.sceneBuf := some { slot := slot, owner := owner q, deffade := deffade, records := records, lastAt := s.now } })
      ∧ (∃ j : Job, j.user = true ∧ j.op = 0x32 ∧ j.tok = some (tokOf s)
        ∧ j.ops.take 3 = [.intent (0x40 + slot.toNat), .erase (0x40 + slot.toNat), .done (0x40 + slot.toNat)]
        ∧ exec (.sceneWrite q slot 1 0 deffade records) s = .next (waits q 0x32 s
            (addJob j { counted s with nv.sceneBuf := none })))
      ∧ ∀ (f : SceneBuf) (offset : W16), s.nv.sceneBuf = some f → f.slot = slot → f.owner = owner q → offset ≠ 0 →
        f.records.length = 16 * offset.toNat → offset.toNat + records.length / 16 ≤ 254 →
        exec (.sceneWrite q slot 0 offset deffade records) s = .next (replied q 0x32 0 [] s { counted s with
          nv.sceneBuf := some { f with records := f.records ++ records, lastAt := s.now } })
        ∧ ∃ j : Job, j.user = true ∧ j.op = 0x32 ∧ j.tok = some (tokOf s)
          ∧ j.ops.take 3 = [.intent (0x40 + slot.toNat), .erase (0x40 + slot.toNat), .done (0x40 + slot.toNat)]
          ∧ exec (.sceneWrite q slot 1 offset deffade records) s = .next (waits q 0x32 s
            (addJob j { counted s with nv.sceneBuf := none })))

/-! ## Deck, staging, curves (07, 12, 15) -/

/-- DECK.WRITE puts its entries into the staging bank of the owner's stage and changes no other byte of it; DECK.READ answers
the bytes of the bank it names, staging from its STAGE.BEGIN on (R200, R394, R395). -/
def Obligations.DeckIsWrittenAndRead : Prop :=
  ∀ (q : Req) (first : W16) (s : State), Ready q s →
    (∀ (entries : List Byte) (m : Nat), entries.length = 24 * m → 1 ≤ m → m ≤ 9 → first.toNat + m ≤ 4096 →
      (∀ i < m, (entries.getD (24 * i + 1) 0).toNat < 16 ∧ (entries.getD (24 * i + 3) 0).toNat < 16
        ∧ ∀ k, 19 ≤ k → k < 24 → entries.getD (24 * i + k) 0 = 0) →
      (∀ i < m, (first.toNat + i) % 1024 < s.node.member.cells ∧ (first.toNat + i) / 1024 < s.node.member.ports) →
      s.st.owner = some (owner q) → s.st.commit = none → s.st.loads = [] → ∃ S : Memory,
        exec (.deckWrite q first entries) s = .next (replied q 0x40 0 [] s
          { counted s with st.lastAt := s.now, rd.staging := S })
        ∧ ∀ a, tget deckBlank S a = if 24 * first.toNat ≤ a ∧ a < 24 * (first.toNat + m)
            then entries.getD (a - 24 * first.toNat) 0 else tget deckBlank s.rd.staging a)
    ∧ ∀ bank count : Byte, bank.toNat ≤ 1 → 1 ≤ count.toNat → count.toNat ≤ 9 → first.toNat + count.toNat ≤ 4096 →
      (∀ i < count.toNat, (first.toNat + i) % 1024 < s.node.member.cells
        ∧ (first.toNat + i) / 1024 < s.node.member.ports) →
      (bank = 1 → s.st.owner.isSome = true ∧ s.st.loads = [] ∧ s.rd.stale = none) →
      exec (.deckRead q bank first count) s = .next (replied q 0x41 0 ((List.range (24 * count.toNat)).map fun i =>
        tget deckBlank (if bank = 1 then s.rd.staging else s.rd.active) (24 * first.toNat + i)) s (counted s))

/-- The stage (Table 7-7): STAGE.BEGIN opens it for its source and copies the active bank (R198, R396), another source's
stage is STAGE_CONFLICT; STAGE.COMMIT of the owner arms a flip and waits for it, at its WT C or ASAP, and a boundary at or
after C that has passed makes it late (R200, R397); STAGE.ABORT closes the stage (R201, R399); without a stage both are NO_STAGE. -/
def Obligations.StageIsOpenedArmedAborted : Prop :=
  ∀ (q : Req) (c : W48) (s : State), Ready q s →
    let before := if s.rd.lastT = renderNow s then s.rd.prevT else s.rd.lastT
    (s.st.owner = none ∨ s.st.owner = some (owner q) → s.st.commit = none → s.st.loads = [] →
      exec (.stageBegin q) s = .next (replied q 0x42 0 [] s
        { counted s with st.owner := some (owner q), st.lastAt := s.now, rd.staging := s.rd.active, rd.stale := none }))
    ∧ (∀ o, s.st.owner = some o → o ≠ owner q → exec (.stageBegin q) s = .next (rejected q 0x42 0x43 s)
        ∧ exec (.stageAbort q) s = .next (rejected q 0x44 0x43 s))
    ∧ (s.st.owner = none → exec (.stageAbort q) s = .next (rejected q 0x44 0x42 s)
        ∧ exec (.stageCommit q 1 0) s = .next (rejected q 0x43 0x42 s))
    ∧ (s.st.owner = some (owner q) → s.st.commit = none →
      exec (.stageCommit q 1 0) s = .next (waits q 0x43 s { counted s with
        st.lastAt := s.now, st.commit := some { c := 0, asap := true, tok := tokOf s, missed := false } })
      ∧ (s.ka.lost = false → s.ka.wt.toNat ≤ c.toNat + 65536 → c.toNat ≤ s.ka.wt.toNat + 16777216 →
        exec (.stageCommit q 0 c) s = .next (waits q 0x43 s { counted s with
          st.lastAt := s.now
          st.commit := some { c := c, asap := false, tok := tokOf s, missed := decide (c.toNat ≤ before.toNat) } }))
      ∧ (s.st.loads = [] → exec (.stageAbort q) s = .next (replied q 0x44 0 [] s { counted s with st.owner := none })))

/-- DECK.SAVE begins a user job of 443 programs and 25 erases into the area that is not live (R331, R401), and DECK.LOAD of
the owner, with no user job running, begins a load into staging behind those that do not overlap it, failed at once
where no deck was saved (R199, R332, R400); both wait. -/
def Obligations.DeckIsSavedAndLoaded : Prop :=
  ∀ (q : Req) (s : State), Ready q s →
    (Unlocked q s → s.sec.prot.toNat ≤ 1 → NoUserJob s → ∃ j : Job, j.user = true ∧ j.op = 0x45 ∧ j.tok = some (tokOf s)
      ∧ j.ops.head? = some (.intent (if s.cfg.deckLive = some false then 0x98 else 0x80)) ∧ j.ops.length = 468
      ∧ (j.ops.filter fun o => match o with
          | .erase _ => true
          | _ => false).length = 25
      ∧ exec (.deckSave q) s = .next (waits q 0x45 s (addJob j (counted s))))
    ∧ ∀ first count : Byte, 1 ≤ count.toNat → first.toNat + count.toNat ≤ 24 → s.st.owner = some (owner q) →
      s.st.commit = none → NoUserJob s →
      (∀ l ∈ s.st.loads, l.first + l.count + 1 ≤ first.toNat ∨ first.toNat + count.toNat + 1 ≤ l.first) →
      exec (.deckLoad q first count) s = .next (waits q 0x46 s { counted s with
        st.lastAt := s.now
        st.loads := s.st.loads ++ [{ first := first.toNat, count := count.toNat, done := 0,
                                     failed := s.cfg.deckLive.isNone, tok := tokOf s }] })

/-- CURVE.WRITE: a chunk with FIRST 0 begins a buffer, a later one of the same source continues it, and 257 points replace
the curve, its sector to be rewritten; CLEAR removes the table and its curve's buffer (R402); a chunk that continues no buffer
is BAD_ARG. CURVE.READ answers whether the curve has a table, and its points, 0x0000 for each point of none (R403). -/
def Obligations.CurvesAreWrittenAndRead : Prop :=
  ∀ (q : Req) (id : Byte) (s : State), Ready q s →
    (16 ≤ id.toNat → id.toNat ≤ 47 →
      let sector := if id.toNat < 44 then 12 + (id.toNat - 16) / 7 else 176
      let dirty := if s.nv.curveDirty.any fun e => e.1 == sector then s.nv.curveDirty else s.nv.curveDirty ++ [(sector, s.now)]
      let set := fun (l : List W16) (C : Tab (List W16)) => tget curveBlank C id.toNat = l
        ∧ ∀ k ≠ id.toNat, tget curveBlank C k = tget curveBlank s.rd.curves k
      (∀ points : List W16, points.length ≤ 100 →
        exec (.curveWrite q id 0 0 points) s = .next (replied q 0x47 0 (leBytes 2 points.length) s { counted s with
          nv.curveBuf := some { id := id, owner := owner q, points := points, lastAt := s.now } }))
      ∧ (∀ (points held : List W16) (first : W16) (at_ : Nat), points.length ≤ 100 → held.length = first.toNat → first ≠ 0 →
        s.nv.curveBuf = some { id := id, owner := owner q, points := held, lastAt := at_ } →
        (first.toNat + points.length < 257 → exec (.curveWrite q id 0 first points) s =
          .next (replied q 0x47 0 (leBytes 2 (first.toNat + points.length)) s { counted s with
            nv.curveBuf := some { id := id, owner := owner q, points := held ++ points, lastAt := s.now } }))
        ∧ (first.toNat ≤ 256 → first.toNat + points.length = 257 → ∃ C, set (held ++ points) C
          ∧ exec (.curveWrite q id 0 first points) s = .next (replied q 0x47 0 [1, 1] s { counted s with
            rd.curves := C, nv.curveBuf := none, nv.curveDirty := dirty })))
      ∧ (∀ (points : List W16) (first : W16), points.length ≤ 100 → first ≠ 0 → first.toNat ≤ 256 →
        (∀ f, s.nv.curveBuf = some f → f.id ≠ id ∨ f.owner ≠ owner q ∨ f.points.length ≠ first.toNat) →
        exec (.curveWrite q id 0 first points) s = .next (rejected q 0x47 0x12 s))
      ∧ ∃ C, set [] C ∧ exec (.curveWrite q id 1 0 []) s = .next (replied q 0x47 0 [0, 0] s { counted s with
          rd.curves := C
          nv.curveBuf := s.nv.curveBuf.filter fun f => f.id != id
          nv.curveDirty := dirty }))
    ∧ ∀ (first : W16) (count : Byte), 1 ≤ count.toNat → count.toNat ≤ 100 → first.toNat + count.toNat ≤ 257 → id ≠ 0 →
      CurveOk id →
      (hasTable s id.toNat = true → exec (.curveRead q id first count) s = .next (replied q 0x48 0
        (1 :: (List.range count.toNat).flatMap fun i => leBytes 2 (curvePoint s id.toNat (first.toNat + i))) s (counted s)))
      ∧ (hasTable s id.toNat = false → exec (.curveRead q id first count) s = .next (replied q 0x48 0
        (0 :: List.replicate (2 * count.toNat) 0) s (counted s)))

/-! ## Ports, cells, failures, counters (13, 15) -/

/-- PORT.CFG stores the parameters of its port and of no other (R404); PORT.STATUS and PORT.CENSUS answer the fields of
Table 15-4. -/
def Obligations.PortsAreSetAndRead : Prop :=
  ∀ (q : Req) (s : State), Ready q s →
    (∀ (port flags rate fmt interval : Byte) (n : W16), Unlocked q s → port.toNat < s.node.member.ports → flags.toNat < 4 →
      rate.toNat ≤ 2 → fmt.toNat < 12 → interval ≠ 0 → n ≠ 0 → n.toNat ≤ s.node.member.cells →
      ∃ P : Vector PortCfg 4, exec (.portCfg q port flags rate fmt n interval) s =
          .next (replied q 0x50 0 [] s (persist { counted s with cfg.ports := P }))
        ∧ ∀ p : Port, P.get p = if p.val = port.toNat
            then { enable := flags.getLsbD 0, stub := flags.getLsbD 1, rate := rate, fmt := fmt, n := n.toNat, q := interval }
            else s.cfg.ports.get p)
    ∧ (∀ (p : Port) (x : PortState), p.val < s.node.member.ports → s.ports.get p = x →
      exec (.portStatus q (BitVec.ofNat 8 p.val)) s = .next (replied q 0x51 0 ([x.state.code] ++ leBytes 2 x.state.k
        ++ leBytes 2 (x.c.getD 0xFFFF) ++ leBytes 2 (x.w.getD 0xFFFF) ++ leBytes 4 x.skip ++ [x.fseq]
        ++ portCfgBytes (s.cfg.ports.get p)) s (counted s)))
    ∧ exec (.portCensus q) s = .next (replied q 0x52 0 ([0, 1, 2, 3].flatMap fun p : Port =>
        [(s.ports.get p).state.code] ++ leBytes 2 ((s.ports.get p).c.getD 0xFFFF) ++ leBytes 2 ((s.ports.get p).w.getD 0xFFFF))
        s (counted s))

/-- CELL.SIDECFG: mode 0 stores one side word for the ports of its mask (R405), mode 1 asks for one CONFIG frame on each of them
and waits (R406), mode 2 reads the word of the lowest. CELL.IDENT answers the words held for a loop port in OK, and wants an
identity cycle on a port in BROKEN@k (R407); PORT.PROBE wants a census, or a reset with presence, and waits (R408). -/
def Obligations.CellVerbsAct : Prop :=
  (∀ (q : Req) (ports : Byte) (s : State), Ready q s → ports ≠ 0 → ports.toNat < 16 →
    ports.toNat < 2 ^ s.node.member.ports →
    (∀ (wdog cls : Byte) (failsafe poweron : W16),
      let w := sideWord wdog failsafe cls poweron 0
      (∃ V : Vector W64 4,
        exec (.cellSidecfg q ports 0 0 0 wdog failsafe cls poweron) s =
          .next (replied q 0x53 0 (leBytes 8 w.toNat) s (persist { counted s with cfg.side := V }))
        ∧ ∀ p : Port, V.get p = if ports.getLsbD p.val then w else s.cfg.side.get p)
      ∧ ∀ first last : W16, first.toNat ≤ last.toNat →
        (∀ p : Port, ports.getLsbD p.val = true → last.toNat < (s.ports.get p).cfg.n
          ∧ ((s.ports.get p).state = .ok ∨ ∃ k, (s.ports.get p).state = .broken k ∧ last.toNat < k)) →
        ∃ P : Vector PortState 4,
          exec (.cellSidecfg q ports 1 first last wdog failsafe cls poweron) s =
            .next (waits q 0x53 s { counted s with ports := P })
          ∧ ∀ p : Port, P.get p = if ports.getLsbD p.val then { s.ports.get p with
                configs := (s.ports.get p).configs ++ [{ first := first.toNat, last := last.toNat, word := w,
                                                         tok := tokOf s, sent := false, cut := false }] }
              else s.ports.get p)
    ∧ ∃ p : Port, ports.getLsbD p.val = true ∧ (∀ k < p.val, ports.getLsbD k = false) ∧
      exec (.cellSidecfg q ports 2 0 0 0 0 0 0) s =
        .next (replied q 0x53 0 (leBytes 8 (s.cfg.side.get p).toNat) s (counted s)))
  ∧ ∀ (q : Req) (p : Port) (s : State), Ready q s → p.val < s.node.member.ports →
    let port : Byte := BitVec.ofNat 8 p.val
    let x := s.ports.get p
    (∀ (first : W16) (count : Byte), 1 ≤ count.toNat → count.toNat ≤ 28 → first.toNat + count.toNat ≤ x.cfg.n →
      (x.state = .ok → x.cfg.stub = false → x.idents = [] →
        exec (.cellIdent q port first count) s = .next (replied q 0x54 0 ((List.range count.toNat).flatMap fun i =>
          leBytes 8 (tget idBlank x.ids (first.toNat + i)).toNat) s (counted s)))
      ∧ (∀ k, x.state = .broken k → first.toNat + count.toNat ≤ k →
        exec (.cellIdent q port first count) s = .next (waits q 0x54 s (addItem p .identity (setPort p { x with
          idents := x.idents ++ [{ first := first.toNat, count := count.toNat, tok := tokOf s }] } (counted s))))))
    ∧ (x.state ≠ .off → x.state ≠ .relay →
      let asked := setPort p { x with probes := x.probes ++ [tokOf s] } (counted s)
      exec (.portProbe q port 0) s = .next (waits q 0x55 s (addItem p .census asked))
      ∧ exec (.portProbe q port 1) s = .next (waits q 0x55 s (wantReset p .probe asked)))

/-- RELAY.CFG with mode 0xFF reads 0 where the relay is off, 2 where it has had no input and 3 where its input is lost; mode 1
puts S0 into RELAY at once, with no input yet, mode 0 ends that, and both store the setting and the hold limit (R284, R409). On
a member without the relay it is NOT_SUPPORTED. -/
def Obligations.RelayIsSet : Prop :=
  ∀ (q : Req) (s : State), Ready q s → Unlocked q s →
    (s.node.member.harvester = false → exec (.relayCfg q 0xFF 0) s = .next (rejected q 0x56 0x60 s))
    ∧ (s.node.member.harvester = true →
      let input := if s.relay.input = .none then 2 else 3
      (s.relay.on = false → exec (.relayCfg q 0xFF 0) s = .next (replied q 0x56 0 [0] s (counted s)))
      ∧ (s.relay.on = true → exec (.relayCfg q 0xFF 0) s = .next (replied q 0x56 0 [input] s (counted s)))
      ∧ ∀ hold : W16, hold.toNat ≤ 3600 →
        let stored := fun on => persist { counted s with cfg.relay := on, cfg.relayHold := hold.toNat }
        (s.relay.on = true → exec (.relayCfg q 1 hold) s = .next (replied q 0x56 0 [input] s (stored true)))
        ∧ (s.relay.on = false → exec (.relayCfg q 0 hold) s = .next (replied q 0x56 0 [0] s (stored false)))
        ∧ (s.relay.on = false → ∃ t, exec (.relayCfg q 1 hold) s = .next (replied q 0x56 0 [2] s t) ∧ t.relay.on = true
          ∧ t.relay.input = .none ∧ (t.ports.get 0).state = .relay ∧ t.cfg = (stored true).cfg ∧ t.rd = s.rd
          ∧ ∀ p : Port, p ≠ 0 → t.ports.get p = s.ports.get p)
        ∧ (s.relay.on = true → ∃ t, exec (.relayCfg q 0 hold) s = .next (replied q 0x56 0 [0] s t) ∧ t.relay.on = false
          ∧ (t.ports.get 0).state = .off ∧ (t.ports.get 0).cfg = s.cfg.ports.get 0 ∧ t.cfg = (stored false).cfg
          ∧ t.rd = s.rd ∧ ∀ p : Port, p ≠ 0 → (t.ports.get p).state = (s.ports.get p).state))

/-- FAIL.SUMMARY answers the 13 bytes of Table 15-5 for each port (R410), FAIL.MAP the bytes of the map in force, or with
mode 1 one bit for each entry of the page that is not 0x00 (R411), CONCEAL.CFG its two settings, which it stores (R415);
FAIL.NOTIFY stores the report settings (R412): with PUSH off it forgets the pages to report and whatever EVT.FAIL waits, with
PUSH on from POLL it has the pages with a fault or a stale entry to report, and where PUSH was on it changes no more.
Nothing else changes. -/
def Obligations.FailuresAreReadAndSet : Prop :=
  ∀ (q : Req) (s : State), Ready q s →
    (let counts := fun p : Port => [(pstate s p).code] ++ leBytes 2 (faultyOf s p) ++ leBytes 2 (unreachOf s p)
        ++ leBytes 2 (staleOf s p) ++ leBytes 2 (countCells s p (·.hot)) ++ leBytes 2 (countCells s p (·.supply))
        ++ leBytes 2 (countCells s p (·.wdog))
     exec (.failSummary q) s = .next (replied q 0x60 0 (counts 0 ++ counts 1 ++ counts 2 ++ counts 3) s (counted s)))
    ∧ (∀ page : Byte, page.toNat ≤ 15 → page.toNat / 4 < s.node.member.ports → 256 * (page.toNat % 4) < s.node.member.cells →
        ∃ mask : List Byte, mask.length = 32
        ∧ (∀ i < 256, (mask.getD (i / 8) 0).getLsbD (i % 8) = (mapByte s (256 * page.toNat + i) != 0))
        ∧ exec (.failMap q page 1 0 0) s = .next (replied q 0x61 0 ([page, 0] ++ mask) s (counted s)))
    ∧ (∀ page first count : Byte, page.toNat ≤ 15 → page.toNat / 4 < s.node.member.ports →
        256 * (page.toNat % 4) < s.node.member.cells → 1 ≤ count.toNat → count.toNat ≤ 128 →
        first.toNat + count.toNat ≤ 256 →
      exec (.failMap q page 0 first count) s = .next (replied q 0x61 0 ([page, first]
        ++ (List.range count.toNat).map fun i => mapByte s (256 * page.toNat + first.toNat + i)) s (counted s)))
    ∧ (∀ flags : Byte, flags.toNat < 4 → exec (.concealCfg q (some flags)) s = .next (replied q 0x65 0 [flags] s
        (persist { counted s with cfg.conceal := flags.getLsbD 0, cfg.concealUnreach := flags.getLsbD 1 })))
    ∧ exec (.concealCfg q none) s = .next (replied q 0x65 0
        [BitVec.ofNat 8 ((if s.cfg.conceal then 1 else 0) + (if s.cfg.concealUnreach then 2 else 0))] s (counted s))
    ∧ exec (.failNotify q none) s = .next (replied q 0x62 0 (leBytes 2 s.cfg.notify.addr.toNat
        ++ [bit s.cfg.notify.push, s.cfg.notify.f, s.cfg.notify.h, s.cfg.notify.i]) s (counted s))
    ∧ ∀ (addr : W16) (f h i : Byte), (addr = 0 ∨ addr = 0xFFFE ∨ (0x2000 ≤ addr.toNat ∧ addr.toNat ≤ 0x2FFF)) →
        1 ≤ f.toNat → f.toNat ≤ 15 → i ≠ 0 →
      let set := fun push => persist { counted s with cfg.notify := { addr := addr, push := push, f := f, h := h, i := i } }
      let answer : Byte → List Byte := fun mode => leBytes 2 addr.toNat ++ [mode, f, h, i]
      exec (.failNotify q (some (addr, 0, f, h, i))) s = .next (replied q 0x62 0 (answer 0) s { set false with
          fail.mask := 0, fail.late := 0, fail.coming := 0, fail.due := none
          ev.marks := s.ev.marks.filter fun m => m.op != 0xF0 })
      ∧ (s.cfg.notify.push = true ∨ faultPages s = 0 →
        exec (.failNotify q (some (addr, 1, f, h, i))) s = .next (replied q 0x62 0 (answer 1) s (set true)))
      ∧ (s.cfg.notify.push = false → faultPages s ≠ 0 → ∃ d ≤ 10 * h.toNat,
        exec (.failNotify q (some (addr, 1, f, h, i))) s = .next (replied q 0x62 0 (answer 1) s { set true with
          draws := s.draws + 1
          fail.mask := faultPages s
          fail.due := some (s.now + 10000000000 * d) }))

/-- COUNTER.READ answers on-times in 4 s units, and the scalar counters with their flags (R413); COUNTER.SAVE stores
a period, and with b0 begins a user job that saves into the alternate bank, after an erase of that bank where it is not erased
and no erase is on its way (R112, R414). LINK.STATS answers Tables 13-3 and 15-6 and with mode 1 clears the statistics
(R416). -/
def Obligations.CountersAreReadAndSaved : Prop :=
  ∀ (q : Req) (s : State), Ready q s →
    (∀ (first : W16) (count : Byte), 1 ≤ count.toNat → count.toNat ≤ 56 → first.toNat + count.toNat ≤ 4096 →
      exec (.counterRead q 1 first count) s = .next (replied q 0x63 0 ((List.range count.toNat).flatMap fun i =>
        leBytes 4 (tget zeroNat s.cnt.onTime (first.toNat + i))) s (counted s)))
    ∧ exec (.counterRead q 0 0 0) s = .next (replied q 0x63 0 (leBytes 4 s.cnt.pon ++ leBytes 4 s.cnt.pup
        ++ leBytes 4 (s.cnt.cycles.get 0) ++ leBytes 4 (s.cnt.cycles.get 1) ++ leBytes 4 (s.cnt.cycles.get 2)
        ++ leBytes 4 (s.cnt.cycles.get 3) ++ [BitVec.ofNat 8 ((if s.cnt.coarse then 1 else 0) + (if s.cnt.lost then 2 else 0))]
        ++ leBytes 4 (if s.cnt.coarse then s.cnt.since else 0) ++ leBytes 6 s.cnt.saveWt.toNat ++ [s.cfg.period]) s (counted s))
    ∧ (∀ period : Byte, exec (.counterSave q 2 period) s = .next (replied q 0x64 0 [period, 0, 0, 0, 0] s
        (persist { counted s with cfg.period := period })))
    ∧ (NoUserJob s →
      let save : Job := { kind := .counterSave, user := true, op := 0x64, tok := some (tokOf s), failed := false
                          ops := (List.range 64).map (NvOp.counterPage (altBank s)) ++ [.counterRec (altBank s)] }
      let erase : Job := { kind := .bankErase, user := false, op := 0, tok := none, failed := false
                           ops := [0, 1, 2, 3].flatMap fun i =>
                             let sec := (if altBank s then 8 else 4) + i
                             [.intent sec, .erase sec, .done sec] }
      exec (.counterSave q 1 0) s = .next (waits q 0x64 s (addJob save
          (if bankTended s then counted s else addJob erase (counted s))))
      ∧ ∀ period : Byte, exec (.counterSave q 3 period) s = .next (waits q 0x64 s (addJob save
          (let stored := persist { counted s with cfg.period := period }
           if bankTended s then stored else addJob erase stored))))
    ∧ (let port := fun p : Port => leBytes 4 (s.ports.get p).tol ++ leBytes 4 (s.ports.get p).parity
          ++ leBytes 4 (s.ports.get p).skip
       let r := leBytes 4 s.span.crc ++ leBytes 4 s.span.partials ++ leBytes 4 s.span.overrun ++ leBytes 4 s.span.retries
          ++ leBytes 4 s.span.sentAfterCancel ++ leBytes 4 s.span.contests ++ port 0 ++ port 1 ++ port 2 ++ port 3
       exec (.linkStats q 0) s = .next (replied q 0x66 0 r s (counted s))
       ∧ ∃ t, t = { counted s with ports := t.ports, span := t.span } ∧ exec (.linkStats q 1) s = .next (replied q 0x66 0 r s t) ∧ t.span.crc = 0 ∧ t.span.partials = 0
        ∧ t.span.overrun = 0 ∧ t.span.retries = 0 ∧ t.span.sentAfterCancel = 0 ∧ t.span.contests = 0
        ∧ t.span.txDropped = s.span.txDropped
        ∧ ∀ p : Port, t.ports.get p = { s.ports.get p with tol := 0, parity := 0, skip := 0 })

/-! ## NV, power, I/O, bus (16) -/

/-- NV.READ answers the bytes of the store, the key store as 0xFF (R314, R420), and NV.STATUS the fields of Table 16-2; NV.WRITE
begins a user job of one program, cut at the end of its page (R316, R421), and NV.ERASE a user job of one journalled erase
(R422); in a firmware slot that is not run either ends that slot's session and its verified image (R316, R422). -/
def Obligations.StoreIsReadAndWritten : Prop :=
  ∀ (q : Req) (s : State), Ready q s →
    (∀ (addr : W32) (len : Byte), 1 ≤ len.toNat → len.toNat ≤ 224 →
        addr.toNat + len.toNat ≤ 1024 * s.node.member.nvKb →
      exec (.nvRead q addr len) s = .next (replied q 0x70 0 ((List.range len.toNat).map fun i =>
        if (addr.toNat + i) / 4096 = 0xF9 then 0xFF else tget nvBlank s.nv.mem (addr.toNat + i)) s (counted s)))
    ∧ exec (.nvStatus q) s = .next (replied q 0x74 0 ([userOp s]
        ++ leBytes 2 (min 65535 ((s.nv.jobs.map fun j => j.ops.length).sum))
        ++ [BitVec.ofNat 8 s.sec.prot.toNat, bit (liveJ s.nv.mem)] ++ leBytes 4 s.nv.jseq
        ++ [match s.cfg.deckLive with
            | none => 0xFF
            | some second => bit second, BitVec.ofNat 8 (min 255 s.nv.repaired.length)] ++ leBytes 4 s.nv.cfgGen) s (counted s))
    ∧ (∀ (sector : Byte), rawSector s sector.toNat = true →
        4 * sector.toNat < s.node.member.nvKb → (128 ≤ sector.toNat → Unlocked q s) → s.sec.prot = 0 → NoUserJob s →
      exec (.nvErase q sector) s = .next (waits q 0x72 s (addJob
        { kind := .nvErase sector.toNat, user := true, op := 0x72,
          ops := [.intent sector.toNat, .erase sector.toNat, .done sector.toNat], tok := some (tokOf s), failed := false }
        (touchSlot (4096 * sector.toNat) (counted s))))
      ∧ ∀ (addr : W32) (data : List Byte), addr.toNat / 4096 = sector.toNat → 1 ≤ data.length → data.length ≤ 224 →
        exec (.nvWrite q addr data) s = .next (waits q 0x71 s (addJob
          { kind := .nvWrite addr.toNat (data.take (256 - addr.toNat % 256)) data.length, user := true, op := 0x71,
            ops := [.page addr.toNat (data.take (256 - addr.toNat % 256))], tok := some (tokOf s), failed := false }
          (touchSlot addr.toNat (counted s)))))

/-- NV.PROTECT is in force from its boundary and waits for its commit; with 0xFF it reads (R317, R423). SEC.LOCK likewise locks
and unlocks, with the source's nonce, which is used up; the state asked for already, it answers at once (R435, R438).
SEC.SETKEY waits for the commit of its key, given in clear or wrapped under the key in force (R437, R453). SEC.CHALLENGE
answers 24 bytes that begin with the UID, the lock, the key and its generation and end with a fresh nonce, which the source then holds alone of its nonces (R435). The nonce is free: no value of it is
stated (log [14]). -/
def Obligations.SecurityIsSet : Prop :=
  (∀ (q : Req) (s : State), Ready q s → Unlocked q s →
    exec (.secLock q 0xFF 0) s = .next (replied q 0x97 0 [bit s.sec.locked] s (counted s))
    ∧ (exec (.nvProtect q 0xFF) s = .next (replied q 0x73 0 [BitVec.ofNat 8 s.sec.prot.toNat] s (counted s)))
    ∧ (∀ v : Byte, v.toNat < 4 → exec (.nvProtect q v) s = .next (waits q 0x73 s
        (addJob (secJob (.protect (BitVec.ofNat 2 v.toNat) s.sec.prot) [] (some (tokOf s)) s)
          { counted s with sec.prot := BitVec.ofNat 2 v.toNat })))
    ∧ (∀ (nonce : W64) (n : Nonce), n ∈ s.sec.nonces → n.src = owner q → n.value = nonce →
        s.now < n.at_ + 60000000000000 →
      let used := { counted s with sec.nonces := s.sec.nonces.filter fun x => x.src != owner q }
      (s.sec.key.isSome = true → lowReserve s = false → s.sec.locked = false → exec (.secLock q 1 nonce) s =
        .next (waits q 0x97 s (addJob (secJob (.lock true false) [] (some (tokOf s)) s) { used with sec.locked := true })))
      ∧ (s.sec.locked = true → exec (.secLock q 0 nonce) s =
        .next (waits q 0x97 s (addJob (secJob (.lock false true) [] (some (tokOf s)) s) { used with sec.locked := false })))
      ∧ (s.sec.locked = false → (∀ j ∈ s.nv.jobs, j.tok = none) →
        exec (.secLock q 0 nonce) s = .next (replied q 0x97 0 [0] s used))
      ∧ ∀ (key : List Byte) (slot : Nat), key.length = 16 → nextKeySlot s = some slot →
        (s.sec.locked = false → (s.sec.key = none ∨ q.mbox = .svc) → ∃ j : Job, j.tok = some (tokOf s)
          ∧ j.kind = .security (.newKey key (keyCheck key) slot)
          ∧ exec (.secSetkey q 0 nonce key (keyCheck key)) s = .next (waits q 0x96 s (addJob j used)))
        ∧ ∀ k : List Byte, s.sec.key = some k → q.auth = true →
          let new := aesDecrypt k key
          ∃ j : Job, j.tok = some (tokOf s) ∧ j.kind = .security (.newKey new (keyCheck new) slot)
          ∧ exec (.secSetkey q 1 nonce key (keyCheck new)) s = .next (waits q 0x96 s (addJob j used))))
  ∧ ∀ (q : Req) (s : State), Ready q s → Unlocked q s → ∃ (n : W64) (N : List Nonce) (r : List Byte),
    exec (.secChallenge q) s = .next (replied q 0x95 0 (leBytes 8 s.node.uid.toNat ++ r ++ leBytes 8 n.toNat) s
      { counted s with draws := s.draws + 1, sec.nonces := N })
    ∧ r = [bit s.sec.locked, bit s.sec.key.isSome] ++ leBytes 4 s.sec.kgen ++ [BitVec.ofNat 8 s.sec.prot.toNat, wtq s] ∧ { src := owner q, value := n, at_ := s.now } ∈ N
    ∧ (∀ x ∈ N, x.src = owner q → x = { src := owner q, value := n, at_ := s.now })
    ∧ (s.sec.nonces.length ≤ 4 → N.length ≤ 4)

/-- POWER.STATUS answers the fields of Table 16-3 and clears PLATCH b1 and b2 (R424), TEMP.READ 10 bytes and GPIO.RW 3, which
drives the masked output pins (R429); the pin levels and conversions they read are free (log [14]). GPIO.CFG sets one pin
(R428), LAMPEN.SET holds LAMPEN off and lifts the hold, and with 0xFF reads (R427). -/
def Obligations.PowerAndPinsAnswer : Prop :=
  ∀ (q : Req) (s : State), Ready q s →
    exec (.powerStatus q) s = .next (replied q 0x80 0 (leBytes 2 s.pw.vin ++ leBytes 2 s.pw.vio
        ++ leBytes 2 (if s.ka.present then s.pw.vres else 0) ++ leBytes 2 s.pw.vka
        ++ leBytes 2 (if s.ka.hst = .stopped then 0 else s.ka.voc) ++ [pflags s, platch s, s.ka.chg.code,
          BitVec.ofNat 8 s.ka.source] ++ leSigned 2 s.pw.tAvg ++ [wtq s]) s
        { counted s with ka.hardSince := false, ka.darkSince := false })
    ∧ (∃ r, r.length = 10 ∧ r.take 4 = leSigned 2 s.pw.tAvg ++ leSigned 2 s.pw.tNow ∧ r.drop 6 = leBytes 4 s.pw.f ∧
      exec (.tempRead q) s = .next (replied q 0x86 0 r s { counted s with draws := s.draws + 1 }))
    ∧ (∀ wmask wlevel : Byte, wmask.toNat < 16 → wlevel.toNat < 16 →
        (∀ p : Port, wmask.getLsbD p.val = true → ((s.cfg.gpio.get p).mode = 3 ∨ (s.cfg.gpio.get p).mode = 4)
          ∧ (s.pw.extOn = true → p ≠ 0)) →
      ∃ (r : List Byte) (o : BitVec 4), r.length = 3 ∧ exec (.gpioRw q wmask wlevel) s =
          .next (replied q 0x85 0 r s { counted s with draws := s.draws + 1, pw.gpOut := o })
        ∧ ∀ p : Port, o.getLsbD p.val = (if wmask.getLsbD p.val then wlevel.getLsbD p.val else s.pw.gpOut.getLsbD p.val)
          ∧ ((s.cfg.gpio.get p).mode = 3 → (s.pw.extOn = true → p ≠ 0) →
              (r.getD 0 0).getLsbD p.val = o.getLsbD p.val))
    ∧ (∀ p : Port, (s.pw.extOn = true → p ≠ 0) → exec (.gpioCfg q (BitVec.ofNat 8 p.val) 0xFF 0) s =
        .next (replied q 0x84 0 [BitVec.ofNat 8 p.val, (s.cfg.gpio.get p).mode, (s.cfg.gpio.get p).init] s (counted s)))
    ∧ (∀ (p : Port) (mode init : Byte), (mode.toNat ≤ 4 ∨ mode = 5 ∧ p = 1) → init.toNat ≤ 1 →
        (init = 1 → mode = 3 ∨ mode = 4) → (s.pw.extOn = true → p ≠ 0) → ∃ (g : Vector GpioCfg 4) (o : BitVec 4),
      exec (.gpioCfg q (BitVec.ofNat 8 p.val) mode init) s = .next (replied q 0x84 0 [BitVec.ofNat 8 p.val, mode, init] s
          (persist { counted s with cfg.gpio := g, pw.gpOut := o }))
        ∧ ∀ k : Port, g.get k = (if k = p then { mode := mode, init := init } else s.cfg.gpio.get k)
          ∧ o.getLsbD k.val = (if k = p then init == 1 else s.pw.gpOut.getLsbD k.val))
    ∧ exec (.lampenSet q 0xFF) s = .next (replied q 0x83 0
        [BitVec.ofNat 8 ((if s.pw.lampen then 1 else 0) + (if s.pw.lampHold then 2 else 0))] s (counted s))
    ∧ exec (.lampenSet q 0) s = .next (replied q 0x83 0 [2] s { counted s with pw.lampHold := true, pw.lampen := false })
    ∧ exec (.lampenSet q 1) s = .next (replied q 0x83 0 [bit (s.pw.lampen || s.pw.lampMet)] s
        { counted s with pw.lampHold := false, pw.lampen := s.pw.lampen || s.pw.lampMet })

/-- RESERVE.CFG and HARVEST.CFG are stored and in force at once (R98, R107, R425, R426), with PRESENT AUTO keeping what the
boot found; a charger whose reserve stands above the new charge limit counts as terminated. With mode 0 each only reads. -/
def Obligations.ReserveAndHarvesterAreSet : Prop :=
  ∀ (q : Req) (s : State), Ready q s → Unlocked q s →
    (exec (.reserveCfg q 0 0 0 0 0 0) s = .next (replied q 0x81 0 ([s.ka.reserve.present, s.ka.reserve.vchg,
      s.ka.reserve.ichg, s.ka.reserve.darkcut] ++ leBytes 2 s.ka.reserve.chold.toNat) s (counted s)))
    ∧ (s.node.member.harvester = true → exec (.harvestCfg q 0 0 0 0) s =
        .next (replied q 0x82 0 [s.ka.harvest.enable, s.ka.harvest.k, s.ka.harvest.period] s (counted s)))
    ∧ (s.node.member.harvester = false → exec (.harvestCfg q 0 0 0 0) s = .next (rejected q 0x82 0x60 s))
    ∧ (∀ (present vchg ichg darkcut : Byte) (chold : W16), present.toNat ≤ 2 → vchg.toNat ≤ 1 →
        ichg.toNat ≤ 3 → darkcut.toNat ≤ 10 →
      let r : ReserveCfg := { present := present, vchg := vchg, ichg := ichg, darkcut := darkcut, chold := chold }
      let here := if present = 1 then true else if present = 2 then false else s.ka.present
      exec (.reserveCfg q 1 present vchg ichg darkcut chold) s =
        .next (replied q 0x81 0 ([present, vchg, ichg, darkcut] ++ leBytes 2 chold.toNat) s (persist { counted s with
          cfg.reserve := r
          ka.reserve := r
          ka.present := here
          ka.chg := if here = false ∨ ichg = 3 then .off
            else if charging s ∧ (if vchg = 0 then 4100 else 4200) < s.pw.vres then .terminated else s.ka.chg })))
    ∧ ∀ (enable k period : Byte), enable.toNat ≤ 1 → k.toNat ≤ 4 → period.toNat ≤ 2 → s.node.member.harvester = true →
      let h : HarvestCfg := { enable := enable, k := k, period := period }
      exec (.harvestCfg q 1 enable k period) s = .next (replied q 0x82 0 [enable, k, period] s (persist { counted s with
        cfg.harvest := h
        ka.harvest := h
        ka.hst := if enable = 0 then .stopped else if s.ka.hst = .stopped then .boost else s.ka.hst }))

/-- SPAN.CFG stores termination, external transceiver and default rate; only the termination acts at once, while VIN is
present, and none of them moves the transceiver before a boot (R57, R59, R439). SPAN.STATUS answers 15 bytes; with mode 1
it clears TX_DROPPED, and a mode above 1 is BAD_ARG (R440). -/
def Obligations.BusIsSetAndRead : Prop :=
  ∀ (q : Req) (s : State), Ready q s →
    (∀ (flags : Byte) (defrate : W32), Unlocked q s → flags.toNat < 4 → 50000 ≤ defrate.toNat → defrate.toNat ≤ 1050000 →
      let termOn := flags.getLsbD 0 && !s.pw.extOn && decide (s.pw.vin > 0)
      exec (.spanCfg q 1 flags defrate) s =
          .next (replied q 0xA0 0 ([flags] ++ leBytes 4 defrate.toNat ++ [lineOf termOn s]) s
            { persist { counted s with
                cfg.term := flags.getLsbD 0, cfg.ext := flags.getLsbD 1, cfg.defRate := defrate.toNat } with
              pw.termOn := termOn }))
    ∧ (Unlocked q s → exec (.spanCfg q 0 0 0) s = .next (replied q 0xA0 0
        ([BitVec.ofNat 8 ((if s.cfg.term then 1 else 0) + (if s.cfg.ext then 2 else 0))] ++ leBytes 4 s.cfg.defRate
          ++ [lineOf s.pw.termOn s]) s (counted s)))
    ∧ (∀ mode : Byte, mode.toNat ≤ 1 → exec (.spanStatus q mode) s = .next (replied q 0xA1 0
        (leBytes 4 (heldRate s) ++ leBytes 4 s.span.lastRate ++ leBytes 4 s.span.txDropped
          ++ [BitVec.ofNat 8 s.span.ring.length, BitVec.ofNat 8 s.span.outQ.length, s.span.lastDrop]) s
        { counted s with span.txDropped := if mode = 1 then 0 else s.span.txDropped }))
    ∧ ∀ mode : Byte, 1 < mode.toNat → exec (.spanStatus q mode) s = .next (rejected q 0xA1 0x12 s)

/-! ## Firmware verbs (16, 17) -/

/-- FW.INFO answers the fields of Table 16-4. FW.BEGIN opens a session for its source in the inactive slot and erases it
(R431). FW.CHUNK of the owner, at the offset held, adds its bytes, answers at once where it completes no page, and else waits
for a user job that programs the pages it completes, the last one short (R432). FW.FINISH of a whole
image starts its verification and ends the session (R433). FW.ACTIVATE makes a VERIFIED slot pending for the next reset, in
mode 1 asks for that reset, and in mode 2 takes a pending activation back (R434). -/
def Obligations.FirmwareVerbsRun : Prop :=
  ∀ (q : Req) (s : State), Ready q s → Unlocked q s →
    (let slot := fun k => [slotState s k] ++ slotRelease s k ++ leBytes 4 (slotSizeShown s k)
     exec (.fwInfo q) s = .next (replied q 0x90 0 ([BitVec.ofNat 8 s.fw.run, 3, 2] ++ slot 1 ++ slot 2
        ++ leBytes 4 (match s.fw.session with
            | some f => f.held
            | none => 0)) s (counted s)))
    ∧ (∀ size : W32, 1 ≤ size.toNat → size.toNat ≤ 114688 → s.fw.trial = false → NoUserJob s → ∃ t,
      exec (.fwBegin q size) s = .next t
      ∧ t.fw.session = some { slot := if s.fw.run = 1 then 2 else 1, owner := owner q, size := size.toNat, held := 0,
                              buf := [], lastAt := s.now }
      ∧ t.sec.pending = 0 ∧ t.nv.mem = s.nv.mem ∧ t.span.outQ = s.span.outQ ∧ ∃ j ∈ t.nv.jobs, j.user = true
        ∧ j.op = 0x91 ∧ j.tok = some (tokOf s)
        ∧ j.ops.length = 3 * ((size.toNat + 4095) / 4096)
        ∧ j.ops.head? = some (.intent (if s.fw.run = 1 then 0xDC else 0xC0)))
    ∧ (∀ (f : FwSession) (data : List Byte) (offset : W32), s.fw.session = some f → f.owner = owner q →
        offset.toNat = f.held → 1 ≤ data.length → data.length ≤ 224 → f.held + data.length < f.size →
        f.buf.length + data.length < 256 → (∀ j ∈ s.nv.jobs, j.tok = none) →
      exec (.fwChunk q offset data) s = .next (replied q 0x92 0 (leBytes 4 (f.held + data.length)) s { counted s with
        fw.session := some { f with held := f.held + data.length, buf := f.buf ++ data, lastAt := s.now } }))
    ∧ (∀ (f : FwSession) (data : List Byte) (offset : W32), s.fw.session = some f → f.owner = owner q →
        offset.toNat = f.held → 1 ≤ data.length → data.length ≤ 224 → f.held + data.length ≤ f.size → NoUserJob s →
        f.buf.length < 256 → f.buf.length ≤ f.held →
        (256 ≤ f.buf.length + data.length ∨ f.held + data.length = f.size) → ∃ (pages : List NvOp) (rest : List Byte),
      exec (.fwChunk q offset data) s = .next (waits q 0x92 s (addJob
        { kind := .fwPage (slotBase f.slot + f.held) data (f.held + data.length), user := true, op := 0x92, ops := pages,
          tok := some (tokOf s), failed := false }
        { counted s with fw.session := some { f with held := f.held + data.length, buf := rest, lastAt := s.now } }))
      ∧ pages.head? = some (.page (slotBase f.slot + (f.held - f.buf.length)) ((f.buf ++ data).take 256))
      ∧ (f.held + data.length = f.size → rest = [])
      ∧ (f.held + data.length < f.size → rest = (f.buf ++ data).drop 256 ∧ pages.length = 1))
    ∧ (∀ f : FwSession, s.fw.session = some f → f.owner = owner q → f.held = f.size → fwPageRuns s = false →
      exec (.fwFinish q) s = .next (waits q 0x93 s { counted s with
        fw.session := none, fw.verify := some { slot := f.slot, size := f.size, tok := tokOf s } }))
    ∧ (∀ mode : Byte, mode.toNat ≤ 1 → s.fw.trial = false → activateSlot s ≠ 0 → lowReserve s = false →
      exec (.fwActivate q mode) s = .next (replied q 0x94 0 [BitVec.ofNat 8 (activateSlot s)] s
        { commitSec (.pending (activateSlot s)) (counted s) with
          pw.resetReq := if mode = 1 then some { waits := some s.cl.nextId, due := none } else s.pw.resetReq }))
    ∧ (s.fw.trial = false → s.sec.pending ≠ 0 → exec (.fwActivate q 2) s = .next (replied q 0x94 0 [0xFF] s
        (commitSec .unpend (counted s))))

/-! ## Spanline (05, 06) -/

/-- The receiver, in RUN with FOSC locked since the SYNC start edge (R68), with no roll-call in progress. A SYNC of 50 000 to
1 050 000 bit/s begins an arbitrated frame, one of 18 800 to 19 600 traffic of the wake band, another nothing (R130). A frame
that does not pass the address match is muted: it enters no ring and counts nothing (R11, R127). One that does is counted in CRC
where its LEN is above 240, a character after DST is bad, or its residue is not 0x0000, in PARTIAL where its characters end
before its CRC, and in OVERRUN where all 16 ring slots are occupied (R27, Table 6-5); else it is delivered with WT as it was at
its SYNC start edge (R12), and one of LEN 7 or more sets the held rate (R133, R151). Nothing is sent in answer. -/
def Obligations.FramesAreReceived : Prop :=
  (∀ (dt : Nat) (f : RxFrame) (s : State),
    let t := elapse dt s
    let c := f.chars
    let n := (c.getD 6 0).toNat
    let on := t.pw.mode = .run ∧ t.pw.fosc = true ∧ t.pw.lockAt + f.ago ≤ t.now
    (on → t.span.roll = none → 50000 ≤ f.sync → f.sync ≤ 1050000 →
      (∀ (i : Instr) (late : Nat),
        (i = .spanlineFrameClose dt f ∧ late = 0 ∧ f.broken = false)
          ∨ (i = .receiveTimeout dt f ∧ late = 22 * 1000000000000 / f.rate) →
        let h := busHeard f.rate late t
        let bad := { h with span.crc := bump t.span.crc }
        (c.length < 2 → exec i s = .next h)
        ∧ (2 ≤ c.length → matchOf (c.getD 0 0) (c.getD 1 0) t = none → exec i s = .next h)
        ∧ ∀ kind, 2 ≤ c.length → matchOf (c.getD 0 0) (c.getD 1 0) t = some kind →
          (c.length < 7 → exec i s = .next h)
          ∧ (7 ≤ c.length → 240 < n → exec i s = .next bad)
          ∧ (7 ≤ c.length → n ≤ 240 → c.length < 9 + n →
              exec i s = .next { h with span.partials := bump t.span.partials })
          ∧ (n ≤ 240 → 9 + n ≤ c.length → crc16 (c.take (9 + n)) ≠ 0 → exec i s = .next bad)
          ∧ (n ≤ 240 → 9 + n ≤ c.length → crc16 (c.take (9 + n)) = 0 → 16 ≤ t.span.ring.length →
              exec i s = .next { h with span.overrun := bump t.span.overrun })
          ∧ (n ≤ 240 → 9 + n ≤ c.length → crc16 (c.take (9 + n)) = 0 → t.span.ring.length < 16 →
              (n < 7 ∨ be16 c 0 ≠ 0) → exec i s = .next { h with
            span.ring := t.span.ring ++ [{ dst := be16 c 0, src := be16 c 2, seq := be16 c 4, body := (c.drop 7).take n,
                                           stamp := wtAgo f.ago t, rate := f.rate, kind := kind,
                                           closed := t.now + 1000000000000 / (2 * f.rate) }]
            span.lastRate := f.rate
            span.held := if 7 ≤ n then some f.rate else t.span.held }))
      ∧ (f.broken = true → 2 ≤ c.length → (matchOf (c.getD 0 0) (c.getD 1 0) t).isSome = true →
        exec (.spanlineFrameClose dt f) s =
          .next { busHeard f.rate 0 t with span.crc := bump t.span.crc }))
    ∧ (on → 18800 ≤ f.sync → f.sync ≤ 19600 → exec (.spanlineFrameClose dt f) s =
        .next (if c.length < 2 then t else wakeHeard (c.getD 0 0) (c.getD 1 0) t))
    ∧ (f.sync < 18800 ∨ (19600 < f.sync ∧ f.sync < 50000) ∨ 1050000 < f.sync ∨ ¬ on →
        exec (.spanlineFrameClose dt f) s = .next t ∧ exec (.receiveTimeout dt f) s = .next t))
  ∧ ∀ (ago : Nat) (e : State), e.pw.mode ≠ .darkcut → e.ka.startIn = 0 → e.ka.sub < 244140625 → e.ka.slew = 0 →
    (∀ j ∈ e.ka.jumps, j.at_ ≤ e.now) → wtAgo ago (elapse ago e) = e.ka.wt

/-- The address match of Table 5-6: DST 0x0000 is a broadcast, 0x10nn the group nn where the group map has it, an address the
node's own; an unaddressed node answers 0xFFFF (R135). -/
def Obligations.AddressesMatchByTable : Prop :=
  ∀ (h l : Byte) (s : State),
    matchOf 0 0 s = some .broadcast
    ∧ matchOf 0x10 l s = (if s.cfg.groups.getLsbD l.toNat then some .group else none)
    ∧ (s.cfg.addr = 0 → matchOf 0xFF 0xFF s = some .unaddressed)
    ∧ (1 ≤ 256 * h.toNat + l.toNat → 256 * h.toNat + l.toNat ≤ 0x0FFF →
        matchOf h l s = if s.cfg.addr.toNat = 256 * h.toNat + l.toNat then some .individual else none)

/-- The oldest delivered clause, and a pending submission, are taken up in arrival order while the NP runs and a place is free
(R173, R174, R219). An unsequenced LEVEL.SET waits for the next boundary (R186); the SEQ of a new source is recorded (R184), and
a stale one is rejected with STALE_SEQ and changes nothing else (Table 7-4). A body of 0 bytes is no clause (R146, R176). While
a program or erase blocks the NP nothing is taken up (R23). -/
def Obligations.ClausesAreTakenUp : Prop :=
  ∀ (dt : Nat) (zone mask l0 l1 : Byte) (s : State), MaskOk mask →
    let t := elapse dt s
    let body : List Byte := [0x00, 0x20, 0x04, zone, mask, l0, l1]
    let level : W16 := BitVec.ofNat 16 (l0.toNat + 256 * l1.toNat)
    let ready := fun q : Req =>
      t.cl.ready ++ [({ req := q, verbs := [.levelSet q zone mask level], held := false, at_ := t.now } : Queued)]
    (t.nv.running ≠ none → exec (.clauseTakeUp dt) s = .next t ∧ exec (.submissionTakeUp dt) s = .next t)
    ∧ (t.pw.mode = .run → t.nv.running = none → t.span.outQ.length < 8 → t.span.overflow = [] → t.fw.verify = none →
      (∀ (x : RingSlot) (rest : List RingSlot), t.span.ring = x :: rest → t.span.roll = none →
        (t.svc.submitted = true → t.svc.out = none → t.svc.backlog = [] → x.closed ≤ t.svc.submittedAt) →
        let q : Req := { mbox := .span, dst := x.dst, src := x.src, seq := x.seq, kind := x.kind, noreply := false,
                         auth := false, applyAt := none, stamp := x.stamp, rate := x.rate }
        (x.body = [] → exec (.clauseTakeUp dt) s = .next { t with span.ring := rest })
        ∧ (x.body = body →
          (x.seq = 0 → exec (.clauseTakeUp dt) s = .next { t with span.ring := rest, cl.ready := ready q })
          ∧ (x.seq ≠ 0 → (∀ e ∈ t.cl.track, e.src ≠ x.src) → exec (.clauseTakeUp dt) s = .next { t with
              span.ring := rest
              cl.ready := ready q
              cl.track := ({ src := x.src, last := x.seq, reply := none } :: t.cl.track).take 32 })
          ∧ (∀ e, x.seq ≠ 0 → t.cl.track.find? (fun k => k.src == x.src) = some e → x.seq ≠ e.last →
              32767 < (x.seq - e.last).toNat → exec (.clauseTakeUp dt) s = .next (replyOr { q with seq := 0 } false
                (replyBody x.seq [(0, 0x40, [])]) t.cl.nextId { t with span.ring := rest, cl.nextId := t.cl.nextId + 1 }))))
      ∧ (t.svc.submitted = true → t.svc.out = none → t.svc.backlog = [] → (t.svc.image.drop 7).take 7 = body →
          t.svc.image.getD 6 0 = 7 → be16 t.svc.image 4 = 0 → (∀ x ∈ t.span.ring, t.svc.submittedAt < x.closed) →
        let q : Req := { mbox := .svc, dst := 0xFFFE, src := be16 t.svc.image 2, seq := 0, kind := .individual,
                         noreply := false, auth := false, applyAt := none, stamp := t.ka.wt, rate := 0 }
        (exec (.submissionTakeUp dt) s = .next { t with svc.submitted := false, svc.image := [], cl.ready := ready q })
        ∧ ∀ (x : RingSlot) (rest : List RingSlot), t.span.ring = x :: rest → exec (.clauseTakeUp dt) s = .next t))

/-- The head of the outbound queue is attempted on an idle bus, the IFS of 3 c over, unless another frame is already under way
(R152, R153), with the node's address as it stands (R147), and leaves the queue when it is sent (R156). A loss or a fault ends
the attempt and counts a retry (R154), a loss after SRC counts ADDR_CONTEST and sets its flag (R158), and after the 16th attempt
the frame is dropped and counted (R156). Wake-band traffic holds the bus until 1.75 ms have passed without an edge, and restarts
REST_HOLD where it matches (R141). -/
def Obligations.FramesAreSent : Prop :=
  ∀ (dt : Nat) (f : OutFrame) (rest : List OutFrame) (s : State),
    let t := elapse dt s
    let rate := if f.rate = 0 then heldRate t else max 50000 (min 1050000 f.rate)
    let begun := { t with
      span.wakeHold := none, span.tx := some .queue, span.txAt := t.now, span.idle := false
      span.outQ := attempt t f :: rest }
    t.span.outQ = f :: rest → f.op = 0xFE → f.clause = none → t.span.overflow = [] → t.ev.marks = [] → t.svc.backlog = [] →
    t.span.lates = [] → t.span.roll = none →
    (MayStart t → t.span.quietFrom + 33 * 1000000000000 / (t.span.busRate.getD (heldRate t)) ≤ t.now →
      exec (.busIdle dt none) s = .next begun
      ∧ ∀ d, exec (.busIdle dt (some d)) s =
        .next (if 1000000000000 / rate < 4 * d then { t with span.idle := false } else begun))
    ∧ (t.now < t.span.quietFrom + 33 * 1000000000000 / (t.span.busRate.getD (heldRate t)) →
      ∀ lead, exec (.busIdle dt lead) s = .next t)
    ∧ (t.span.tx = some .queue →
      let lost := { t with
        span.tx := none, span.idle := false, span.quietFrom := t.now, span.retries := bump t.span.retries }
      exec (.frameSent dt) s = .next { t with
        span.tx := none, span.idle := false, span.quietFrom := t.now, span.busRate := some rate, span.outQ := rest }
      ∧ (f.attempts < 16 → t.cfg.addr ≠ 0 → (∀ bit, exec (.transmitFault dt bit) s = .next lost)
        ∧ (∀ bit < 55, exec (.arbitrationLoss dt bit) s = .next lost)
        ∧ ∀ bit, 55 ≤ bit → exec (.arbitrationLoss dt bit) s = .next { lost with
            span.contests := bump t.span.contests, node.contest := true })
      ∧ (16 ≤ f.attempts → ∀ bit, exec (.transmitFault dt bit) s = .next { lost with
          span.outQ := rest, span.txDropped := bump t.span.txDropped, span.lastDrop := 0xFE }))
    ∧ (∀ (sync : Nat) (dsth dstl : Byte), t.pw.mode = .run → 18800 ≤ sync → sync ≤ 19600 →
      exec (.wakeBandTraffic dt sync dsth dstl) s = .next (wakeHeard dsth dstl t))
    ∧ ∀ a, t.span.wakeHold = some a →
      (t.now < a + 1750000000 → ∀ lead, exec (.wakeHoldoffExpiry dt lead) s = .next t)
      ∧ (a + 1750000000 ≤ t.now → MayStart { t with span.wakeHold := none } →
        exec (.wakeHoldoffExpiry dt none) s = .next begun
        ∧ ∀ d, exec (.wakeHoldoffExpiry dt (some d)) s =
          .next (if 1000000000000 / rate < 4 * d then { t with span.wakeHold := none, span.idle := false } else begun))

/-- A roll-call (R164 to R172). A broadcast query opens it at its closure, T0 half a bit after its last stop-bit sample; taken up,
its reply is ready. The node's slot reply starts at its instant, with the reply ready and the bus recessive, and is yielded where
an edge is seen (R170); while a reply that began before is in progress the node waits (R169). At TL a node whose slot is done
leaves the roll-call, and one whose reply is late draws a holdoff of 0 to COUNT × 100 µs in 10 µs steps, then offers the reply;
100 ms + COUNT × 100 µs after TL a reply not begun is dropped. One in its attempt then stops before its commit point, and is
sent and counted from it on (Table 6-6). A claim reply goes out after its holdoff, from 0xFFFF where the node is unaddressed
(R371, R372). -/
def Obligations.RollCallRuns : Prop :=
  ∀ (dt : Nat) (s : State),
    let t := elapse dt s
    let dropped := { t with span.lates := [], span.txDropped := bump t.span.txDropped, span.lastDrop := 0xFE }
    (∀ (f : RxFrame) (b0 b1 count kind s0 s1 q0 q1 c0 c1 : Byte), t.pw.mode = .run → t.pw.fosc = true →
        t.pw.lockAt + f.ago ≤ t.now → 50000 ≤ f.sync → f.sync ≤ 1050000 → t.span.roll = none → t.span.ring.length < 16 →
        f.broken = false → kind.toNat ≤ 3 →
        f.chars = [0, 0, s0, s1, q0, q1, 7, 0x00, 0x09, 0x04, b0, b1, count, kind, c0, c1] → crc16 f.chars = 0 →
        let base := b0.toNat + 256 * b1.toNat
        1 ≤ base → base + count.toNat ≤ 0x0FFF →
      let t0 := t.now + 1000000000000 / (2 * f.rate)
      exec (.spanlineFrameClose dt f) s = .next { busHeard f.rate 0 t with
        span.ring := t.span.ring ++ [{ dst := 0, src := be16 f.chars 2, seq := be16 f.chars 4, body := (f.chars.drop 7).take 7,
                                       stamp := wtAgo f.ago t, rate := f.rate, kind := .broadcast, closed := t0 }]
        span.lastRate := f.rate
        span.held := some f.rate
        span.roll := some {
            src := be16 f.chars 2, seq := be16 f.chars 4, base := base, count := count.toNat + 1,
            kind := kind.toNat, rate := f.rate, t0 := t0, anchor := t0, anchorSlot := none, readyAt := none,
            slot := if t.cfg.addr ≠ 0 ∧ base ≤ t.cfg.addr.toNat ∧ t.cfg.addr.toNat ≤ base + count.toNat
              then some (t.cfg.addr.toNat - base) else none,
            frame := none, phase := .window } })
    ∧ (∀ r : RollCall, t.span.roll = some r →
      (∀ (x : RingSlot) (rest : List RingSlot) (b0 b1 count kind : Byte) (k : Nat), t.span.ring = x :: rest →
          x.src = r.src → x.seq = r.seq → x.closed = r.t0 → r.readyAt = none → r.slot = some k → t.cfg.addr ≠ 0 →
          x.seq = 0 → 0x2000 ≤ x.src.toNat → x.src.toNat ≤ 0x2FFF →
          x.body = [0x00, 0x09, 0x04, b0, b1, count, kind] → kind.toNat ≤ 3 →
          1 ≤ b0.toNat + 256 * b1.toNat → b0.toNat + 256 * b1.toNat + count.toNat ≤ 0x0FFF →
          t.pw.mode = .run → t.nv.running = none → t.span.outQ.length < 8 → t.span.overflow = [] → t.fw.verify = none →
          t.svc.submitted = false →
        exec (.clauseTakeUp dt) s = .next { t with
          span.ring := rest
          span.seq := if t.span.seq = 0xFFFF then 1 else t.span.seq + 1
          span.skipMark := if r.kind = 1 then 0 else t.span.skipMark
          pw.restDue := t.now + Config.msPs * t.cfg.restHold
          pw.restFree := false
          span.roll := some { r with
            readyAt := some t.now
            frame := some { dst := r.src, src := t.cfg.addr, seq := t.span.seq, rate := r.rate, op := 0xFE, attempts := 0,
                            clause := none, body := [0x80] ++ leBytes 2 r.seq.toNat ++ rollBytes r.kind t } } })
      ∧ (∀ (k a : Nat) (f : OutFrame), r.slot = some k → r.phase = .window → (slotStart r k).1 ≤ t.now → t.pw.mode = .run →
          exec (.slotReplyStart dt true true false) s = .next t
          ∧ (r.frame = some f → r.readyAt = some a → a + 11 * 1000000000000 / r.rate ≤ (slotStart r k).1 → MayStart t →
              (slotStart r k).2 ≤ 20000 → t.nv.running = none →
              t.now ≤ (slotStart r k).1 + 1000000000000 / (2 * r.rate) / 2 →
            exec (.slotReplyStart dt false true false) s = .next { t with
              span.tx := some .slot, span.txAt := t.now, span.idle := false
              span.roll := some { r with phase := .slotSent, frame := some (attempt t f) } })
          ∧ exec (.slotReplyStart dt false true true) s = .next { t with span.roll := some { r with phase := .yielded } }
          ∧ exec (.slotReplyStart dt false false false) s = .next { t with span.roll := some { r with phase := .yielded } })
      ∧ (∀ f, r.frame = some f → t.span.tx = some .slot →
        exec (.frameSent dt) s = .next { t with
          span.tx := none, span.idle := false, span.quietFrom := t.now
          span.busRate := some (if f.rate = 0 then heldRate t else max 50000 (min 1050000 f.rate))
          span.roll := some { r with frame := none, phase := .slotSent } }
        ∧ ∀ bit < 55, exec (.arbitrationLoss dt bit) s = .next { t with
          span.tx := none, span.idle := false, span.quietFrom := t.now, span.roll := some { r with phase := .yielded } })
      ∧ (rollTl r ≤ t.now → t.span.tx = none → t.span.idle = false → r.slot = none ∨ r.phase = .slotSent →
        exec (.lateWindowOpen dt) s = .next { t with span.roll := none })
      ∧ (∀ f, rollTl r ≤ t.now → t.span.tx = none → r.slot.isSome = true → r.phase ≠ .slotSent → r.frame = some f →
          (t.nv.running ≠ none → exec (.lateWindowOpen dt) s = .next t)
          ∧ (t.nv.running = none → ∃ d ≤ 10 * r.count, exec (.lateWindowOpen dt) s = .next { t with
            draws := t.draws + 1, span.roll := none
            span.lates := t.span.lates ++ [{
              frame := f, due := max (rollTl r) (t.nv.lastEnd.getD 0) + 10000000 * d, offered := false, begunAt := none
              limit := rollTl r + 100000000 * r.count + 100000000000, cancelled := false }] })))
    ∧ (∀ l : LateReply, t.span.lates = [l] → t.span.roll = none →
      (l.due ≤ t.now → t.nv.running = none →
        (t.span.idle = false → exec (.lateReplyHoldoff dt) s = .next { t with span.lates := [{ l with offered := true }] })
        ∧ (t.span.idle = true → MayStart t → exec (.lateReplyHoldoff dt) s = .next { t with
            span.tx := some .late, span.txAt := t.now, span.idle := false
            span.lates := [{ l with
              offered := true, frame := attempt t l.frame, begunAt := some (l.begunAt.getD t.now) }] }))
      ∧ (l.limit ≤ t.now → l.begunAt = none → l.frame.op = 0xFE → t.span.tx = none → t.span.idle = false →
        exec (.lateReplyCancel dt) s = .next dropped)
      ∧ (∀ b, t.span.tx = some .late → l.begunAt = some b → l.frame.op = 0xFE →
        let rate := if l.frame.rate = 0 then heldRate t else max 50000 (min 1050000 l.frame.rate)
        let commit := t.span.txAt + 11 * (8 + l.frame.body.length) * 1000000000000 / rate
        (b ≤ l.limit → exec (.lateReplyCancel dt) s = .next t)
        ∧ (l.limit < b → l.limit ≤ t.now →
          (t.now / 6250 < commit / 6250 → exec (.lateReplyCancel dt) s = .next { dropped with
            span.tx := none, span.idle := false, span.quietFrom := t.now })
          ∧ (commit / 6250 ≤ t.now / 6250 → exec (.lateReplyCancel dt) s = .next { t with
            span.lates := [{ l with cancelled := true }] }))
        ∧ (l.cancelled = true → exec (.frameSent dt) s = .next { t with
          span.tx := none, span.idle := false, span.quietFrom := t.now, span.busRate := some rate, span.lates := []
          span.sentAfterCancel := bump t.span.sentAfterCancel })))
    ∧ ∀ (c : ClaimWait) (rest : List ClaimWait), t.span.claims = c :: rest → c.due ≤ t.now → c.body ≠ [] →
        (∀ x ∈ rest, x.id ≠ c.id) → t.pw.mode = .run → t.nv.running = none →
      exec (.claimHoldoff dt) s = .next (sendReply c.req c.body
        (if c.req.mbox = .svc then 0xFFFE else if t.cfg.addr = 0 then 0xFFFF else t.cfg.addr) c.id
        { t with span.claims := rest })

/-! ## Boundaries (01, 07, 11) -/

/-- At a boundary of a quiet node nothing changes but the boundary's own place in time and the thermal factor of its frame; an
untimed LEVEL.SET that waited for it, and a timed LEVEL.SET whose time has come, take effect there and are answered (R15, R19,
R186, R187), DONE_LATE where the apply-at WT lies a frame period or more back, or an NV block held it (R24, R191). While a
program or erase blocks the NP they wait on (R24, R204). -/
def Obligations.BoundaryServesClauses : Prop :=
  ∀ (dt : Nat) (s : State),
    let t := elapse dt s
    Quiet t →
    (∀ r, Placed r t →
      (t.cl.timed = [] → t.cl.ready = [] → exec (.frameBoundary dt) s = .next (passed r t))
      ∧ (t.nv.running ≠ none → exec (.frameBoundary dt) s = .next (passed r t) ∧ exec (.timedClauseDue dt) s = .next t))
    ∧ ∀ (q : Req) (zone mask : Byte) (level : W16) (held : Bool) (at_ : Nat), MaskOk mask → t.nv.running = none →
      WtBoundary t → idsOk t.cl.waiting t.cl.nextId →
      let w : Queued := { req := q, verbs := [.levelSet q zone mask level], held := held, at_ := at_ }
      let set := fun (_ : Nat) (_ : Nat) (l : Lane) => { l with l0 := level, l1 := level, d := 0 }
      (q.applyAt = none → t.cl.timed = [] → t.cl.ready = [w] → ∃ L, exec (.frameBoundary dt) s =
          .next (replied q 0x20 0 [] t { counted (passed t.ka.wt t) with cl.ready := [], rd.lanes := L })
        ∧ LanesSet zone mask { wt := t.ka.wt, src := q.src, seq := q.seq } t.ka.wt set t L)
      ∧ ∀ a : W48, q.applyAt = some a → a.toNat ≤ t.ka.wt.toNat → t.cl.timed = [w] → t.cl.ready = [] →
        let late : Byte := if held = true ∨ a.toNat + t.cfg.frameValue ≤ t.ka.wt.toNat then 0x01 else 0
        ∃ L, exec (.frameBoundary dt) s = .next (replied q 0x20 late [] t { counted (passed t.ka.wt t) with
            cl.timed := [], rd.lanes := L })
          ∧ exec (.timedClauseDue dt) s = .next (replied q 0x20 late [] t { counted t with cl.timed := [], rd.lanes := L })
          ∧ LanesSet zone mask { wt := a, src := q.src, seq := q.seq } a set t L

/-- An armed flip that is due, with no load running, swaps the banks at the boundary and closes the stage; the content of the
staging bank is then undefined (R25, R200). -/
def Obligations.BanksFlipAtBoundary : Prop :=
  ∀ (dt : Nat) (c : Commit) (s : State),
    let t := elapse dt s
    t.pw.mode = .run → t.relay.on = false → WtBoundary t →
    t.st.commit = some c → (c.asap = true ∨ c.c.toNat ≤ t.ka.wt.toNat) → t.st.loads = [] → t.cl.timed = [] → t.cl.ready = [] →
    ∃ u, exec (.frameBoundary dt) s = .next u ∧ u.rd.active = t.rd.staging ∧ u.rd.staging = [] ∧ u.rd.stale = some t.draws
      ∧ u.st.commit = none ∧ u.st.owner = none ∧ u.rd.lastT = t.ka.wt ∧ t.draws < u.draws

/-- In SYNC-locked mode an edge 1.9 ms or more after the last boundary is a boundary, and its interval from the last edge is
kept, the newest of at most 8; an edge before that is none, and 40 ms without an edge begin the hold (R309). The keystone window
ends GOOD 268 435 ticks after the last keystone (R193). -/
def Obligations.EdgesPlaceBoundaries : Prop :=
  ∀ (dt : Nat) (s : State),
    let t := elapse dt s
    (Quiet t → t.rd.syncLocked = true → t.rd.lastNow + 1900000000 ≤ t.now → t.cl.timed = [] → t.cl.ready = [] →
      (t.rd.edgeAt = none → exec (.syncEdge dt) s =
        .next { passed t.ka.wt t with rd.edgeAt := some t.now, rd.syncHold := false })
      ∧ ∀ a, t.rd.edgeAt = some a → exec (.syncEdge dt) s = .next { passed t.ka.wt t with
          rd.edgeAt := some t.now, rd.syncHold := false, rd.intervals := ((t.now - a) :: t.rd.intervals).take 8 })
    ∧ (t.now < t.rd.lastNow + 1900000000 → exec (.syncEdge dt) s = .next t)
    ∧ (∀ a, t.rd.edgeAt = some a → t.rd.syncLocked = true → t.rd.intervals ≠ [] → a + 40000000000 ≤ t.now →
      exec (.syncHold dt) s = .next { t with rd.syncHold := true })
    ∧ ∀ a, t.ka.ksAt = some a → exec (.keystoneWindowExpiry dt) s = .next
        (if t.now < a + 244140625 * 268436 then t else { t with ka.good := false })

/-! ## Service port (08) -/

/-- Writes, with the line heard and no NV block; the address character selects the register, and a data character acts on the
register selected (R211). A data byte joins the inbound image; with 249 bytes held or a submission pending it sets OE and is
ignored, and so does a submit with one pending (R215). 0xA5 to SVDOOR submits an image of DST 0xFFFE, SRC 0x2000 to 0x2FFF,
9 + LEN bytes with LEN at most 240 and CRC residue 0x0000, and RXRDY then reads 0; any other image is discarded and sets BADSUB.
0x5A discards (R218). Without a selection a data character is ignored (R214). -/
def Obligations.ImagesAreSubmitted : Prop :=
  ∀ (dt : Nat) (addressed : Bool) (b : Byte) (s : State),
    let t := elapse dt s
    let x := t.svc
    let sel := fun r : Byte => { t with
      svc.idle := false, svc.edgeAt := t.now, svc.armed := x.armed && !addressed, svc.sel := some (false, r) }
    SvcHears t → t.nv.running = none →
    (addressed = true ∨ x.sel = some (false, 2) →
      (x.submitted = false → x.image.length < 249 →
        exec (.svdataWrite dt addressed b) s = .next { sel 2 with svc.image := x.image ++ [b] })
      ∧ (249 ≤ x.image.length ∨ x.submitted = true →
        exec (.svdataWrite dt addressed b) s = .next { sel 2 with svc.oe := true }))
    ∧ (addressed = true ∨ x.sel = some (false, 3) →
      (x.submitted = true → exec (.svdoorSubmit dt addressed) s = .next { sel 3 with svc.oe := true })
      ∧ (x.submitted = false →
        let good := be16 x.image 0 = 0xFFFE ∧ 0x2000 ≤ (be16 x.image 2).toNat ∧ (be16 x.image 2).toNat ≤ 0x2FFF
          ∧ (x.image.getD 6 0).toNat ≤ 240 ∧ x.image.length = 9 + (x.image.getD 6 0).toNat ∧ crc16 x.image = 0
        let waiting := { sel 3 with svc.submitted := true, svc.submittedAt := t.now }
        (good → exec (.svdoorSubmit dt addressed) s = .next waiting ∧ (svstat waiting).getLsbD 6 = false)
        ∧ (¬ good → exec (.svdoorSubmit dt addressed) s =
            .next { sel 3 with svc.image := [], svc.cause := x.cause ||| 0x04 }))
      ∧ exec (.svdoorDiscard dt addressed) s = .next { sel 3 with svc.image := [], svc.submitted := false })
    ∧ (addressed = false → x.sel = none →
      let ignored := { t with svc.idle := false, svc.edgeAt := t.now }
      exec (.svdataWrite dt addressed b) s = .next ignored ∧ exec (.svdoorSubmit dt addressed) s = .next ignored
      ∧ exec (.svdoorDiscard dt addressed) s = .next ignored ∧ exec (.svctlWrite dt addressed b) s = .next ignored)

/-- SVCTL takes what is written but its b3, a read-only register nothing (R207, R212); a write during an NV block waits (R222).
The first character after an idle sets the rate (R209), 20 ms without an edge begin an idle, and a bad character sets FE or,
with parity on, PE, and ends the selection (R207, R214). A read of SVSTAT carries its flags, clears COL and arms the clearing of
FE, PE and OE, which a read of SVDATA completes (R210, R216). SVDATA consumes the outbound image byte by byte and empties the
mailbox with its last (R220); SVCAUSE clears the bits it carried (R213); the other registers read as Table 8-2 says (R212). A
read that meets a collision sets COL (R210). During a factory reset nothing is answered (R225). -/
def Obligations.RegistersAreWrittenAndRead : Prop :=
  (∀ (dt : Nat) (b : Byte) (s : State),
    let t := elapse dt s
    let x := t.svc
    let edge := { t with svc.idle := false, svc.edgeAt := t.now }
    (SvcHears t →
      (t.nv.running = none →
        exec (.svctlWrite dt true b) s = .next { edge with
          svc.armed := false, svc.sel := some (false, 7), svc.ctl := b &&& 0xF7 }
        ∧ (∀ reg : Byte, reg.toNat < 128 → reg ≠ 2 → reg ≠ 3 → reg ≠ 7 →
          exec (.registerWrite dt reg [b]) s = .next { edge with svc.armed := false, svc.sel := some (false, reg) })
        ∧ exec (.registerWrite dt 2 []) s = .next { edge with svc.armed := false, svc.sel := some (false, 2) }
        ∧ exec (.svcCharacterError dt false) s = .next { edge with svc.fe := true, svc.sel := none }
        ∧ exec (.svcCharacterError dt true) s =
          .next (if x.ctl.getLsbD 0 then { edge with svc.pe := true, svc.sel := none } else t))
      ∧ (t.nv.running ≠ none → exec (.svdataWrite dt true b) s = .next { edge with
          svc.deferred := x.deferred ++ [.addr 2, .data b] }))
    ∧ (t.pw.mode = .run → t.pw.fosc = true → t.pw.lockAt ≤ t.now → x.idle = true → x.ctl.getLsbD 1 = false →
      (∀ rate, 9600 ≤ rate → rate ≤ 921600 → exec (.svsync dt true rate) s = .next { edge with svc.rate := some rate })
      ∧ (∀ rate, rate < 9600 ∨ 921600 < rate → exec (.svsync dt true rate) s = .next { edge with svc.rate := none })
      ∧ (∀ rate, exec (.svsync dt false rate) s = .next { edge with svc.rate := none })
      ∧ exec (.svdataWrite dt false b) s = .next { edge with svc.rate := none })
    ∧ (x.edgeAt + 20000000000 ≤ t.now → exec (.svcIdle dt) s = .next { t with
        svc.idle := true, svc.sel := none, svc.rate := if x.ctl.getLsbD 1 then x.rate else none })
    ∧ (t.now < x.edgeAt + 20000000000 → exec (.svcIdle dt) s = .next t))
  ∧ ∀ (dt : Nat) (s : State),
    let t := elapse dt s
    let read := { t with svc.idle := false, svc.edgeAt := t.now, svc.armed := false, svc.sel := none }
    SvcHears t → t.nv.running = none →
    (t.sec.factory = true → ∀ n, exec (.svstatRead dt n) s = .next read ∧ exec (.svcauseRead dt n) s = .next read)
    ∧ (t.sec.factory = false →
      exec (.svstatRead dt 1) s = .next { read with svc.armed := true, svc.sent := [svstat t], svc.col := false }
      ∧ exec (.svcauseRead dt 1) s = .next { read with svc.sent := [t.svc.cause], svc.cause := 0 }
      ∧ (∀ n : Byte,
        let plain := fun (reg value : Byte) =>
          exec (.registerWrite dt (0x80 ||| reg) [n]) s = .next { read with svc.sent := List.replicate n.toNat value }
          ∧ exec (.collision dt reg n) s = .next { read with svc.sent := List.replicate n.toNat value, svc.col := true }
        plain 0 0x5A ∧ plain 3 (BitVec.ofNat 8 t.svc.image.length) ∧ plain 4 (BitVec.ofNat 8 (svrlen t))
        ∧ plain 6 t.svc.seqLow ∧ plain 7 t.svc.ctl ∧ ∀ reg : Byte, 8 ≤ reg.toNat → reg.toNat < 128 → plain reg 0)
      ∧ (∀ im b, t.svc.out = some im →
        let clr := if t.svc.armed then { read with svc.fe := false, svc.pe := false, svc.oe := false } else read
        (∀ l, im.bytes = b :: l → l ≠ [] → exec (.svdataRead dt 1) s = .next { clr with
          svc.sent := [b], svc.out := some { im with bytes := l, begun := true } })
        ∧ (im.bytes = [b] → im.op = 0xFE → im.clause = none → t.span.overflow = [] → t.svc.backlog = [] → t.ev.marks = [] →
            t.span.idle = false →
          exec (.svdataRead dt 1) s = .next { clr with svc.sent := [b], svc.out := none })))

/-! ## Strings (09, 10) -/

/-- A return that echoes a frame sent in time makes the port ready and its words are taken; with words for every cell a port in
OK has no break evidence, whatever the frame (R90, R273, R274). A DATA return that is rejected, with a code error or more than 8
TOL events, or that is missing at its deadline is one piece of evidence (R229), the third starts a census (R274). A frame that
ended with SnO released leaves the port driven, and makes a stub ready once a frame was started since its presence; a port 1 s
without a return counts as ready (R90), and with every configured port ready LAMPEN asserts (R37, R90, R427). -/
def Obligations.ReturnsAreTaken : Prop :=
  ∀ (dt : Nat) (p : Port) (s : State),
    let t := elapse dt s
    let x := t.ports.get p
    let lost := { x with awaits := [], srNext := none, srAcc := [], srLen := 0 }
    (t.pw.mode = .run → x.cfg.enable = true → x.cfg.stub = false → x.stopped = false → x.state = .ok →
      (∀ (r : Return) (a : Await), x.awaits = [a] → headerOk r.header = true → a.type = hdrType r.header →
          a.fmt = hdrFmt r.header → a.fseq = hdrFseq r.header → t.now ≤ a.due →
        (r.clean = true → r.tol ≤ 8 → x.cfg.n ≤ r.words.length →
          ∃ u, exec (.loopReturn dt p r) s = .next u ∧ (u.ports.get p).awaits = [] ∧ (u.ports.get p).ready = true
            ∧ (u.ports.get p).w = some r.words.length ∧ (u.ports.get p).returned = true ∧ (u.ports.get p).evidence = 0
            ∧ (u.ports.get p).tol = min (x.tol + r.tol) 0xFFFFFFFF
            ∧ (u.ports.get p).state = .ok ∧ u.rd = t.rd ∧ u.span = t.span ∧ ∀ k ≠ p, u.ports.get k = t.ports.get k)
        ∧ (a.type = 1 → r.clean = false ∨ 8 < r.tol → x.evidence < 2 → exec (.loopReturn dt p r) s = .next (setPort p
            { lost with tol := min (x.tol + r.tol) 0xFFFFFFFF, ready := true, evidence := x.evidence + 1 } t)))
      ∧ ∀ a : Await, x.awaits = [a] → a.due ≤ t.now → a.type = 1 →
        (x.evidence < 2 → exec (.returnDeadline dt p) s = .next (setPort p { lost with evidence := x.evidence + 1 } t))
        ∧ (2 ≤ x.evidence → exec (.returnDeadline dt p) s =
            .next (addItem p .census (setPort p { lost with evidence := 0 } t))))
    ∧ (x.last.isSome = true → x.eofAt ≤ t.now → x.configs = [] → exec (.stringFrameEof dt p) s = .next (setPort p
        { x with release := false, ready := x.ready || (x.cfg.enable && x.cfg.stub && x.framed) } t))
    ∧ (∀ a, x.firstAt = some a → a + 1000000000000 ≤ t.now → x.cfg.enable = true → x.ready = false → t.pw.mode = .run →
        t.cfg.notify.addr = 0 → exec (.readinessTimeout dt p) s = .next (setPort p { x with ready := true } t))
    ∧ (t.pw.mode = .run → t.pw.vioLow = false →
        (∀ k : Port, (t.ports.get k).cfg.enable = true → (t.ports.get k).ready = true) →
      exec (.lampenAssert dt) s = .next { t with pw.lampMet := true, pw.lampen := !t.pw.lampHold })

/-- A waiting maintenance item begins where it can finish before the next frame, or after 1 s whether it can or not (R272), a
probe after a presence not before the DATA frame that precedes it (R281); a reset only takes SnO low for 60 µs, the others send a
QUERY frame and then a low of their class (R256, R258). The presence sample, 20 µs after the release, ends a reset: a port found
at boot is OK and one port cycle more is counted, a port not found is NOCHAIN; SnO is not driven before 45 µs after the release
(R262, R281, R338). -/
def Obligations.MaintenanceRuns : Prop :=
  ∀ (dt : Nat) (p : Port) (s : State),
    let t := elapse dt s
    let x := t.ports.get p
    (∀ (m : Maint) (since : Nat) (rest : List (Maint × Nat)), x.items = (m, since) :: rest → t.pw.mode = .run →
        t.pw.vioLow = false → x.stopped = false → x.state ≠ .relay → x.cfg.enable = true → itemGap x t.now = true →
        (x.fresh = true → m ≠ .census) →
      let begun := fun (i : Instr) => ∃ u, exec i s = .next u ∧ (u.ports.get p).cur = some m
        ∧ (∀ e ∈ (u.ports.get p).items, e ∈ x.items ∧ e.1 ≠ m)
        ∧ (m = .reset → (u.ports.get p).fseq = x.fseq ∧ (u.ports.get p).pulse = some { at_ := t.now, width := 60000000 })
        ∧ (m ≠ .reset → (u.ports.get p).fseq = x.fseq + 1
            ∧ (∃ side, (u.ports.get p).last = some { header := headerOf 3 x.cfg.fmt.toNat (x.fseq + 1) side false, slots := [] })
            ∧ ∃ a, (u.ports.get p).eofAt + x.cfg.n * 16 * bitPs x.cfg.rate + 2000000 ≤ a ∧ (u.ports.get p).pulse = some {
                at_ := a, width := if m = .census then 8000000 else if m = .status then 2000000 else 4000000 })
        ∧ u.rd = t.rd ∧ ∀ k ≠ p, u.ports.get k = t.ports.get k
      (canFinish t x m = true → begun (.maintenanceStart dt p))
      ∧ (since + 1000000000000 ≤ t.now → begun (.maintenanceForced dt p)))
    ∧ (∀ l : Pulse, x.cur = some .reset → x.pulse = some l → t.pw.mode = .run → x.due = none → x.keepDue = false →
      (∀ low, t.now < l.at_ + l.width + 20000000 → exec (.presenceSample dt p low) s = .next t)
      ∧ (l.at_ + l.width + 20000000 ≤ t.now → x.why = .boot →
        (∃ u, exec (.presenceSample dt p true) s = .next u ∧ (u.ports.get p).state = .ok ∧ (u.ports.get p).cur = none
          ∧ (u.ports.get p).freeAt = max t.now (l.at_ + l.width + 45000000) ∧ (u.ports.get p).fresh = true
          ∧ u.cnt.cycles.get p = bump (t.cnt.cycles.get p) ∧ ∀ k ≠ p, u.ports.get k = t.ports.get k)
        ∧ (x.configs = [] → ∃ u, exec (.presenceSample dt p false) s = .next u ∧ (u.ports.get p).state = .nochain
          ∧ (u.ports.get p).cur = none ∧ (u.ports.get p).items = x.items.filter (fun i => i.1 != .census && i.1 != .identity)
          ∧ u.cnt = t.cnt ∧ ∀ k ≠ p, u.ports.get k = t.ports.get k)))

/-- An answer that began within 8 µs of the release, its header in time, ends the item, and SnO stays released for 4 µs more
(R261). A census answer decides the port's state by Table 10-4: all N cells is OK, fewer is BROKEN@C, and more than the k of a
port in BROKEN@k wants a reset first (R278, R279); a status answer gives W (R275); an identity answer ends its cycle (R276).
Without a preamble by 8 µs a census counts 0 cells and a reset is wanted; without a header by its limit the answer is discarded,
the census asked for again, and SnO not driven before the answer has ended (R261, R278). Each second a port in NOCHAIN wants a
reset, one in BROKEN@k, and a stub in OK, a census (R278, R280). -/
def Obligations.AnswersAreTaken : Prop :=
  ∀ (dt : Nat) (p : Port) (s : State),
    let t := elapse dt s
    let x := t.ports.get p
    x.due = none → x.keepDue = false →
    (∀ (r : Return) (m : Maint) (l : Pulse), x.cur = some m → m ≠ .reset → x.discarded = false → x.pulse = some l →
        let released := l.at_ + l.width
        released ≤ t.now - r.began → t.now - r.began ≤ released + 8000000 →
        t.now - r.headed ≤ released + x.cfg.n * 500000 + x.cfg.n * 8 * bitPs x.cfg.rate + 20000000 →
        answerOk x m r = true →
      ∃ u, exec (.backwardAnswer dt p r) s = .next u ∧ (u.ports.get p).cur = none
        ∧ (u.ports.get p).freeAt = max x.freeAt (t.now + 4000000)
        ∧ (m = .status → (u.ports.get p).w = some r.words.length)
        ∧ (m = .identity → (u.ports.get p).idents = [])
        ∧ (m = .census → countOk r = true → 0 < r.count.toNat →
          (u.ports.get p).c = some r.count.toNat
          ∧ ((∀ k, x.state = .broken k → r.count.toNat ≤ k ∨ x.second = true) →
            (u.ports.get p).state = (if r.count.toNat < x.cfg.n then .broken r.count.toNat
              else if x.cfg.stub = true ∨ x.returned = true then .ok else .broken x.cfg.n))
          ∧ ∀ k, x.state = .broken k → k < r.count.toNat → x.second = false →
            (u.ports.get p).state = .broken k ∧ (u.ports.get p).second = true
            ∧ ∃ since, (Maint.reset, since) ∈ (u.ports.get p).items))
    ∧ (∀ l : Pulse, x.cur = some .census → x.pulse = some l →
        let released := l.at_ + l.width
        (released + 8000000 ≤ t.now → ∃ u, exec (.answerTimeout dt p false) s = .next u ∧ (u.ports.get p).cur = none
          ∧ (u.ports.get p).freeAt = max x.freeAt (released + 20000000)
          ∧ (u.ports.get p).c = some 0 ∧ ∃ since, (Maint.reset, since) ∈ (u.ports.get p).items)
        ∧ (t.now < released + 8000000 → exec (.answerTimeout dt p false) s = .next t)
        ∧ (released + x.cfg.n * 500000 + x.cfg.n * 8 * bitPs x.cfg.rate + 20000000 ≤ t.now → x.tries ≠ 0 →
          ∃ u, exec (.answerTimeout dt p true) s = .next u ∧ (u.ports.get p).cur = none ∧ (u.ports.get p).discarded = true
            ∧ (u.ports.get p).c = x.c ∧ (u.ports.get p).tries = x.tries - 1
            ∧ ∃ since, (Maint.census, since) ∈ (u.ports.get p).items))
    ∧ (x.discarded = true → ∀ r : Return, exec (.backwardAnswer dt p r) s = .next (setPort p
        { x with discarded := false, freeAt := max x.freeAt (t.now + 4000000) } t))
    ∧ (t.pw.mode = .run → t.ka.wt.toNat % 4096 = 0 → t.pw.vioLow = false → ∃ u, exec (.periodicProbe dt) s = .next u
        ∧ ∀ k : Port, (t.ports.get k).cfg.enable = true → (t.ports.get k).stopped = false →
          ((t.ports.get k).state = .nochain → (t.ports.get k).cur = none →
            ∃ since, (Maint.reset, since) ∈ (u.ports.get k).items)
          ∧ (∀ c, (t.ports.get k).state = .broken c ∨ ((t.ports.get k).state = .ok ∧ (t.ports.get k).cfg.stub = true) →
            ∃ since, (Maint.census, since) ∈ (u.ports.get k).items))

/-- In relay mode a valid DATA frame on S0R is being received from its header on, is a boundary, and is forwarded on S0O
without the slots S1 to S3 consume, with EOF at once after a code error (R243, R286, R288, R290, Table 1-4); a frame whose header
is wrong is cut and takes no slot (R243). 100 ms without a DATA header are a loss (R290); from then on KEEP frames leave every
100 ms, on a busy port once its item has ended, until the hold limit (R290, R409). A low is passed on to S0O from 0.3 to 0.4 µs
after its start, not before the frame being sent there has ended, if the input is still low then, and held at least until the
mark of its class (R257, R288). While VIO is low nothing is taken or passed on (R64). -/
def Obligations.RelayFollowsItsInput : Prop :=
  ∀ (dt : Nat) (s : State),
    let t := elapse dt s
    t.relay.on = true → t.pw.mode = .run →
    (∀ f : RelayIn,
      (t.pw.vioLow = true → exec (.relayInputFrame dt f) s = .next t)
      ∧ (t.pw.vioLow = false → inputValid f.header = true → hdrType f.header = 1 → t.cl.timed = [] → t.cl.ready = [] →
        ∃ u, exec (.relayInputFrame dt f) s = .next u ∧ u.rd.lastT = t.ka.wt ∧ u.rd.lastNow = t.now
          ∧ u.relay.input = .receiving ∧ u.relay.headerAt = t.now ∧ u.relay.keepStop = false
          ∧ u.relay.hdrAt = some t.now ∧ u.relay.gap = (t.relay.hdrAt.map fun a => t.now - a).getD 0
          ∧ u.relay.forwarded = some { header := f.header, slots := f.slots.drop (relayCount u), census := none,
                                       tail := f.tail, cut := !f.clean })
      ∧ (t.pw.vioLow = false → inputValid f.header = false → ∃ u, exec (.relayInputFrame dt f) s = .next u
          ∧ u.relay.forwarded = none ∧ u.relay.good = t.relay.good ∧ u.rd = t.rd ∧ u.relay.input = t.relay.input))
    ∧ (t.relay.input ≠ .lost → t.relay.headerAt + 100000000000 ≤ t.now → t.cfg.notify.addr = 0 →
      exec (.relayInputLoss dt) s = .next { t with
        relay.input := .lost, relay.lossAt := t.now, relay.keepAt := t.now - 100000000000, relay.keepStop := false })
    ∧ (t.relay.input = .lost → t.relay.keepStop = false → t.relay.keepAt + 100000000000 ≤ t.now → t.pw.vioLow = false →
      ∃ u, exec (.relayKeep dt) s = .next u ∧ u.relay.keepAt = t.now ∧ u.ports.get 0 = t.ports.get 0
        ∧ ∀ k : Port, k ≠ 0 → (t.ports.get k).stopped = false → (t.ports.get k).state = .ok →
          ((t.ports.get k).cur = none → (t.ports.get k).discarded = false →
            (u.ports.get k).fseq = (t.ports.get k).fseq + 1)
          ∧ ((t.ports.get k).cur.isSome = true ∨ (t.ports.get k).discarded = true →
            u.ports.get k = { t.ports.get k with keepDue := true }))
    ∧ (t.relay.input = .lost → t.cfg.relayHold ≠ 0 → t.relay.lossAt + 1000000000000 * t.cfg.relayHold ≤ t.now →
      exec (.relayHoldLimit dt) s = .next { t with relay.keepStop := true })
    ∧ ∀ w, (t.pw.vioLow = true → exec (.relayInputLow dt w) s = .next t)
      ∧ (t.pw.vioLow = false →
        let spent := { t with draws := t.draws + 2 }
        (w < 300 → exec (.relayInputLow dt w) s = .next spent)
        ∧ ∃ d less, 300000 ≤ d ∧ d ≤ 400000 ∧ less ≤ 5000 ∧
          let from_ := max (t.now - 1000 * w + d) t.relay.outEnd
          let mark := if 1600 ≤ w ∧ w ≤ 2400 then 2000000 else if 3200 ≤ w ∧ w ≤ 4800 then 4000000
            else if 6400 ≤ w ∧ w ≤ 9600 then 8000000 else 0
          exec (.relayInputLow dt w) s = .next (if from_ < t.now then
            { spent with relay.low := some { at_ := from_, width := max (t.now + (d - less)) (from_ + mark) - from_ } }
            else spent))

/-! ## Power states and resets (03, 04) -/

/-- REST and SHELF (R76 to R82, R138 to R140, R223). A wake frame is SYNC 0x55, DSTH, DSTL and WAKE 0xA5, with mark bits 0, 1, 1
and 0 and gaps of at most one character; one whose address matches, and an SVC wake with RWAKE set or in SHELF, bring the node
back to RUN: FOSC locks within 60 µs (R68), REST_HOLD restarts, the held rate is the default again (R133). Anything else wakes
nothing. In REST with KEEP a running port sends a KEEP frame each second, once FOSC has locked (R68, R79), while VIO is good
(R65). SHELF is entered with the queue empty, its LAMPEN released and FOSC and WRC off; an SVC edge starts the WRC and 20 ms
without one stop it. -/
def Obligations.RestAndShelfPass : Prop :=
  ∀ (dt : Nat) (s : State),
    let t := elapse dt s
    let wakes := fun (i : Instr) (port : Svc → Prop) => ∃ u, exec i s = .next u ∧ u.pw.mode = .run ∧ u.pw.fosc = true
      ∧ u.pw.lockAt = (if t.pw.fosc = true then t.pw.lockAt else t.now + 60000000)
      ∧ u.pw.restDue = t.now + Config.msPs * t.cfg.restHold ∧ u.pw.restFree = false ∧ u.span.held = none ∧ port u.svc
      ∧ u.rd.lanes = t.rd.lanes ∧ u.nv = t.nv ∧ (t.pw.vioDown = false → u.pw.lampen = t.pw.lampen)
    (t.pw.mode = .run → t.pw.restDue ≤ t.now → exec (.restHoldExpiry dt) s = .next { t with pw.restFree := true })
    ∧ (∀ (y h l w : WakeChar) (more : List WakeChar),
      let char := 11 * 1000000000000 / 19200
      let sequence := (y.framed = true ∧ y.mark = false ∧ y.value = 0x55)
        ∧ (h.framed = true ∧ h.mark = true ∧ h.gap ≤ char) ∧ (l.framed = true ∧ l.mark = true ∧ l.gap ≤ char)
        ∧ (w.framed = true ∧ w.mark = false ∧ w.gap ≤ char ∧ w.value = 0xA5)
      let ours := (matchOf h.value l.value t).isSome = true
      (t.pw.mode = .rest → sequence → ours → wakes (.wakeFrame dt (y :: h :: l :: w :: more)) (fun v => v = t.svc))
      ∧ (¬ (t.pw.mode = .rest ∧ sequence ∧ ours) → exec (.wakeFrame dt (y :: h :: l :: w :: more)) s = .next t))
    ∧ (∀ c : List WakeChar, c.length < 4 → exec (.wakeFrame dt c) s = .next t)
    ∧ (∀ rate,
      let heard := t.svc.idle = true ∧ 9600 ≤ rate ∧ rate ≤ 19200
      (t.pw.mode = .shelf ∨ (t.pw.mode = .rest ∧ t.svc.ctl.getLsbD 2 = true) → heard →
        wakes (.svcWake dt rate) (fun v => v.cause = t.svc.cause ||| 0x08 ∧ v.rate = some rate ∧ v.idle = false))
      ∧ ((t.pw.mode = .rest ∧ t.svc.ctl.getLsbD 2 = false) ∨ (t.pw.mode ≠ .run ∧ ¬ heard) →
        exec (.svcWake dt rate) s = .next { t with svc.idle := false, svc.edgeAt := t.now }))
    ∧ (t.pw.mode = .rest → t.pw.keepRest = true → t.ka.wt.toNat % 4096 = 0 →
      (t.pw.vioDown = true → exec (.keepBurst dt) s = .next t)
      ∧ (t.pw.vioDown = false → ∃ u, exec (.keepBurst dt) s = .next u ∧ u.pw = t.pw ∧ ∀ p : Port,
        if (t.ports.get p).cfg.enable = true ∧ (t.ports.get p).state.running = true
        then (u.ports.get p).fseq = (t.ports.get p).fseq + 1 ∧ (u.ports.get p).awaits = (t.ports.get p).awaits
          ∧ t.now + 60000000 ≤ (u.ports.get p).eofAt
        else u.ports.get p = t.ports.get p))
    ∧ (t.pw.mode = .run → t.pw.shelfReq = some none → t.span.outQ = [] → t.span.overflow = [] → t.span.tx = none →
        t.nv.running = none → ∃ u, exec (.shelfEntry dt) s = .next u
      ∧ u.pw = { t.pw with mode := .shelf, shelfReq := none, lampen := false, lampMet := false, fosc := false, wrc := false }
      ∧ u.rd = t.rd ∧ u.cfg = t.cfg ∧ ∀ p : Port, (u.ports.get p).ready = false ∧ (u.ports.get p).state = (t.ports.get p).state)
    ∧ (t.pw.mode = .shelf → exec (.shelfSvcEdge dt) s = .next { t with pw.wrc := true, svc.edgeAt := t.now }
      ∧ (t.pw.wrc = true → t.svc.edgeAt + 20000000000 ≤ t.now →
        exec (.wrcStop dt) s = .next { t with pw.wrc := false, svc.idle := true }))

/-- Every cause of Table 3-6 resets the core domain and boots it with that cause (R33, R83, R85, R87), where its condition
holds: a RESET_N low of 10 µs or more, while one below 1 µs is ignored and one between may do either (R34); VIN and VRES both
below 2.0 V (R62); a watchdog outside an NV block (R84); a requested reset whose 5 ms have passed (R367); 60 s of an unconfirmed
trial (R461). Where the core rails are off, a pin or a supply resets the core with VIN at POR, log [72]'s reading. A boot that
waited at step 4 goes on with VIN good, and one in which VIN falls below 2.55 V waits there again (R88). The boots stated are
those that select the ROM (a patch image of another release is refused, R2). A reset keeps the keep-alive domain and the store
and loses the rest of the core domain: clauses, frames, reports, lanes, nonces, the stage (R33, R183, R188, R201, R349,
R435). -/
def Obligations.ResetsBoot : Prop :=
  (∀ (dt : Nat) (b : BootIn) (s : State),
    let t := elapse dt s
    (t.pw.mode = .save → t.pw.saving = 0) →
    let anew := { kaReset b.vres t with ka.darkLatch := false }
    let off := t.pw.mode = .holdover ∨ t.pw.mode = .darkcut
    let byPin := fun (cause : Byte) (o : Host.Outcome State Fault Refusal) =>
      (¬ off → Boots cause b t o) ∧ (off → b.vin < 2450 → o = .next t)
      ∧ (t.pw.mode = .holdover → 2450 ≤ b.vin → Boots cause b t o)
      ∧ (t.pw.mode = .darkcut → 2450 ≤ b.vin → Boots cause b anew o)
    (t.pw.mode ≠ .darkcut → Boots 0x01 b t (exec (.powerOn dt b) s))
    ∧ (t.pw.mode = .darkcut → Boots 0x01 b anew (exec (.powerOn dt b) s)
      ∧ (2650 ≤ b.vin → Boots 0x01 b anew (exec (.holdoverVinGood dt b) s)))
    ∧ (∀ w, 10000 ≤ w → byPin 0x03 (exec (.resetPin dt w b) s))
    ∧ (∀ w, w < 1000 → exec (.resetPin dt w b) s = .next t)
    ∧ (∀ w, 1000 ≤ w → w < 10000 → ¬ off →
        let drawn := { t with draws := t.draws + 1 }
        exec (.resetPin dt w b) s = .next drawn ∨ Boots 0x03 b drawn (exec (.resetPin dt w b) s))
    ∧ (∀ vin vres : Nat, (vin < 2000 ∧ vres < 2000 → byPin 0x02 (exec (.brownOut dt vin vres b) s))
      ∧ (2000 ≤ vin ∨ 2000 ≤ vres → exec (.brownOut dt vin vres b) s = .next t))
    ∧ (t.pw.mode = .run ∨ t.pw.mode = .save ∨ t.pw.mode = .bootWait →
      (t.nv.running = none → Boots 0x05 b t (exec (.watchdog dt b) s))
      ∧ (t.nv.running ≠ none → exec (.watchdog dt b) s = .next t))
    ∧ (t.pw.mode = .run →
      (∀ due, t.nv.running = none → t.nv.jobs = [] → t.pw.resetReq = some { waits := none, due := some due } →
          (due ≤ t.now → Boots 0x04 b t (exec (.resetAfterReply dt b) s))
          ∧ (t.now < due → exec (.resetAfterReply dt b) s = .next t))
      ∧ (t.nv.running = none → t.nv.jobs = [] → t.fw.trial = true → t.pw.bootAt + 60000000000000 ≤ t.now →
        Boots 0x04 b t (exec (.fwConfirmTimeout dt b) s)))
    ∧ (t.pw.mode = .save → 2650 ≤ b.vin → Boots 0x06 b t (exec (.saveComplete dt b) s))
    ∧ (t.pw.mode = .holdover → 2650 ≤ b.vin → Boots 0x01 b t (exec (.holdoverVinGood dt b) s))
    ∧ (t.pw.mode = .bootWait →
      (b.vin < 2650 → exec (.vinGood dt b) s = .next t)
      ∧ (2650 ≤ b.vin → b.vinMin < 2550 → exec (.vinGood dt b) s = .next { t with pw.vin := b.vinMin })
      ∧ (2650 ≤ b.vin → 2550 ≤ b.vinMin → RomSelected b t → BootsOn b t (exec (.vinGood dt b) s))))
  ∧ ∀ (cause : Byte) (b : BootIn) (s : State), s.nv.running = none →
    let v := bootStart cause b s
    v.nv.mem = s.nv.mem ∧ v.ka.wt = s.ka.wt ∧ v.ka.lost = s.ka.lost ∧ v.ka.reserve = s.ka.reserve ∧ v.ka.saveOpen = s.ka.saveOpen
    ∧ v.now = s.now ∧ v.node.uid = s.node.uid ∧ v.node.member = s.node.member ∧ v.pw.cause = cause ∧ v.pw.gp2 = b.gp2
    ∧ v.pw.gp3 = b.gp3 ∧ v.span.outQ = [] ∧ v.span.ring = [] ∧ v.cl.track = [] ∧ v.cl.timed = [] ∧ v.ev.held = [] ∧ v.fail.map = []
    ∧ v.rd.lanes = [] ∧ v.sec.nonces = [] ∧ v.st.owner = none ∧ v.st.commit = none ∧ v.svc.cause = 0x10 ∧ v.svc.ctl = 0x05
    ∧ ∀ p : Port, (v.ports.get p).state = .off ∧ (v.ports.get p).skip = 0

/-- SAVE from RUN, REST and SHELF: output and LAMPEN stop, the WRC stops (Table 3-3), the SAVE-OPEN mark is set, and with the
alternate bank erased, no erase of it cut short or unconfirmed, a full save is chosen where 3.20 V of reserve under load or
1.8 mC of hold-up carry it, else a summary (R112 to R114, R329, Table 4-7). With VIN still low its end is HOLDOVER, the mark
cleared where a record was written (R112) and the straps latched still (R38). Ten seconds below the dark-cut threshold are
DARKCUT, which VIN through POR ends as a reset, and 3.60 V, compared in a window of the reference, as HOLDOVER; it and a
keep-alive power-on reset restart WT at 0, LOST (R72, R97, R103, R106 to R109). -/
def Obligations.SaveHoldoverAndDarkcut : Prop :=
  ∀ (dt : Nat) (s : State),
    let t := elapse dt s
    (∀ vin vres : Nat, (t.pw.mode = .run ∨ t.pw.mode = .rest ∨ t.pw.mode = .shelf) → t.nv.running = none →
      ∃ u, exec (.save dt vin vres) s = .next u ∧ u.pw.mode = .save ∧ u.pw.vin = vin ∧ u.pw.lampen = false ∧ u.pw.wrc = false
        ∧ u.pw.fosc = true ∧ u.pw.termOn = false ∧ u.ka.saveOpen = true ∧ u.span.tx = none ∧ u.cnt = t.cnt ∧ u.nv = t.nv
        ∧ u.pw.saving = (if bankReady t (altBank t) then
            (if (reserveUp t ∧ 3200 ≤ vres) ∨ 1800000 ≤ t.ka.reserve.chold.toNat * (vin - 2100) then 1 else 2) else 0))
    ∧ (∀ b : BootIn, t.pw.mode = .save → b.vin < 2650 → ∃ u, exec (.saveComplete dt b) s = .next u ∧ u.pw.mode = .holdover
        ∧ u.pw.vin = b.vin ∧ u.ka.wt = t.ka.wt ∧ u.ka.lost = t.ka.lost ∧ u.pw.gp2 = t.pw.gp2 ∧ u.pw.gp3 = t.pw.gp3
        ∧ u.ka.saveOpen = (if t.pw.saving = 0 ∨ 2 < t.pw.saving then t.ka.saveOpen else false)
        ∧ (t.pw.saving = 0 → u.nv.mem = t.nv.mem))
    ∧ (∀ since, t.pw.mode = .holdover → t.ka.belowSince = some since → since + 10000000000000 ≤ t.now →
      ∃ u, exec (.darkcutEntry dt) s = .next u ∧ u.pw.mode = .darkcut ∧ u.ka.wt = 0 ∧ u.ka.lost = true
        ∧ u.ka.darkLatch = true ∧ u.ka.darkSince = true ∧ u.nv = t.nv)
    ∧ (∀ (vres : Nat) (b : BootIn),
      let back := (t.pw.vin < 2450 ∧ 2450 ≤ b.vin) ∨ 2650 ≤ b.vin
      (t.pw.mode ≠ .darkcut → exec (.darkcutExit dt vres b) s = .next t)
      ∧ (t.pw.mode = .darkcut → back →
        Boots 0x01 b { kaReset b.vres t with ka.darkLatch := false } (exec (.darkcutExit dt vres b) s))
      ∧ (t.pw.mode = .darkcut → ¬ back →
        (t.ka.window = none → exec (.darkcutExit dt vres b) s = .next t)
        ∧ ∀ w, t.ka.window = some w →
          (w + 1000000000 < t.now → exec (.darkcutExit dt vres b) s = .next t)
          ∧ (t.now ≤ w + 1000000000 → vres < 3600 → exec (.darkcutExit dt vres b) s = .next { t with pw.vres := vres })
          ∧ (t.now ≤ w + 1000000000 → 3600 ≤ vres → ∃ u, exec (.darkcutExit dt vres b) s = .next u
            ∧ u.pw.mode = .holdover ∧ u.ka.darkLatch = false ∧ u.ka.wt = 0 ∧ u.ka.lost = true ∧ u.ka.reserve = {}
            ∧ u.pw.vin = t.pw.vin ∧ u.pw.vres = vres ∧ u.nv = t.nv)))
    ∧ ∀ vres : Nat, ∃ u, exec (.keepalivePowerOnReset dt vres) s = .next u ∧ u.ka.wt = 0 ∧ u.ka.lost = true
        ∧ u.ka.reserve = {} ∧ u.ka.harvest = {} ∧ u.ka.saveOpen = false ∧ u.ka.present = decide (1000 ≤ vres)
        ∧ u.pw.mode = (if t.pw.mode = .darkcut ∧ vres < 1000 then .holdover else t.pw.mode)
        ∧ u.ka.darkLatch = (if t.pw.mode = .darkcut ∧ vres < 1000 then false else t.ka.darkLatch)
        ∧ u.nv = t.nv ∧ u.rd = t.rd ∧ u.span = t.span

/-- Reserve protection and charging (R96, R103, R105, R106, R118, Table 4-5). OC and, in a window of the reference, the hard
disconnect open the discharge path and latch an event for the next entry to RUN; 3.00 V while charge flows closes it, and VIN
rising past 2.65 V ends OC. The charger precharges below 3.00 V, stays at constant current until VCHG, ends at its taper, and
stops outside 0 to 45 °C. A window each 64 ms compares the levels, in DARKCUT the reconnect level alone (R109). VKA takes the
first source of Table 4-1. -/
def Obligations.ReserveIsProtected : Prop :=
  ∀ (dt vin vres : Nat) (t8 : Int) (s : State),
    let t := elapse dt s
    let top := if t.ka.reserve.vchg = 0 then 4100 else 4200
    let open_ := ∃ w, t.ka.window = some w ∧ t.now ≤ w + 1000000000
    let due := ∀ w, t.ka.window = some w → w + 64000000000 ≤ t.now
    let seen := { vinReads vin t with pw.vres := vres }
    (reserveUp t = true → exec (.overcurrent dt) s = .next (fed { t with ka.oc := true, ka.latchEvt := true }))
    ∧ (reserveUp t = false → exec (.overcurrent dt) s = .next t)
    ∧ (¬ open_ → exec (.hardDisconnect dt vres) s = .next t ∧ exec (.hardDisconnectEnd dt vres) s = .next t)
    ∧ (open_ → t.ka.present = true → t.ka.hardDisc = false →
      (vres < 2750 → exec (.hardDisconnect dt vres) s = .next (fed { t with
          pw.vres := vres, ka.hardDisc := true, ka.hardSince := true, ka.latchEvt := true }))
      ∧ (2750 ≤ vres → exec (.hardDisconnect dt vres) s = .next (fed { t with pw.vres := vres })))
    ∧ (open_ → t.ka.hardDisc = true →
      (3000 ≤ vres → charging t = true ∨ boostOut t = .vres → exec (.hardDisconnectEnd dt vres) s =
        .next (fed { t with pw.vres := vres, ka.hardDisc := false }))
      ∧ (vres < 3000 → exec (.hardDisconnectEnd dt vres) s = .next (fed { t with pw.vres := vres })))
    ∧ (∀ taper, t.ka.present = false ∨ t.ka.tempStop = true ∨ t.ka.reserve.ichg = 3 ∨ t.pw.vin < 1900 →
      exec (.chargeStateChange dt vres taper) s = .next { t with pw.vres := vres, ka.chg := .off })
    ∧ (t.ka.present = true → t.ka.tempStop = false → t.ka.reserve.ichg ≠ 3 → 1900 ≤ t.pw.vin →
      let becomes := fun (taper : Bool) (c : Chg) =>
        exec (.chargeStateChange dt vres taper) s = .next { t with pw.vres := vres, ka.chg := c }
      (∀ taper, vres < 3000 → becomes taper .precharge)
      ∧ (∀ taper, t.ka.chg = .constantCurrent → 3000 ≤ vres →
        becomes taper (if vres < top then .constantCurrent else .constantVoltage))
      ∧ (t.ka.chg = .constantVoltage → vres = top → becomes false .constantVoltage ∧ becomes true .terminated)
      ∧ (∀ taper, t.ka.chg = .terminated → 3000 ≤ vres → vres < top →
        becomes taper (if top < vres + 100 then .terminated else .constantCurrent)))
    ∧ (t.pw.mode = .run ∨ t.pw.mode = .rest ∨ t.pw.mode = .shelf →
      (t8 < 0 ∨ 360 < t8 → exec (.chargeTemperatureCheck dt t8) s = .next { t with ka.tempStop := true, ka.chg := .off })
      ∧ (0 ≤ t8 → t8 ≤ 360 → exec (.chargeTemperatureCheck dt t8) s = .next { t with ka.tempStop := false }))
    ∧ (t.pw.mode = .run → t.cfg.notify.addr = 0 → exec (.reserveTest dt vres) s = .next { t with
        pw.reserveLow := !decide ((reserveUp t ∧ 3200 ≤ vres) ∨ 1800000 ≤ t.ka.reserve.chold.toNat * 450) })
    ∧ (¬ due → exec (.bandgapWindow dt vin vres t8) s = .next t)
    ∧ (due → t.pw.mode = .holdover → t.ka.hardDisc = false → 2750 ≤ vres → 0 ≤ t8 → t8 ≤ 360 →
      exec (.bandgapWindow dt vin vres t8) s = .next (fed { seen with
        ka.window := some t.now, ka.tempStop := false
        ka.belowSince := if t.ka.present ∧ vres < 3000 + 50 * t.ka.reserve.darkcut.toNat
          then some (t.ka.belowSince.getD t.now) else none }))
    ∧ (due → t.pw.mode = .darkcut → vres < 3600 → exec (.bandgapWindow dt vin vres t8) s =
        .next (fed { seen with ka.window := some t.now }))
    ∧ (due → t.pw.mode = .darkcut → 3600 ≤ vres → ∃ u, exec (.bandgapWindow dt vin vres t8) s = .next u
        ∧ u.pw.mode = .holdover ∧ u.ka.darkLatch = false ∧ u.ka.wt = 0 ∧ u.ka.window = some t.now)
    ∧ exec (.vkaSourceHandover dt vin vres) s = .next (fed seen)

/-- VIO below 1.60 V sets VIO_LOW, releases LAMPEN and stops the ports, and VIO good, at 1.70 V, ends it; between them VIO is as
it was (R62, R64, R65). The LFXO's failure, also where it has not started within 2 s, puts WT on the RC fallback, less at most 16
ticks (R69). The thermal limiter takes each reading, with THERMAL at 125 °C (R93) and rendering frozen at 140 °C (R94). The
harvester cold-starts below 1.50 V, boosts from 1.90 V on, and samples Voc for 2.0 ms in each period, after which RFIN aims at
k × Voc (R100 to R102). -/
def Obligations.RailsClocksAndHarvester : Prop :=
  ∀ (dt n : Nat) (s : State),
    let t := elapse dt s
    (t.pw.mode = .run → t.pw.vioLow = false → n < 1600 → ∃ u, exec (.vioLow dt n) s = .next u
      ∧ u.pw = { t.pw with vio := n, vioDown := true, vioLow := true, lampen := false, lampMet := false } ∧ u.rd = t.rd
      ∧ ∀ p : Port, if (t.ports.get p).cfg.enable then (u.ports.get p).stopped = true ∧ (u.ports.get p).cur = none
          else u.ports.get p = t.ports.get p)
    ∧ (t.pw.vioDown = false → 1600 ≤ n → exec (.vioLow dt n) s = .next { t with pw.vio := n })
    ∧ (t.pw.mode = .run → t.pw.vioLow = true → 1700 ≤ n → ∃ u, exec (.vioGood dt n) s = .next u
      ∧ u.pw = { t.pw with vio := n, vioDown := false, vioLow := false } ∧ u.rd = t.rd
      ∧ ∀ p : Port, (u.ports.get p).ready = false)
    ∧ (t.pw.vioDown = true → 1600 ≤ n → n < 1700 → exec (.vioGood dt n) s = .next { t with pw.vio := n })
    ∧ (t.pw.mode = .rest → t.ka.rc = false →
      (t.ka.startIn = 0 ∨ t.ka.poweredAt + 2000000000000 ≤ t.now →
        ∃ d ≤ 16, exec (.lfxoFailure dt) s = .next { t with
          draws := t.draws + 1, ka.rc := true, ka.rcTold := false, ka.wt := BitVec.ofNat 48 (t.ka.wt.toNat - d)
          ka.notStarted := decide (0 < t.ka.startIn), ka.startIn := 0 })
      ∧ (0 < t.ka.startIn → t.now < t.ka.poweredAt + 2000000000000 → exec (.lfxoFailure dt) s = .next t))
    ∧ (∀ avg8 now8 : Int, t.pw.mode = .run → t.cfg.notify.addr = 0 → exec (.thermalUpdate dt avg8 now8) s = .next { t with
        pw.tAvg := avg8, pw.tNow := now8
        pw.thermal := if t.pw.thermal then decide (960 ≤ avg8) else decide (1000 ≤ avg8)
        pw.frozen := if t.pw.frozen then decide (1040 ≤ avg8) else decide (1120 ≤ avg8) })
    ∧ (t.node.member.harvester = true → n < 1500 →
      exec (.coldStart dt n) s = .next { t with pw.vka := n, ka.hst := .coldStart })
    ∧ (t.ka.hst = .coldStart → 1900 ≤ n → exec (.coldStartEnd dt n) s = .next (fed { t with
        pw.vka := n, ka.hst := if t.ka.harvest.enable = 1 then .boost else .stopped }))
    ∧ (t.ka.hst = .coldStart → n < 1900 → exec (.coldStartEnd dt n) s = .next t)
    ∧ (t.ka.hst = .boost → t.ka.vocAt + 1000000000000 * (if t.ka.harvest.period = 0 then 4
          else if t.ka.harvest.period = 1 then 16 else 64) ≤ t.now →
      exec (.vocSample dt) s = .next (fed { t with ka.hst := .sampling, ka.vocAt := t.now }))
    ∧ (t.ka.hst = .sampling → t.ka.vocAt + 2000000000 ≤ t.now → exec (.vocSampleEnd dt n) s = .next (fed { t with
        ka.hst := .boost, ka.voc := n, ka.target := n * (4 + t.ka.harvest.k.toNat) / 10 }))

/-! ## Counters and the store (12) -/

/-- Usage counters (R338, R340, R112). Power-on time counts units of 4 s with VIN present; on-time counts a cell that a running
port shows lit in any channel, a unit for each fourth second. A periodic save begins when its period of power-on time has passed,
behind an erase of its bank where that is not ready, and the other bank is erased after a save. -/
def Obligations.CountersCount : Prop :=
  ∀ (dt : Nat) (s : State),
    let t := elapse dt s
    let save : Job := {
      kind := .periodicSave, user := false, op := 0, tok := none, failed := false
      ops := (List.range 64).map (NvOp.counterPage (altBank t)) ++ [.counterRec (altBank t)] }
    ((t.pw.mode = .run ∨ t.pw.mode = .rest ∨ t.pw.mode = .shelf) → 0 < t.pw.vin →
      exec (.powerOnTimeTick dt) s = .next { t with cnt.pon := bump t.cnt.pon })
    ∧ (t.pw.mode = .run → t.ka.wt.toNat % 4096 = 0 →
        (∀ p : Port, p ≠ 0 → (t.ports.get p).state = .off) → (t.ports.get 0).state = .ok → (t.ports.get 0).cfg.n = 1 →
        (∃ v ∈ (t.ports.get 0).rendered.getD 0 [], 655 < widen (fmtWidth (t.ports.get 0).renderedFmt.toNat) v) →
        unreach (mapByte t 0) = false →
      ∃ R O, exec (.onTimeTick dt) s = .next { t with cnt.resid := R, cnt.onTime := O }
        ∧ tget zeroNat R 0 = (if tget zeroNat t.cnt.resid 0 < 3 then tget zeroNat t.cnt.resid 0 + 1 else 0)
        ∧ tget zeroNat O 0 = (if tget zeroNat t.cnt.resid 0 < 3 then tget zeroNat t.cnt.onTime 0
            else bump (tget zeroNat t.cnt.onTime 0))
        ∧ ∀ g ≠ 0, tget zeroNat O g = tget zeroNat t.cnt.onTime g)
    ∧ (t.pw.mode = .run → t.cfg.period ≠ 0 → t.nv.jobs = [] → t.nv.running = none →
      (t.cnt.pon < t.cnt.ponSaved + t.cfg.period.toNat * 900 → exec (.periodicSave dt) s = .next t)
      ∧ (t.cnt.ponSaved + t.cfg.period.toNat * 900 ≤ t.cnt.pon →
        (bankReady t (altBank t) = true → exec (.periodicSave dt) s = .next (addJob save t))
        ∧ (bankReady t (altBank t) = false → ∃ j : Job, j.kind = .bankErase ∧ j.user = false ∧ j.ops.length = 12
          ∧ exec (.periodicSave dt) s = .next (addJob save (addJob j t)))))
    ∧ ∀ at_, t.pw.mode = .run → t.nv.bankDue = some at_ → t.nv.jobs = [] → t.nv.running = none →
        bankReady t (altBank t) = false → ∃ j : Job, j.kind = .bankErase ∧ j.user = false ∧ j.ops.length = 12
        ∧ exec (.counterBankErase dt) s = .next (addJob j { t with nv.bankDue := none })

/-- Operations of the store (R23, R313, R318, R319). The next one starts 1 ms after the last and blocks the NP. A program that
ends has changed bits from 1 to 0 only, in its page alone, and an erase has set its sector to 0xFF and nothing else; then the
block ends, and a timed clause whose apply-at WT fell within it is late (R24). A replaced curve's sector is rewritten as
housekeeping (R333), and a load that has all its sectors is answered (R400). -/
def Obligations.StoreOperationsRun : Prop :=
  ∀ (dt : Nat) (s : State),
    let t := elapse dt s
    let late := t.cl.timed.map fun w => { w with
      held := w.held || w.req.applyAt.any fun a => decide (t.nv.blockFrom.toNat < a.toNat) && decide (a.toNat ≤ t.ka.wt.toNat) }
    (∀ (j : Job) (o : NvOp) (rest : List NvOp), t.pw.mode = .run → t.nv.running = none → t.nv.jobs = [j] → j.ops = o :: rest →
        ((∃ a d, o = .page a d) ∨ ∃ sec, o = .erase sec) → 8 ≤ jFree t.nv.mem (liveJ t.nv.mem) →
      ((∀ e, t.nv.lastEnd = some e → e + 1000000000 ≤ t.now) →
        exec (.nvOperationStart dt) s = .next { t with nv.running := some (o, j.user), nv.blockFrom := t.ka.wt })
      ∧ ∀ e, t.nv.lastEnd = some e → t.now < e + 1000000000 → exec (.nvOperationStart dt) s = .next t)
    ∧ (∀ (j : Job) (sec : Nat), t.nv.jobs = [j] → t.cl.blocked = [] →
        j.ops = [.erase sec, .done sec] → t.nv.running = some (.erase sec, j.user) →
      ∃ u, exec (.nvOperationComplete dt true) s = .next u ∧ u.nv.running = none ∧ u.nv.lastEnd = some t.now
        ∧ (∃ k ∈ u.nv.jobs, k.ops = [.done sec]) ∧ u.cl.timed = late
        ∧ ∀ i, tget nvBlank u.nv.mem i = if 4096 * sec ≤ i ∧ i < 4096 * (sec + 1) then 0xFF else tget nvBlank t.nv.mem i)
    ∧ (∀ (j : Job) (a : Nat) (d : List Byte) (o : NvOp) (rest : List NvOp), t.nv.jobs = [j] → t.cl.blocked = [] →
        j.ops = .page a d :: o :: rest → t.nv.running = some (.page a d, j.user) →
      ∃ u, exec (.nvOperationComplete dt true) s = .next u ∧ u.nv.running = none ∧ u.cl.timed = late
        ∧ ∀ i, tget nvBlank u.nv.mem i = if a ≤ i ∧ i < a + d.length then tget nvBlank t.nv.mem i &&& d.getD (i - a) 0
            else tget nvBlank t.nv.mem i)
    ∧ (∀ ok, t.nv.running = none → exec (.nvOperationComplete dt ok) s = .next t)
    ∧ (∀ (e : Nat × Nat) (rest : List (Nat × Nat)), t.pw.mode = .run → t.nv.curveDirty = e :: rest → ∃ j : Job,
        j.kind = .curves ∧ j.user = false ∧ j.ops.take 3 = [.intent e.1, .erase e.1, .done e.1]
        ∧ exec (.curveSectorRewrite dt) s = .next (addJob j { t with nv.curveDirty := rest }))
    ∧ (∀ l : Load, t.pw.mode = .run → t.nv.running = none → t.st.loads = [l] → l.failed = false → l.done = l.count →
      exec (.deckLoadComplete dt) s = .next (resolve l.tok 0 [BitVec.ofNat 8 l.done] { t with st.loads := [] }))

/-! ## Reports and timeouts (07, 12 to 17) -/

/-- EVT.FAIL, wanted, after its holdoff, its boundary and the interval I, enters the outbound queue, and so does an event whose
holdoff has ended, each with the node's own SEQ; on an idle bus it starts at once (R152, R354, R356, R441). One that finds no
place is kept as a mark (R174). With report address 0xFFFE an event is the image of the empty service mailbox (R220). In POLL
mode EVT.FAIL is discarded, its pages wait on (R352). -/
def Obligations.ReportsEnterTheQueue : Prop :=
  ∀ (dt : Nat) (s : State),
    let t := elapse dt s
    let next : W16 := if t.span.seq = 0xFFFF then 1 else t.span.seq + 1
    let frame := fun (op : Byte) (stamp : W48) (fields : List Byte) (dst src : W16) =>
      ({ dst := dst, src := src, seq := t.span.seq, rate := 0, op := op, attempts := 0, clause := none,
         body := [0x81] ++ leBytes 6 stamp.toNat ++ [op, BitVec.ofNat 8 fields.length] ++ fields } : OutFrame)
    t.pw.mode = .run → t.nv.running = none →
    (∀ due, t.fail.due = some due → due ≤ t.now → t.fail.mask ≠ 0 → t.cfg.notify.addr ≠ 0xFFFE → t.span.overflow = [] →
        (∀ f ∈ t.span.outQ, f.op ≠ 0xF0) → t.svc.out = none →
        (∀ e, t.fail.lastEnd = some e → e + 100000000000 * t.cfg.notify.i.toNat ≤ t.now) →
      (t.cfg.notify.push = false → t.span.outQ.length < 8 → exec (.evtFail dt) s = .next { t with fail.due := none })
      ∧ (8 ≤ t.span.outQ.length → t.ev.marks = [] → exec (.evtFail dt) s = .next { t with
          fail.due := none
          ev.marks := [{ op := 0xF0, port := 0, stamp := t.fail.stamp, cause := 0, at_ := t.now }] })
      ∧ (t.cfg.notify.push = true → t.cfg.addr ≠ 0 → t.cfg.notify.addr ≠ 0 → t.span.outQ.length < 8 →
        let f := frame 0xF0 t.fail.stamp (failFields t) t.cfg.notify.addr t.cfg.addr
        (t.span.idle = false → exec (.evtFail dt) s = .next { t with
          fail.due := none, span.seq := next, span.outQ := t.span.outQ ++ [f] })
        ∧ (t.span.idle = true → MayStart t → t.span.lates = [] → t.span.roll = none → t.span.outQ = [] →
          exec (.evtFail dt) s = .next { t with
            fail.due := none, span.seq := next, span.outQ := [{ f with attempts := 1 }]
            span.tx := some .queue, span.txAt := t.now, span.idle := false })))
    ∧ ∀ (e : PEvent) (rest : List PEvent), t.ev.held = e :: rest → e.due ≤ t.now →
      (t.cfg.notify.addr = 0 → exec (.eventHoldoffExpiry dt) s = .next { t with ev.held := rest })
      ∧ (t.cfg.notify.addr = 0xFFFE → t.svc.out = none → t.svc.backlog = [] →
        exec (.eventHoldoffExpiry dt) s = .next { t with
          ev.held := rest, span.seq := next, svc.cause := t.svc.cause ||| 0x02
          svc.out := some { bytes := frameBytes (frame e.op e.stamp e.fields 0xFFFE 0xFFFE), event := true, op := e.op,
                            begun := false, clause := none } })
      ∧ (0x2000 ≤ t.cfg.notify.addr.toNat → t.cfg.notify.addr.toNat ≤ 0x2FFF → t.cfg.addr ≠ 0 → t.span.overflow = [] →
        (t.span.outQ.length < 8 → t.span.idle = false → exec (.eventHoldoffExpiry dt) s = .next { t with
          ev.held := rest, span.seq := next
          span.outQ := t.span.outQ ++ [frame e.op e.stamp e.fields t.cfg.notify.addr t.cfg.addr] })
        ∧ (8 ≤ t.span.outQ.length → t.ev.marks = [] → exec (.eventHoldoffExpiry dt) s = .next { t with
            ev.held := rest
            ev.marks := [{ op := e.op, port := e.port, stamp := e.stamp, at_ := e.at_
                           cause := if e.op = 0xF1 then e.fields.getLast?.getD 0 else e.fields.headD 0 }] }))

/-- A stage without a staging verb for 60 s is aborted (R201), the buffers of SCENE.WRITE and CURVE.WRITE are dropped after 10 s
(R386, R402), a firmware session and a nonce end after 60 s (R432, R435). A verification ends with its slot VERIFIED or REJECTED
(R433, R459), and an image on trial that saw a keystone and a port asks for its confirmation (R461). -/
def Obligations.TimeoutsAndVerdicts : Prop :=
  ∀ (dt : Nat) (s : State),
    let t := elapse dt s
    (t.st.owner.isSome = true → t.st.commit = none → t.st.loads = [] → exec (.stageTimeout dt) s =
      .next (if t.st.lastAt + 60000000000000 ≤ t.now then { t with st.owner := none } else t))
    ∧ (∀ x, t.nv.sceneBuf = some x → exec (.sceneBufferTimeout dt) s =
      .next (if x.lastAt + 10000000000000 ≤ t.now then { t with nv.sceneBuf := none } else t))
    ∧ (∀ x, t.nv.curveBuf = some x → exec (.curveBufferTimeout dt) s =
      .next (if x.lastAt + 10000000000000 ≤ t.now then { t with nv.curveBuf := none } else t))
    ∧ (∀ x, t.fw.session = some x → exec (.fwSessionTimeout dt) s =
      .next (if x.lastAt + 60000000000000 ≤ t.now then { t with fw.session := none } else t))
    ∧ (∃ N, exec (.nonceExpiry dt) s = .next { t with sec.nonces := N }
      ∧ ∀ x, x ∈ N ↔ x ∈ t.sec.nonces ∧ t.now < x.at_ + 60000000000000)
    ∧ (∀ v : Verify, t.fw.verify = some v → v.slot = 1 ∨ v.slot = 2 → t.pw.mode = .run → ∃ u,
      exec (.fwVerificationEnd dt) s = .next u ∧ u.fw.verify = none
      ∧ (let k := verdict (nvBytesAt t (slotBase v.slot) v.size) v.size t.node.member
         u.sec.verified.getLsbD (v.slot - 1) = decide (k = 0)
         ∧ u.sec.reject.getLsbD (v.slot - 1) = decide (k ≠ 0)) ∧ u.nv.mem = t.nv.mem)
    ∧ (t.pw.mode = .run → t.fw.trial = true → t.fw.sawKey = true → t.fw.sawPort = true → t.nv.jobs = [] →
      ∃ j : Job, j.kind = .security (.confirmed t.fw.run) ∧ j.user = false
        ∧ exec (.fwConfirmation dt) s = .next (addJob j t))
end

