-- ==== Sys2Proof/Laws/Tab.lean ====
section
/-!
SUPPORT. The sparse tables: reading after a write and after a clear, and that every operation on them keeps the canonical
form of Sys2Proof/Machine/Tab.lean; with it the NV store's programs and erases and the deck banks' writes.
-/
namespace Sys2Proof.Machine

variable {α : Type} [DecidableEq α]

/-- A table whose keys start at `lo` lists no key below it. -/
theorem tget_below (d : Nat → α) {lo k : Nat} {t : Tab α} (h : Tab.wfFrom d lo t = true) (hk : k < lo) :
    tget d t k = d k := by
  induction t generalizing lo with
  | nil => rfl
  | cons e t ih =>
    obtain ⟨j, v⟩ := e
    simp only [Tab.wfFrom, Bool.and_eq_true, decide_eq_true_eq] at h
    simp only [tget]
    rw [if_neg (by omega)]
    exact ih h.2 (by omega)

/-- The canonical form from `lo` is the canonical form from any lower bound. -/
theorem wfFrom_mono (d : Nat → α) {lo lo' : Nat} {t : Tab α} (h : Tab.wfFrom d lo t = true) (hl : lo' ≤ lo) :
    Tab.wfFrom d lo' t = true := by
  cases t with
  | nil => rfl
  | cons e t =>
    obtain ⟨j, v⟩ := e
    simp only [Tab.wfFrom, Bool.and_eq_true, decide_eq_true_eq] at h ⊢
    exact ⟨⟨by omega, h.1.2⟩, h.2⟩

/-- A table in its canonical form stays so when entries are taken out. -/
theorem filter_wfFrom (d : Nat → α) (p : Nat × α → Bool) {lo : Nat} {t : Tab α} (h : Tab.wfFrom d lo t = true) :
    Tab.wfFrom d lo (t.filter p) = true := by
  induction t generalizing lo with
  | nil => rfl
  | cons e t ih =>
    obtain ⟨j, v⟩ := e
    simp only [Tab.wfFrom, Bool.and_eq_true, decide_eq_true_eq] at h
    simp only [List.filter_cons]
    split
    · simp only [Tab.wfFrom, Bool.and_eq_true, decide_eq_true_eq]
      exact ⟨h.1, ih h.2⟩
    · exact wfFrom_mono d (ih h.2) (by omega)

omit [DecidableEq α] in
/-- A key taken off the list reads as unlisted. -/
theorem tget_tdel_same (d : Nat → α) (k : Nat) (t : Tab α) : tget d (tdel k t) k = d k := by
  induction t with
  | nil => rfl
  | cons e t ih =>
    obtain ⟨j, w⟩ := e
    by_cases h : j = k <;> simp_all [tdel, tget]

omit [DecidableEq α] in
/-- Taking a key off the list leaves every other key alone. -/
theorem tget_tdel_other (d : Nat → α) {k i : Nat} {t : Tab α} (hi : i ≠ k) : tget d (tdel k t) i = tget d t i := by
  induction t with
  | nil => rfl
  | cons e t ih =>
    obtain ⟨j, w⟩ := e
    by_cases h : j = k
    · subst h
      simp_all [tdel, tget, Ne.symm hi]
    · simp_all [tdel, tget]

/-- A write keeps the canonical form. -/
theorem tset_wfFrom (d : Nat → α) {lo k : Nat} {t : Tab α} {v : α} (h : Tab.wfFrom d lo t = true) (hk : lo ≤ k) :
    Tab.wfFrom d lo (tset d t k v) = true := by
  induction t generalizing lo with
  | nil =>
    simp only [tset]
    split
    · rfl
    · simp only [Tab.wfFrom, Bool.and_eq_true, decide_eq_true_eq]
      exact ⟨⟨hk, by assumption⟩, trivial⟩
  | cons e t ih =>
    obtain ⟨j, w⟩ := e
    simp only [Tab.wfFrom, Bool.and_eq_true, decide_eq_true_eq] at h
    simp only [tset]
    split
    · split
      · simp only [Tab.wfFrom, Bool.and_eq_true, decide_eq_true_eq]
        exact ⟨h.1, filter_wfFrom d _ h.2⟩
      · simp only [Tab.wfFrom, Bool.and_eq_true, decide_eq_true_eq]
        exact ⟨⟨hk, by assumption⟩, ⟨by omega, h.1.2⟩, h.2⟩
    · split
      · split
        · exact wfFrom_mono d (filter_wfFrom d _ h.2) (by omega)
        · simp only [Tab.wfFrom, Bool.and_eq_true, decide_eq_true_eq]
          refine ⟨⟨hk, by assumption⟩, ?_⟩
          have hkj : k = j := by assumption
          rw [hkj]
          exact h.2
      · simp only [Tab.wfFrom, Bool.and_eq_true, decide_eq_true_eq]
        exact ⟨h.1, ih h.2 (by omega)⟩

/-- A write keeps the canonical form of the whole table. -/
theorem tset_wf (d : Nat → α) {t : Tab α} (k : Nat) (v : α) (h : Tab.wf d t = true) : Tab.wf d (tset d t k v) = true :=
  tset_wfFrom d h (Nat.zero_le k)

/-- A read after a write to the same key gives the value written. -/
theorem tget_tset_same (d : Nat → α) (t : Tab α) (k : Nat) (v : α) : tget d (tset d t k v) k = v := by
  induction t with
  | nil =>
    simp only [tset]
    split
    · simp_all [tget]
    · simp [tget]
  | cons e t ih =>
    obtain ⟨j, w⟩ := e
    simp only [tset]
    split
    · split
      · simp only [tget]
        rw [if_neg (by omega), tget_tdel_same]
        simp_all
      · simp [tget]
    · split
      · split
        · rw [tget_tdel_same]
          simp_all
        · simp [tget]
      · simp only [tget]
        rw [if_neg (by omega)]
        exact ih

/-- A write leaves every other key alone. -/
theorem tget_tset_other (d : Nat → α) {t : Tab α} {k i : Nat} {v : α} (hi : i ≠ k) :
    tget d (tset d t k v) i = tget d t i := by
  induction t with
  | nil =>
    simp only [tset]
    split
    · rfl
    · simp [tget, Ne.symm hi]
  | cons e t ih =>
    obtain ⟨j, w⟩ := e
    simp only [tset]
    split
    · split
      · simp only [tget, tget_tdel_other d hi]
      · simp [tget, Ne.symm hi]
    · split
      · rename_i hkj
        subst hkj
        split <;> simp [tget, Ne.symm hi, tget_tdel_other d hi]
      · simp only [tget]
        split
        · rfl
        · exact ih

/-- A clear keeps the canonical form. -/
theorem tclear_wf (d : Nat → α) (lo hi : Nat) {t : Tab α} (h : Tab.wf d t = true) : Tab.wf d (tclear lo hi t) = true :=
  filter_wfFrom d _ h

omit [DecidableEq α] in
/-- A cleared key reads as unlisted, any other as before. -/
theorem tget_tclear (d : Nat → α) (lo hi k : Nat) (t : Tab α) :
    tget d (tclear lo hi t) k = if lo ≤ k ∧ k < hi then d k else tget d t k := by
  induction t with
  | nil => simp [tclear, tget]
  | cons e t ih =>
    obtain ⟨j, v⟩ := e
    unfold tclear at ih ⊢
    simp only [List.filter_cons]
    by_cases hj : j = k
    · subst hj
      by_cases hc : lo ≤ j ∧ j < hi
      · rw [if_neg (by simp; omega), ih, if_pos hc, if_pos hc]
      · rw [if_pos (by simp; omega), if_neg hc]
        simp [tget]
    · split
      · simp only [tget, if_neg hj, ih]
      · simp only [tget, if_neg hj, ih]

/-! ## The NV store and the deck banks -/

/-- A program keeps the store's canonical form. -/
theorem programAt_wf (l : List Byte) (m : Memory) (a : Nat) (h : Memory.wf m = true) :
    Memory.wf (programAt m a l) = true := by
  induction l generalizing m a with
  | nil => exact h
  | cons b t ih => exact ih _ _ (tset_wf nvBlank a _ h)

/-- A program leaves every byte outside its range alone. -/
theorem programAt_other (l : List Byte) (m : Memory) (a i : Nat) (hi : i < a ∨ a + l.length ≤ i) :
    tget nvBlank (programAt m a l) i = tget nvBlank m i := by
  induction l generalizing m a with
  | nil => rfl
  | cons b t ih =>
    simp only [List.length_cons] at hi
    simp only [programAt]
    rw [ih _ _ (by omega), tget_tset_other nvBlank (by omega)]

/-- A program clears bits only: byte i of its range becomes the old byte AND the data (R313). -/
theorem programAt_byte (l : List Byte) (m : Memory) (a i : Nat) (hi : i < l.length) :
    tget nvBlank (programAt m a l) (a + i) = tget nvBlank m (a + i) &&& l.getD i 0 := by
  induction l generalizing m a i with
  | nil => simp at hi
  | cons b t ih =>
    simp only [programAt]
    cases i with
    | zero =>
      rw [programAt_other _ _ _ _ (by omega), Nat.add_zero, tget_tset_same]
      rfl
    | succ i =>
      have := ih (tset nvBlank m a (tget nvBlank m a &&& b)) (a + 1) i (by simpa using hi)
      rw [show a + (i + 1) = a + 1 + i by omega, this, tget_tset_other nvBlank (by omega)]
      rfl

/-- Bytes set to 0xFF keep the store's canonical form. -/
theorem blankFrom_wf (n : Nat) (m : Memory) (a : Nat) (h : Memory.wf m = true) : Memory.wf (blankFrom m a n) = true := by
  induction n generalizing m a with
  | zero => exact h
  | succ n ih => exact ih _ _ (tset_wf nvBlank a _ h)

/-- `n` bytes from `a` on read 0xFF, every other byte as before. -/
theorem blankFrom_byte (n : Nat) (m : Memory) (a i : Nat) :
    tget nvBlank (blankFrom m a n) i = if a ≤ i ∧ i < a + n then 0xFF else tget nvBlank m i := by
  induction n generalizing m a with
  | zero => exact (if_neg (by omega)).symm
  | succ n ih =>
    simp only [blankFrom, ih]
    by_cases hi : i = a
    · subst hi
      rw [if_neg (by omega), if_pos (by omega), tget_tset_same]
    · rw [tget_tset_other nvBlank hi]
      exact if_congr (by omega) rfl rfl

/-- An erase keeps the store's canonical form. -/
theorem eraseSector_wf (m : Memory) (sec : Nat) (h : Memory.wf m = true) : Memory.wf (eraseSector m sec) = true := by
  unfold eraseSector
  dsimp only
  split
  · exact blankFrom_wf _ _ _ (tclear_wf nvBlank _ _ h)
  · exact tclear_wf nvBlank _ _ h

/-- A byte of a sector other than the two shipped with contents is 0xFF where it is not listed. -/
theorem nvBlank_sector {sec i : Nat} (hs : ¬(sec = 0xF8 ∨ sec = 0xF9)) (hi : 4096 * sec ≤ i ∧ i < 4096 * (sec + 1)) :
    nvBlank i = 0xFF := by
  unfold nvBlank
  split
  · rfl
  · split
    · omega
    · split
      · omega
      · rfl

/-- An erase sets the bytes of its sector to 0xFF and leaves every other byte alone (R313). -/
theorem eraseSector_byte (m : Memory) (sec i : Nat) :
    tget nvBlank (eraseSector m sec) i
      = if 4096 * sec ≤ i ∧ i < 4096 * (sec + 1) then 0xFF else tget nvBlank m i := by
  unfold eraseSector
  dsimp only [Config.sectorBytes]
  split
  · rw [blankFrom_byte, tget_tclear, show 4096 * (sec + 1) = 4096 * sec + 4096 by omega]
    split <;> simp_all
  · rename_i hs
    rw [tget_tclear]
    split
    · exact nvBlank_sector hs (by assumption)
    · rfl

/-- A write keeps a deck bank's canonical form. -/
theorem deckPut_wf (l : List Byte) (m : Memory) (a : Nat) (h : Memory.deckWf m = true) :
    Memory.deckWf (deckPut m a l) = true := by
  induction l generalizing m a with
  | nil => exact h
  | cons b t ih => exact ih _ _ (tset_wf deckBlank a _ h)

/-- A write leaves every byte of a deck bank outside its range alone. -/
theorem deckPut_other (l : List Byte) (m : Memory) (a i : Nat) (hi : i < a ∨ a + l.length ≤ i) :
    tget deckBlank (deckPut m a l) i = tget deckBlank m i := by
  induction l generalizing m a with
  | nil => rfl
  | cons b t ih =>
    simp only [List.length_cons] at hi
    simp only [deckPut]
    rw [ih _ _ (by omega), tget_tset_other deckBlank (by omega)]

/-- A write puts its bytes into the deck bank. -/
theorem deckPut_byte (l : List Byte) (m : Memory) (a i : Nat) (hi : i < l.length) :
    tget deckBlank (deckPut m a l) (a + i) = l.getD i 0 := by
  induction l generalizing m a i with
  | nil => simp at hi
  | cons b t ih =>
    simp only [deckPut]
    cases i with
    | zero =>
      rw [deckPut_other _ _ _ _ (by omega), Nat.add_zero, tget_tset_same]
      rfl
    | succ i =>
      have := ih (tset deckBlank m a b) (a + 1) i (by simpa using hi)
      rw [show a + (i + 1) = a + 1 + i by omega, this]
      rfl

end Sys2Proof.Machine
end

