-- ==== Sys2Proof/Laws/InvBase.lean ====
section
/-!
SUPPORT. Folds keep the invariant of Sys2Proof/Safety.lean, and the reset state has it.
-/
namespace Sys2Proof.Machine

/-- A fold of operations that each keep the invariant keeps it. -/
theorem foldl_inv {α : Type} {f : State → α → State} {l : List α} {s : State} (h : s.Inv)
    (hf : ∀ t a, State.Inv t → State.Inv (f t a)) : State.Inv (l.foldl f s) := by
  induction l generalizing s with
  | nil => exact h
  | cons a l ih => exact ih (hf s a h)

/-- One port replaced or updated, or all four. -/
theorem setPort_inv {p : Port} {x : PortState} {s : State} (h : s.Inv) : (setPort p x s).Inv := h

theorem upPort_inv {p : Port} {f : PortState → PortState} {s : State} (h : s.Inv) : (upPort p f s).Inv := h

theorem upPorts_inv {f : Port → PortState → PortState} {s : State} (h : s.Inv) : (upPorts f s).Inv :=
  foldl_inv h fun _ _ h => h

/-- An operation on every port. -/
theorem eachPort_inv {f : Port → State → State} {s : State} (h : s.Inv)
    (hf : ∀ p t, State.Inv t → State.Inv (f p t)) : State.Inv (eachPort f s) :=
  foldl_inv h fun t p ht => hf p t ht

end Sys2Proof.Machine
end

