-- ==== Sys2Proof/Laws/InvOps.lean ====
section
/-!
SUPPORT. The invariant of Sys2Proof/Safety.lean, kept by the operations of
Sys2Proof/Machine/Ops.lean: one lemma per operation.
-/
namespace Sys2Proof.Machine

/-- The clock: less than a tick stays uncounted. -/
theorem clockOn_inv {dt : Nat} {s : State} (h : s.Inv) : (clockOn dt s).Inv := by
  unfold clockOn
  split
  · exact ⟨h.1, h.2.1, h.2.2.1, Nat.mod_lt _ (by decide)⟩
  · exact h

theorem countSkip_inv {p : Port} {s : State} (h : s.Inv) : (countSkip p s).Inv := h

theorem dueOver_inv {s : State} {p : Port} (h : s.Inv) : (dueOver s p).Inv := by
  unfold dueOver
  split
  · split
    · exact countSkip_inv h
    · exact h
  · exact h

theorem elapse_inv {dt : Nat} {s : State} (h : s.Inv) : (elapse dt s).Inv :=
  foldl_inv (clockOn_inv h) fun _ _ => dueOver_inv

/-- A new outbound queue within its 8 places, and whatever else of the Spanline state but its ring. -/
theorem outQ_inv {x : Span} {s : State} (h : s.Inv) (hr : x.ring = s.span.ring) (ho : x.outQ.length ≤ 8) :
    State.Inv { s with span := x } :=
  ⟨h.1, ⟨hr ▸ h.2.1.1, ho, h.2.1.2.2⟩, h.2.2⟩

theorem beginTx_inv {k : Sending} {s : State} (h : s.Inv) : (beginTx k s).Inv := h

/-- An attempt that starts replaces the queue's head, and adds no frame. -/
theorem startNext_inv {s : State} (h : s.Inv) : (startNext s).Inv := by
  unfold startNext
  split
  · exact h
  · rename_i f hn
    refine beginTx_inv (outQ_inv h rfl ?_)
    have ho := h.2.1.2.1
    have hc : s.span.outQ ≠ [] := by
      intro hq
      unfold nextStart at hn
      rw [hq] at hn
      repeat' split at hn
      all_goals simp_all
    obtain ⟨x, t, hx⟩ := List.exists_cons_of_ne_nil hc
    simpa [hx] using ho
  · split
    · exact h
    · exact h

theorem sendIdle_inv {s : State} (h : s.Inv) : (sendIdle s).Inv := by
  unfold sendIdle
  split
  · exact startNext_inv h
  · exact h

/-- A frame takes a place of the queue that is free. -/
theorem putOut_inv {f : OutFrame} {s : State} (h : s.Inv) (hp : s.span.outQ.length < Config.queuePlaces) :
    (putOut f s).Inv := by
  refine sendIdle_inv (outQ_inv h rfl ?_)
  have : Config.queuePlaces = 8 := rfl
  simp only [List.length_append, List.length_cons, List.length_nil]
  omega

theorem restartHold_inv {s : State} (h : s.Inv) : (restartHold s).Inv := by
  unfold restartHold
  try dsimp only [drawN, takeSeq, takeId, okAns]
  exact h

theorem drawN_inv {n : Nat} {s : State} (h : s.Inv) : (drawN n s).2.Inv := h

theorem spend_inv {s : State} (h : s.Inv) : (spend s).Inv := h

theorem nvProgram_inv {a : Nat} {l : List Byte} {s : State} (h : s.Inv) : (nvProgram a l s).Inv :=
  ⟨⟨programAt_wf _ _ _ h.1.1, h.1.2⟩, h.2⟩

theorem nvEraseSec_inv {sec : Nat} {s : State} (h : s.Inv) : (nvEraseSec sec s).Inv :=
  ⟨⟨eraseSector_wf _ _ h.1.1, h.1.2⟩, h.2⟩

theorem takeSeq_inv {s : State} (h : s.Inv) : (takeSeq s).2.Inv := h

theorem queueReply_inv {f : OutFrame} {s : State} (h : s.Inv) : (queueReply f s).Inv := by
  unfold queueReply
  split
  · rename_i hc
    exact putOut_inv h hc.1
  · exact h

theorem placeImage_inv {f : OutFrame} {event : Bool} {s : State} (h : s.Inv) : (placeImage f event s).Inv := h

theorem queueLocal_inv {f : OutFrame} {s : State} (h : s.Inv) : (queueLocal f s).Inv := by
  unfold queueLocal
  try dsimp only [drawN, takeSeq, takeId, okAns]
  repeat' first
    | assumption
    | exact h
    | with_reducible apply placeImage_inv
    | split

theorem replyGone_inv {c : Option Nat} {s : State} (h : s.Inv) : (replyGone c s).Inv := by
  unfold replyGone
  try dsimp only [drawN, takeSeq, takeId, okAns]
  repeat' first
    | assumption
    | exact h
    | split

theorem cacheReply_inv {q : Req} {f : OutFrame} {s : State} (h : s.Inv) : (cacheReply q f s).Inv := by
  unfold cacheReply
  split
  · exact h
  · obtain ⟨hm, ⟨hr, ho, ht, hk, hn, hi⟩, hw⟩ := h
    split
    · exact ⟨hm, ⟨hr, ho, ht, by simpa using hk, hn, hi⟩, hw⟩
    · exact ⟨hm, ⟨hr, ho, ht, hk, hn, hi⟩, hw⟩

theorem sendReply_inv {q : Req} {body : List Byte} {src : W16} {id : Nat} {s : State} (h : s.Inv) :
    (sendReply q body src id s).Inv := by
  unfold sendReply
  try dsimp only [drawN, takeSeq, takeId, okAns]
  repeat' first
    | assumption
    | exact h
    | with_reducible apply takeSeq_inv
    | with_reducible apply cacheReply_inv
    | with_reducible apply queueReply_inv
    | with_reducible apply queueLocal_inv
    | split

theorem replyOr_inv {q : Req} {always : Bool} {body : List Byte} {id : Nat} {s : State} (h : s.Inv) :
    (replyOr q always body id s).Inv := by
  unfold replyOr
  try dsimp only [drawN, takeSeq, takeId, okAns]
  repeat' first
    | assumption
    | exact h
    | with_reducible apply replyGone_inv
    | with_reducible apply sendReply_inv
    | split

theorem finishClause_inv {q : Req} {es : List (Byte × Byte × List Byte)} {id : Nat} {s : State} (h : s.Inv) :
    (finishClause q es id s).Inv := by
  unfold finishClause
  try dsimp only [drawN, takeSeq, takeId, okAns]
  repeat' first
    | assumption
    | exact h
    | with_reducible apply replyGone_inv
    | with_reducible apply replyOr_inv
    | split

theorem resolveNow_inv {tok : Tok} {st : Byte} {bytes : List Byte} {s : State} (h : s.Inv) :
    (resolveNow tok st bytes s).Inv := by
  unfold resolveNow
  split
  · exact h
  · rename_i w hw
    have hid : w.id < s.cl.nextId := h.2.2.1 w (List.mem_of_find?_eq_some hw)
    dsimp only
    split
    · apply finishClause_inv
      exact ⟨h.1, h.2.1, fun x hx => h.2.2.1 x (List.mem_of_mem_filter hx), h.2.2.2⟩
    · refine ⟨h.1, h.2.1, ?_, h.2.2.2⟩
      intro x hx
      obtain ⟨y, hy, rfl⟩ := List.mem_map.mp hx
      split
      · exact hid
      · exact h.2.2.1 y hy

theorem resolve_inv {tok : Tok} {st : Byte} {bytes : List Byte} {s : State} (h : s.Inv) :
    (resolve tok st bytes s).Inv := by
  unfold resolve
  try dsimp only [drawN, takeSeq, takeId, okAns]
  repeat' first
    | assumption
    | exact h
    | with_reducible apply resolveNow_inv
    | split

theorem releaseHeld_inv {s : State} (h : s.Inv) : (releaseHeld s).Inv := by
  unfold releaseHeld
  try dsimp only [drawN, takeSeq, takeId, okAns]
  repeat' first
    | assumption
    | exact h
    | with_reducible apply resolveNow_inv
    | with_reducible apply foldl_inv
    | split
    | intro _

theorem resolveOpt_inv {tok : Option Tok} {st : Byte} {bytes : List Byte} {s : State} (h : s.Inv) :
    (resolveOpt tok st bytes s).Inv := by
  unfold resolveOpt
  try dsimp only [drawN, takeSeq, takeId, okAns]
  repeat' first
    | assumption
    | exact h
    | with_reducible apply resolve_inv
    | split

theorem raise_inv {op : Byte} {port : Nat} {fields : List Byte} {stamp : W48} {s : State} (h : s.Inv) :
    (raise op port fields stamp s).Inv := by
  unfold raise
  try dsimp only [drawN, takeSeq, takeId, okAns]
  repeat' first
    | assumption
    | exact h
    | with_reducible apply drawN_inv
    | split

theorem raisePort_inv {p : Port} {old new reason : Byte} {s : State} (h : s.Inv) :
    (raisePort p old new reason s).Inv := by
  unfold raisePort
  try dsimp only [drawN, takeSeq, takeId, okAns]
  repeat' first
    | assumption
    | exact h
    | with_reducible apply raise_inv

theorem raisePower_inv {cause : Byte} {s : State} (h : s.Inv) : (raisePower cause s).Inv := by
  unfold raisePower
  try dsimp only [drawN, takeSeq, takeId, okAns]
  repeat' first
    | assumption
    | exact h
    | with_reducible apply raise_inv

theorem raiseTime_inv {cause : Byte} {s : State} (h : s.Inv) : (raiseTime cause s).Inv := by
  unfold raiseTime
  try dsimp only [drawN, takeSeq, takeId, okAns]
  repeat' first
    | assumption
    | exact h
    | with_reducible apply raise_inv

/-- An event enters its queue where it has a place. -/
theorem enterEvent_inv {op : Byte} {stamp : W48} {fields : List Byte} {s : State} (h : s.Inv)
    (hp : eventPlace s = true) : (enterEvent op stamp fields s).Inv := by
  unfold enterEvent
  unfold eventPlace at hp
  dsimp only [takeSeq]
  split
  · exact h
  · split
    · exact h
    · split
      · exact h
      · rename_i _ hl _
        rw [if_neg hl] at hp
        simp only [Bool.and_eq_true, decide_eq_true_eq] at hp
        exact putOut_inv h hp.1

theorem markEvent_inv {m : Mark} {s : State} (h : s.Inv) : (markEvent m s).Inv := h

theorem enterFail_inv {s : State} (h : s.Inv) (hp : eventPlace s = true) : (enterFail s).Inv := by
  unfold enterFail
  split
  · exact enterEvent_inv h hp
  · exact h

theorem buildMarks_inv {n : Nat} {s : State} (h : s.Inv) : (buildMarks n s).Inv := by
  induction n generalizing s with
  | zero => exact h
  | succ n ih =>
    unfold buildMarks
    split
    · exact h
    · split
      · exact h
      · rename_i hp
        have hp : eventPlace s = true := by simpa using hp
        split
        · exact ih (enterFail_inv h hp)
        · exact ih (enterEvent_inv h hp)

theorem fillQueue_inv {s : State} (h : s.Inv) : (fillQueue s).Inv := by
  refine sendIdle_inv (outQ_inv h rfl ?_)
  have ho := h.2.1.2.1
  have : Config.queuePlaces = 8 := rfl
  simp only [List.length_append, List.length_take]
  omega

/-- Frames are only taken away. -/
theorem dropUnsent_inv {s : State} (h : s.Inv) : (dropUnsent s).Inv := by
  unfold dropUnsent
  refine foldl_inv (outQ_inv h rfl ?_) fun _ _ => replyGone_inv
  have ho := h.2.1.2.1
  have hf := List.length_filter_le (sendable s) (s.span.outQ.drop (if s.span.tx = some .queue then 1 else 0))
  simp only [List.length_append, List.length_take]
  rw [List.length_drop] at hf
  omega

theorem fillLocal_inv {s : State} (h : s.Inv) : (fillLocal s).Inv := by
  unfold fillLocal
  try dsimp only [drawN, takeSeq, takeId, okAns]
  repeat' first
    | assumption
    | exact h
    | with_reducible apply placeImage_inv
    | split

theorem settleQueues_inv {s : State} (h : s.Inv) : (settleQueues s).Inv := by
  unfold settleQueues
  try dsimp only [drawN, takeSeq, takeId, okAns]
  repeat' first
    | assumption
    | exact h
    | with_reducible apply buildMarks_inv
    | with_reducible apply fillLocal_inv
    | with_reducible apply fillQueue_inv
    | split

theorem persist_inv {s : State} (h : s.Inv) : (persist s).Inv := h

theorem addJob_inv {j : Job} {s : State} (h : s.Inv) : (addJob j s).Inv := h

end Sys2Proof.Machine
end

