-- ==== Sys2Proof/Laws/InvRender.lean ====
section
/-!
SUPPORT. The invariant of Sys2Proof/Safety.lean, kept by the operations of
Sys2Proof/Machine/Render.lean: one lemma per operation.
-/
namespace Sys2Proof.Machine

theorem setLane_inv {z c : Nat} {k : Key} {f : Lane → Lane} {s : State} (h : s.Inv) : (setLane z c k f s).Inv := by
  unfold setLane
  try dsimp only [drawN, takeSeq, takeId, okAns]
  repeat' first
    | assumption
    | exact h
    | split

theorem setLanes_inv {zs cs : List Nat} {k : Key} {f : Lane → Lane} {s : State} (h : s.Inv) :
    (setLanes zs cs k f s).Inv := by
  unfold setLanes
  try dsimp only [drawN, takeSeq, takeId, okAns]
  repeat' first
    | assumption
    | exact h
    | with_reducible apply setLane_inv
    | with_reducible apply foldl_inv
    | split
    | intro _

theorem setMaster_inv {k : Key} {f : Lane → Lane} {s : State} (h : s.Inv) : (setMaster k f s).Inv := by
  unfold setMaster
  try dsimp only [drawN, takeSeq, takeId, okAns]
  repeat' first
    | assumption
    | exact h
    | split

theorem setEffect_inv {z : Nat} {k : Key} {e : Effect} {s : State} (h : s.Inv) : (setEffect z k e s).Inv := by
  unfold setEffect
  try dsimp only [drawN, takeSeq, takeId, okAns]
  repeat' first
    | assumption
    | exact h
    | split

end Sys2Proof.Machine
end

