-- ==== Sys2Proof/Laws/InvPorts.lean ====
section
/-!
SUPPORT. The invariant of Sys2Proof/Safety.lean, kept by the operations of
Sys2Proof/Machine/Ports.lean: one lemma per operation.
-/
namespace Sys2Proof.Machine

theorem sendForward_inv {p : Port} {ty fmt : Nat} {latch : Bool} {rate : Byte} {slots : List (List Nat)} {start : Nat} {s : State} (h : s.Inv) : (sendForward p ty fmt latch rate slots start s).Inv := h

theorem markReady_inv {p : Port} {s : State} (h : s.Inv) : (markReady p s).Inv := h

theorem cutConfigs_inv {p : Port} {s : State} (h : s.Inv) : (cutConfigs p s).Inv := by
  unfold cutConfigs
  try dsimp only [drawN, takeSeq, takeId, okAns]
  repeat' first
    | assumption
    | exact h
    | with_reducible apply upPort_inv
    | with_reducible apply upPorts_inv
    | with_reducible apply resolve_inv
    | with_reducible apply foldl_inv
    | split
    | intro _

theorem cutRequests_inv {p : Port} {s : State} (h : s.Inv) : (cutRequests p s).Inv := by
  unfold cutRequests
  try dsimp only [drawN, takeSeq, takeId, okAns]
  repeat' first
    | assumption
    | exact h
    | with_reducible apply upPort_inv
    | with_reducible apply resolve_inv
    | with_reducible apply cutConfigs_inv
    | with_reducible apply foldl_inv
    | split
    | intro _

theorem configDone_inv {p : Port} {s : State} (h : s.Inv) : (configDone p s).Inv := by
  unfold configDone
  try dsimp only [drawN, takeSeq, takeId, okAns]
  repeat' first
    | assumption
    | exact h
    | with_reducible apply upPort_inv
    | with_reducible apply resolve_inv
    | split

theorem addItem_inv {p : Port} {m : Maint} {s : State} (h : s.Inv) : (addItem p m s).Inv := h

theorem wantReset_inv {p : Port} {w : ResetWhy} {s : State} (h : s.Inv) : (wantReset p w s).Inv := by
  unfold wantReset
  try dsimp only [drawN, takeSeq, takeId, okAns]
  repeat' first
    | assumption
    | exact h
    | with_reducible apply addItem_inv
    | with_reducible apply upPort_inv
    | split

theorem beginItem_inv {p : Port} {m : Maint} {at_ : Nat} {s : State} (h : s.Inv) :
    (beginItem p m at_ s).Inv := h

theorem startQuery_inv {p : Port} {m : Maint} {s : State} (h : s.Inv) :
    (startQuery p m s).Inv := h

theorem startItem_inv {p : Port} {m : Maint} {s : State} (h : s.Inv) : (startItem p m s).Inv := by
  unfold startItem
  try dsimp only [drawN, takeSeq, takeId, okAns]
  repeat' first
    | assumption
    | exact h
    | with_reducible apply upPort_inv
    | with_reducible apply sendForward_inv
    | split

theorem returnEnded_inv {p : Port} {a : Await} {s : State} (h : s.Inv) :
    (returnEnded p a s).Inv := h

theorem replaceFail_inv {s : State} (h : s.Inv) : (replaceFail s).Inv := by
  unfold replaceFail
  split
  · exact h
  · split
    · exact h
    · exact outQ_inv h rfl (by simpa [takeSeq] using h.2.1.2.1)

theorem redoFail_inv {s : State} (h : s.Inv) :
    (redoFail s).Inv := by
  unfold redoFail
  try dsimp only [drawN, takeSeq, takeId, okAns]
  repeat' first
    | assumption
    | exact h
    | with_reducible apply replaceFail_inv
    | split

theorem failSent_inv {s : State} (h : s.Inv) : (failSent s).Inv := by
  unfold failSent
  try dsimp only [drawN, takeSeq, takeId, okAns]
  repeat' first
    | assumption

theorem drawFail_inv {s : State} (h : s.Inv) :
    (drawFail s).Inv := by
  unfold drawFail
  try dsimp only [drawN, takeSeq, takeId, okAns]
  repeat' first
    | assumption
    | exact h
    | with_reducible apply drawN_inv
    | split

theorem pageChanged_inv {p : Port} {pos : Nat} {fseq : Byte} {s : State} (h : s.Inv) :
    (pageChanged p pos fseq s).Inv := by
  unfold pageChanged
  try dsimp only [drawN, takeSeq, takeId, okAns]
  repeat' first
    | assumption
    | exact h
    | with_reducible apply drawFail_inv
    | split

theorem observe_inv {p : Port} {fseq : Byte} {pos : Nat} {w : W12} {s : State} (h : s.Inv) :
    (observe p fseq pos w s).Inv := by
  unfold observe
  try dsimp only [drawN, takeSeq, takeId, okAns]
  repeat' first
    | assumption
    | exact h
    | with_reducible apply upPort_inv
    | with_reducible apply pageChanged_inv
    | split

theorem observeAll_inv {p : Port} {fseq : Byte} {pos : Nat} {ws : List W12} {s : State} (h : s.Inv) :
    (observeAll p fseq pos ws s).Inv := by
  induction ws generalizing pos s with
  | nil => exact h
  | cons w t ih =>
    unfold observeAll
    apply ih
    split
    · exact observe_inv h
    · exact h

theorem observations_inv {p : Port} {fseq : Byte} {ws : List W12} {s : State} (h : s.Inv) :
    (observations p fseq ws s).Inv := by
  unfold observations
  try dsimp only [drawN, takeSeq, takeId, okAns]
  repeat' first
    | assumption
    | exact h
    | with_reducible apply observeAll_inv
    | split

theorem applyUnreach_inv {p : Port} {s : State} (h : s.Inv) : (applyUnreach p s).Inv := by
  unfold applyUnreach
  try dsimp only [drawN, takeSeq, takeId, okAns]
  repeat' first
    | assumption
    | exact h
    | split

theorem takePages_inv {s : State} (h : s.Inv) :
    (takePages s).Inv := by
  unfold takePages
  try dsimp only [drawN, takeSeq, takeId, okAns]
  repeat' first
    | assumption
    | exact h
    | split

theorem commitMap_inv {t : W48} {s : State} (h : s.Inv) :
    (commitMap t s).Inv := by
  unfold commitMap
  try dsimp only [drawN, takeSeq, takeId, okAns]
  repeat' first
    | assumption
    | exact h
    | with_reducible apply takePages_inv
    | with_reducible apply eachPort_inv
    | with_reducible apply applyUnreach_inv
    | with_reducible apply replaceFail_inv
    | split

theorem trimMap_inv {p : Port} {n : Nat} {s : State} (h : s.Inv) : (trimMap p n s).Inv := h

theorem changeState_inv {p : Port} {new : PState} {reason : Byte} {s : State} (h : s.Inv) :
    (changeState p new reason s).Inv := by
  unfold changeState
  try dsimp only [drawN, takeSeq, takeId, okAns]
  repeat' first
    | assumption
    | exact h
    | with_reducible apply upPort_inv
    | with_reducible apply raisePort_inv
    | split

theorem firstState_inv {p : Port} {new : PState} {s : State} (h : s.Inv) : (firstState p new s).Inv := h

theorem serveProbes_inv {p : Port} {s : State} (h : s.Inv) : (serveProbes p s).Inv := by
  unfold serveProbes
  try dsimp only [drawN, takeSeq, takeId, okAns]
  repeat' first
    | assumption
    | exact h
    | with_reducible apply resolve_inv
    | with_reducible apply upPort_inv
    | with_reducible apply foldl_inv
    | split
    | intro _

theorem probeOutcome_inv {p : Port} {c : Nat} {s : State} (h : s.Inv) : (probeOutcome p c s).Inv := by
  unfold probeOutcome
  try dsimp only [drawN, takeSeq, takeId, okAns]
  repeat' first
    | assumption
    | exact h
    | with_reducible apply upPort_inv
    | with_reducible apply wantReset_inv
    | with_reducible apply serveProbes_inv
    | with_reducible apply changeState_inv
    | split

theorem chainFound_inv {p : Port} {why : ResetWhy} {s : State} (h : s.Inv) : (chainFound p why s).Inv := by
  unfold chainFound
  dsimp only
  cases why with
  | boot => exact firstState_inv (upPort_inv h)
  | enable => exact changeState_inv (upPort_inv h)
  | resume => exact h
  | probe => exact h
  | zero => exact serveProbes_inv (changeState_inv (upPort_inv h))

theorem chainAbsent_inv {p : Port} {why : ResetWhy} {s : State} (h : s.Inv) : (chainAbsent p why s).Inv := by
  unfold chainAbsent
  apply cutRequests_inv
  apply serveProbes_inv
  cases why with
  | boot => exact firstState_inv (upPort_inv h)
  | enable => exact changeState_inv (upPort_inv h)
  | resume => exact changeState_inv (upPort_inv h)
  | probe => exact changeState_inv (upPort_inv h)
  | zero => exact changeState_inv (upPort_inv h)

theorem presence_inv {p : Port} {present : Bool} {s : State} (h : s.Inv) : (presence p present s).Inv := by
  unfold presence
  dsimp only
  split
  · exact chainFound_inv (upPort_inv h)
  · exact chainAbsent_inv (upPort_inv h)

theorem breakEvidence_inv {p : Port} {s : State} (h : s.Inv) : (breakEvidence p s).Inv := by
  unfold breakEvidence
  try dsimp only [drawN, takeSeq, takeId, okAns]
  repeat' first
    | assumption
    | exact h
    | with_reducible apply addItem_inv
    | with_reducible apply upPort_inv
    | split

theorem evidenceIfOk_inv {p : Port} {bad : Bool} {s : State} (h : s.Inv) : (evidenceIfOk p bad s).Inv := by
  unfold evidenceIfOk
  try dsimp only [drawN, takeSeq, takeId, okAns]
  repeat' first
    | assumption
    | exact h
    | with_reducible apply breakEvidence_inv
    | with_reducible apply upPort_inv
    | split

theorem emitFrame_inv {p : Port} {cells : List (List Nat)} {start : Nat} {latch : Bool} {s : State} (h : s.Inv) :
    (emitFrame p cells start latch s).Inv := by
  unfold emitFrame
  try dsimp only [drawN, takeSeq, takeId, okAns]
  repeat' first
    | assumption
    | exact h
    | with_reducible apply sendForward_inv
    | with_reducible apply upPort_inv
    | with_reducible apply latch_inv
    | with_reducible apply addItem_inv
    | split

theorem boundaryFrame_inv {p : Port} {cells : List (List Nat)} {start : Nat} {latch : Bool} {s : State} (h : s.Inv) :
    (boundaryFrame p cells start latch s).Inv := by
  unfold boundaryFrame
  try dsimp only [drawN, takeSeq, takeId, okAns]
  repeat' first
    | assumption
    | exact h
    | with_reducible apply countSkip_inv
    | with_reducible apply upPort_inv
    | with_reducible apply latch_inv
    | with_reducible apply emitFrame_inv
    | split

theorem sendKeep_inv {p : Port} {start : Nat} {s : State} (h : s.Inv) :
    (sendKeep p start s).Inv := h

theorem settleDue_inv {p : Port} {s : State} (h : s.Inv) :
    (settleDue p s).Inv := by
  unfold settleDue
  try dsimp only [drawN, takeSeq, takeId, okAns]
  repeat' first
    | assumption
    | exact h
    | with_reducible apply emitFrame_inv
    | with_reducible apply upPort_inv
    | with_reducible apply countSkip_inv
    | split

theorem settleKeep_inv {p : Port} {s : State} (h : s.Inv) :
    (settleKeep p s).Inv := by
  unfold settleKeep
  try dsimp only [drawN, takeSeq, takeId, okAns]
  repeat' first
    | assumption
    | exact h
    | with_reducible apply sendKeep_inv
    | split

theorem settleLine_inv {p : Port} {s : State} (h : s.Inv) :
    (settleLine p s).Inv := by
  unfold settleLine
  try dsimp only [drawN, takeSeq, takeId, okAns]
  repeat' first
    | assumption
    | exact h
    | with_reducible apply settleKeep_inv
    | with_reducible apply settleDue_inv

theorem restartPort_inv {p : Port} {s : State} (h : s.Inv) : (restartPort p s).Inv := by
  unfold restartPort
  try dsimp only [drawN, takeSeq, takeId, okAns]
  repeat' first
    | assumption
    | exact h
    | with_reducible apply upPort_inv
    | with_reducible apply wantReset_inv
    | split

theorem stopPorts_inv {s : State} (h : s.Inv) : (stopPorts s).Inv := h

theorem turnOff_inv {p : Port} {s : State} (h : s.Inv) : (turnOff p s).Inv := by
  unfold turnOff
  try dsimp only [drawN, takeSeq, takeId, okAns]
  repeat' first
    | assumption
    | exact h
    | with_reducible apply cutRequests_inv
    | with_reducible apply changeState_inv
    | with_reducible apply trimMap_inv
    | with_reducible apply upPort_inv

theorem reconfigure_inv {p : Port} {s : State} (h : s.Inv) : (reconfigure p s).Inv := by
  unfold reconfigure
  try dsimp only [drawN, takeSeq, takeId, okAns]
  repeat' first
    | assumption
    | exact h
    | with_reducible apply turnOff_inv
    | with_reducible apply upPort_inv
    | with_reducible apply wantReset_inv
    | with_reducible apply cutRequests_inv
    | with_reducible apply trimMap_inv
    | split

end Sys2Proof.Machine
end

