-- ==== Sys2Proof/Laws/InvNv.lean ====
section
/-!
SUPPORT. The invariant of Sys2Proof/Safety.lean, kept by the operations of
Sys2Proof/Machine/Nv.lean: one lemma per operation.
-/
namespace Sys2Proof.Machine

theorem writeRec_inv {j : Bool} {ty sec : Nat} {payload : List Byte} {s : State} (h : s.Inv) :
    (writeRec j ty sec payload s).Inv := by
  unfold writeRec
  try dsimp only [drawN, takeSeq, takeId, okAns]
  repeat' first
    | assumption
    | exact h
    | with_reducible apply nvProgram_inv
    | split

theorem bootLane_inv {z c : Nat} {f : Lane → Lane} {s : State} (h : s.Inv) :
    (bootLane z c f s).Inv := by
  unfold bootLane
  try dsimp only [drawN, takeSeq, takeId, okAns]
  repeat' first
    | assumption
    | exact h
    | split

theorem applyRecord_inv {pre : State} {aux : Nat} {o : W48} {k : Option Key} {s : State} {r : List Byte} (h : s.Inv) :
    (applyRecord pre aux o k s r).Inv := by
  unfold applyRecord
  try dsimp only [drawN, takeSeq, takeId, okAns]
  repeat' first
    | assumption
    | exact h
    | with_reducible apply setLane_inv
    | with_reducible apply bootLane_inv
    | with_reducible apply foldl_inv
    | split
    | intro _

theorem applyScene_inv {pre : State} {slot : Nat} {o : W48} {k : Option Key} {s : State} (h : s.Inv) :
    (applyScene pre slot o k s).Inv := by
  unfold applyScene
  try dsimp only [drawN, takeSeq, takeId, okAns]
  repeat' first
    | assumption
    | exact h
    | with_reducible apply applyRecord_inv
    | with_reducible apply foldl_inv

theorem writeCounters_inv {kind : Nat} {bank : Bool} {s : State} (h : s.Inv) : (writeCounters kind bank s).Inv := by
  unfold writeCounters
  try dsimp only [drawN, takeSeq, takeId, okAns]
  repeat' first
    | assumption
    | exact h
    | with_reducible apply writeRec_inv

/-- A security change leaves the nonces alone. -/
theorem applySec_nonces (ch : SecChange) (x : Security) : (applySec ch x).nonces = x.nonces := by
  cases ch <;> simp only [applySec] <;> split <;> rfl

theorem secStored_nonces (ch : SecChange) (x : Security) : (secStored ch x).nonces = x.nonces := by
  unfold secStored
  split <;> first | rfl | exact applySec_nonces _ _

theorem commitSec_inv {ch : SecChange} {s : State} (h : s.Inv) : (commitSec ch s).Inv := by
  unfold commitSec
  dsimp only
  split
  · exact h
  · obtain ⟨hm, ⟨hr, ho, ht, hk, hn, hi⟩, hw⟩ := h
    exact ⟨hm, ⟨hr, ho, ht, hk, by simpa [addJob, applySec_nonces] using hn, hi⟩, hw⟩

theorem touchSlot_inv {a : Nat} {s : State} (h : s.Inv) : (touchSlot a s).Inv := by
  unfold touchSlot
  try dsimp only [drawN, takeSeq, takeId, okAns]
  repeat' first
    | assumption
    | exact h
    | with_reducible apply commitSec_inv
    | split

theorem dropCopy_inv {sec : Nat} {s : State} (h : s.Inv) : (dropCopy sec s).Inv := by
  unfold dropCopy
  try dsimp only [drawN, takeSeq, takeId, okAns]
  repeat' first
    | assumption
    | exact h
    | split

theorem takeConfig_inv {o : NvOp} {s : State} (h : s.Inv) : (takeConfig o s).Inv := by
  unfold takeConfig
  try dsimp only [drawN, takeSeq, takeId, okAns]
  repeat' first
    | assumption
    | exact h
    | split

theorem commitCopy_inv {c : Bool} {s : State} (h : s.Inv) : (commitCopy c s).Inv := by
  unfold commitCopy
  try dsimp only [drawN, takeSeq, takeId, okAns]
  repeat' first
    | assumption
    | exact h
    | split

theorem tornRec_inv {j : Bool} {ty sec : Nat} {payload : List Byte} {s : State} (h : s.Inv) :
    (tornRec j ty sec payload s).Inv := by
  unfold tornRec
  try dsimp only [drawN, takeSeq, takeId, okAns]
  repeat' first
    | assumption
    | exact h
    | with_reducible apply spend_inv
    | with_reducible apply nvProgram_inv
    | split

theorem putRec_inv {ok : Bool} {j : Bool} {ty sec : Nat} {payload : List Byte} {s : State} (h : s.Inv) :
    (putRec ok j ty sec payload s).Inv := by
  unfold putRec
  try dsimp only [drawN, takeSeq, takeId, okAns]
  repeat' first
    | assumption
    | exact h
    | with_reducible apply writeRec_inv
    | with_reducible apply tornRec_inv
    | split

theorem opEffect_inv {j : Job} {o : NvOp} {ok : Bool} {s : State} (h : s.Inv) : (opEffect j o ok s).Inv := by
  unfold opEffect
  split
  · exact putRec_inv h
  · exact putRec_inv h
  · rename_i sec
    have h' := dropCopy_inv (sec := sec) (nvEraseSec_inv (sec := sec) h)
    dsimp only
    split
    · exact h'
    · exact spend_inv (nvProgram_inv h')
  · split
    · exact writeCounters_inv h
    · exact tornRec_inv h
  · split
    · exact putRec_inv h
    · exact h
  · dsimp only
    have h' := fun o => takeConfig_inv (o := o) h
    split
    · exact h' _
    · split
      · split
        · exact commitCopy_inv (nvProgram_inv (h' _))
        · exact nvProgram_inv (h' _)
        · exact nvProgram_inv (h' _)
      · exact spend_inv (nvProgram_inv (h' _))

theorem secCommitted_inv {ch : SecChange} {s : State} (h : s.Inv) : (secCommitted ch s).Inv := by
  have h' : State.Inv { s with sec := secStored ch s.sec } := by
    obtain ⟨hm, ⟨hr, ho, ht, hk, hn, hi⟩, hw⟩ := h
    exact ⟨hm, ⟨hr, ho, ht, hk, by simpa [secStored_nonces] using hn, hi⟩, hw⟩
  unfold secCommitted
  dsimp only
  split <;> exact h'

theorem secFailed_inv {ch : SecChange} {s : State} (h : s.Inv) : (secFailed ch s).Inv := by
  unfold secFailed
  try dsimp only [drawN, takeSeq, takeId, okAns]
  repeat' first
    | assumption
    | exact h
    | split

theorem finishJob_inv {j : Job} {s : State} (h : s.Inv) : (finishJob j s).Inv := by
  unfold finishJob
  try dsimp only [drawN, takeSeq, takeId, okAns]
  repeat' first
    | assumption
    | exact h
    | with_reducible apply resolveOpt_inv
    | with_reducible apply touchSlot_inv
    | with_reducible apply secFailed_inv
    | with_reducible apply secCommitted_inv
    | with_reducible apply addJob_inv
    | split

theorem deckSaveStep_inv {o : NvOp} {j : Job} {s : State} (h : s.Inv) : (deckSaveStep o j s).2.Inv := by
  unfold deckSaveStep
  try dsimp only [drawN, takeSeq, takeId, okAns]
  repeat' first
    | assumption
    | exact h
    | split

theorem endEmpty_inv {s : State} (h : s.Inv) : (endEmpty s).Inv := by
  unfold endEmpty
  try dsimp only [drawN, takeSeq, takeId, okAns]
  repeat' first
    | assumption
    | exact h
    | with_reducible apply finishJob_inv
    | with_reducible apply foldl_inv
    | split
    | intro _

theorem cutDeckSave_inv {s : State} (h : s.Inv) : (cutDeckSave s).Inv := by
  unfold cutDeckSave
  try dsimp only [drawN, takeSeq, takeId, okAns]
  repeat' first
    | assumption
    | exact h
    | with_reducible apply endEmpty_inv

theorem journalCheck_inv {s : State} (h : s.Inv) : (journalCheck s).Inv := by
  unfold journalCheck
  try dsimp only [drawN, takeSeq, takeId, okAns]
  repeat' first
    | assumption
    | exact h
    | split

end Sys2Proof.Machine
end

