-- ==== Sys2Proof/Laws/InvVerbsNode.lean ====
section
/-!
SUPPORT. The invariant of Sys2Proof/Safety.lean, kept by the operations of
Sys2Proof/Machine/VerbsNode.lean: one lemma per operation.
-/
namespace Sys2Proof.Machine

theorem okAns_inv {s : State} {r : List Byte} (h : s.Inv) : (okAns s r).1.Inv := h

theorem ansIdRead_inv {s : State} (h : s.Inv) : (ansIdRead s).1.Inv := h

theorem ansNodeStatus_inv {s : State} (h : s.Inv) : (ansNodeStatus s).1.Inv := h

theorem effFactoryReset_inv {s : State} (h : s.Inv) : (effFactoryReset s).Inv := h

theorem effNodeReset_inv {mode : Byte} {b : Bd} {s : State} (h : s.Inv) : (effNodeReset mode b s).Inv := by
  unfold effNodeReset
  try dsimp only [drawN, takeSeq, takeId, okAns]
  repeat' first
    | assumption
    | exact h
    | with_reducible apply effFactoryReset_inv
    | split

theorem effNodeRest_inv {mode keep : Byte} {hold : W16} {b : Bd} {s : State} (h : s.Inv) :
    (effNodeRest mode keep hold b s).Inv := by
  unfold effNodeRest
  try dsimp only [drawN, takeSeq, takeId, okAns]
  repeat' first
    | assumption
    | exact h
    | with_reducible apply persist_inv
    | with_reducible apply restartHold_inv
    | split

theorem ansNodeRest_inv {s : State} (h : s.Inv) : (ansNodeRest s).1.Inv := h

theorem effAddrSet_inv {addr : W16} {s : State} (h : s.Inv) :
    (effAddrSet addr s).Inv := by
  unfold effAddrSet
  try dsimp only [drawN, takeSeq, takeId, okAns]
  repeat' first
    | assumption
    | exact h
    | with_reducible apply dropUnsent_inv

theorem effAddrClaim_inv {value mask : W64} {spread : Byte} {b : Bd} {s : State} (h : s.Inv) :
    (effAddrClaim value mask spread b s).Inv := by
  unfold effAddrClaim
  try dsimp only [drawN, takeSeq, takeId, okAns]
  repeat' first
    | assumption
    | exact h
    | with_reducible apply drawN_inv
    | split

theorem ansAddrClaim_inv {s : State} (h : s.Inv) : (ansAddrClaim s).1.Inv := h

theorem effGroupSet_inv {op : Byte} {map : BitVec 256} {s : State} (h : s.Inv) : (effGroupSet op map s).Inv := by
  unfold effGroupSet
  try dsimp only [drawN, takeSeq, takeId, okAns]
  repeat' first
    | assumption

theorem ansGroupRead_inv {s : State} (h : s.Inv) : (ansGroupRead s).1.Inv := h

theorem rollRead_inv {kind : Nat} {s : State} (h : s.Inv) : (rollRead kind s).Inv := by
  unfold rollRead
  try dsimp only [drawN, takeSeq, takeId, okAns]
  repeat' first
    | assumption
    | exact h
    | split

theorem ansRollcall_inv {base : W16} {count kind : Byte} {s : State} (h : s.Inv) :
    (ansRollcall base count kind s).1.Inv := by
  unfold ansRollcall
  try dsimp only [drawN, takeSeq, takeId, okAns]
  repeat' first
    | assumption
    | exact h
    | with_reducible apply rollRead_inv
    | with_reducible apply okAns_inv
    | split

theorem effWink_inv {seconds : W16} {ports : Byte} {b : Bd} {s : State} (h : s.Inv) :
    (effWink seconds ports b s).Inv := h

theorem effTimeKeystone_inv {k : W48} {b : Bd} {s : State} (h : s.Inv) : (effTimeKeystone k b s).Inv := h

theorem ansTimeKeystone_inv {k : W48} {b : Bd} {s : State} (h : s.Inv) : (ansTimeKeystone k b s).1.Inv := h

theorem ansTimeRead_inv {b : Bd} {s : State} (h : s.Inv) : (ansTimeRead b s).1.Inv := h

theorem effFrameRate_inv {mode : Byte} {value : W16} {s : State} (h : s.Inv) : (effFrameRate mode value s).Inv := by
  unfold effFrameRate
  try dsimp only [drawN, takeSeq, takeId, okAns]
  repeat' first
    | assumption
    | exact h
    | with_reducible apply persist_inv
    | split

theorem ansFrameRate_inv {s : State} (h : s.Inv) : (ansFrameRate s).1.Inv := h

theorem effSyncCfg_inv {mode : Byte} {s : State} (h : s.Inv) : (effSyncCfg mode s).Inv := by
  unfold effSyncCfg
  try dsimp only [drawN, takeSeq, takeId, okAns]
  repeat' first
    | assumption
    | exact h
    | with_reducible apply persist_inv
    | split

theorem ansSyncCfg_inv {s : State} (h : s.Inv) : (ansSyncCfg s).1.Inv := h

end Sys2Proof.Machine
end

