-- ==== Sys2Proof/Laws/InvVerbsLevel.lean ====
section
/-!
SUPPORT. The invariant of Sys2Proof/Safety.lean, kept by the operations of
Sys2Proof/Machine/VerbsLevel.lean: one lemma per operation.
-/
namespace Sys2Proof.Machine

theorem effLevelSet_inv {zone mask : Byte} {level : W16} {b : Bd} {s : State} (h : s.Inv) :
    (effLevelSet zone mask level b s).Inv := by
  unfold effLevelSet
  try dsimp only [drawN, takeSeq, takeId, okAns]
  repeat' first
    | assumption
    | exact h
    | with_reducible apply setLanes_inv

theorem effFadeStart_inv {zone mask flags : Byte} {start target : W16} {dur : W32} {curve : Byte} {b : Bd} {s : State} (h : s.Inv) : (effFadeStart zone mask flags start target dur curve b s).Inv := by
  unfold effFadeStart
  try dsimp only [drawN, takeSeq, takeId, okAns]
  repeat' first
    | assumption
    | exact h
    | with_reducible apply setLane_inv
    | with_reducible apply foldl_inv
    | split
    | intro _

theorem effFadeStop_inv {zone mask : Byte} {b : Bd} {s : State} (h : s.Inv) : (effFadeStop zone mask b s).Inv := by
  unfold effFadeStop
  try dsimp only [drawN, takeSeq, takeId, okAns]
  repeat' first
    | assumption
    | exact h
    | with_reducible apply setLane_inv
    | with_reducible apply foldl_inv
    | split
    | intro _

theorem effEffectSet_inv {zone mask curve : Byte} {depth : W16} {period : W32} {b : Bd} {s : State} (h : s.Inv) :
    (effEffectSet zone mask curve depth period b s).Inv := by
  unfold effEffectSet
  try dsimp only [drawN, takeSeq, takeId, okAns]
  repeat' first
    | assumption
    | exact h
    | with_reducible apply setEffect_inv
    | with_reducible apply foldl_inv
    | split
    | intro _

theorem effEffectClear_inv {zone : Byte} {b : Bd} {s : State} (h : s.Inv) : (effEffectClear zone b s).Inv := by
  unfold effEffectClear
  try dsimp only [drawN, takeSeq, takeId, okAns]
  repeat' first
    | assumption
    | exact h
    | with_reducible apply setEffect_inv
    | with_reducible apply foldl_inv
    | split
    | intro _

theorem effMasterSet_inv {flags : Byte} {start target : W16} {dur : W32} {curve : Byte} {b : Bd} {s : State} (h : s.Inv) : (effMasterSet flags start target dur curve b s).Inv := by
  unfold effMasterSet
  try dsimp only [drawN, takeSeq, takeId, okAns]
  repeat' first
    | assumption
    | exact h
    | with_reducible apply setMaster_inv

theorem setOutCurve_inv {c : Port} {k : Key} {curve : Byte} {s : State} (h : s.Inv) :
    (setOutCurve c k curve s).Inv := by
  unfold setOutCurve
  try dsimp only [drawN, takeSeq, takeId, okAns]
  repeat' first
    | assumption
    | exact h
    | split

theorem effOutcurveSet_inv {classes curve : Byte} {b : Bd} {s : State} (h : s.Inv) :
    (effOutcurveSet classes curve b s).Inv := by
  unfold effOutcurveSet
  try dsimp only [drawN, takeSeq, takeId, okAns]
  repeat' first
    | assumption
    | exact h
    | with_reducible apply setOutCurve_inv
    | with_reducible apply foldl_inv
    | split
    | intro _

theorem ansLevelRead_inv {zone : Byte} {b : Bd} {s : State} (h : s.Inv) : (ansLevelRead zone b s).1.Inv := h

theorem effSceneRecall_inv {slot : Byte} {b : Bd} {s : State} (h : s.Inv) : (effSceneRecall slot b s).Inv := by
  unfold effSceneRecall
  try dsimp only [drawN, takeSeq, takeId, okAns]
  repeat' first
    | assumption
    | exact h
    | with_reducible apply applyScene_inv

theorem effSceneCapture_inv {slot zone : Byte} {deffade : W32} {b : Bd} {s : State} (h : s.Inv) :
    (effSceneCapture slot zone deffade b s).Inv := h

theorem effSceneWrite_inv {slot flags : Byte} {offset : W16} {deffade : W32} {records : List Byte} {b : Bd} {s : State} (h : s.Inv) : (effSceneWrite slot flags offset deffade records b s).Inv := by
  unfold effSceneWrite
  try dsimp only [drawN, takeSeq, takeId, okAns]
  repeat' first
    | assumption
    | exact h
    | with_reducible apply addJob_inv
    | split

theorem ansSceneRead_inv {slot : Byte} {offset : W16} {len : Byte} {s : State} (h : s.Inv) :
    (ansSceneRead slot offset len s).1.Inv := h

theorem effSceneErase_inv {slot : Byte} {b : Bd} {s : State} (h : s.Inv) : (effSceneErase slot b s).Inv := h

theorem effSceneList_inv {boot : Option Byte} {s : State} (h : s.Inv) : (effSceneList boot s).Inv := by
  unfold effSceneList
  try dsimp only [drawN, takeSeq, takeId, okAns]
  repeat' first
    | assumption
    | exact h
    | with_reducible apply persist_inv
    | split

theorem ansSceneList_inv {s : State} (h : s.Inv) : (ansSceneList s).1.Inv := h

end Sys2Proof.Machine
end

