-- ==== Sys2Proof/Laws/InvVerbsDeck.lean ====
section
/-!
SUPPORT. The invariant of Sys2Proof/Safety.lean, kept by the operations of
Sys2Proof/Machine/VerbsDeck.lean: one lemma per operation.
-/
namespace Sys2Proof.Machine

theorem touchStage_inv {s : State} (h : s.Inv) : (touchStage s).Inv := h

theorem disarm_inv {s : State} (h : s.Inv) : (disarm s).Inv := by
  unfold disarm
  try dsimp only [drawN, takeSeq, takeId, okAns]
  repeat' first
    | assumption
    | exact h
    | with_reducible apply resolve_inv
    | split

theorem dropLoad_inv {s : State} (h : s.Inv) :
    (dropLoad s).Inv := by
  unfold dropLoad
  try dsimp only [drawN, takeSeq, takeId, okAns]
  repeat' first
    | assumption
    | exact h
    | with_reducible apply resolve_inv
    | with_reducible apply foldl_inv
    | split
    | intro _

theorem abortStage_inv {s : State} (h : s.Inv) : (abortStage s).Inv := by
  unfold abortStage
  try dsimp only [drawN, takeSeq, takeId, okAns]
  repeat' first
    | assumption
    | exact h
    | with_reducible apply dropLoad_inv
    | with_reducible apply disarm_inv

theorem effStageBegin_inv {b : Bd} {s : State} (h : s.Inv) : (effStageBegin b s).Inv := by
  have h' := dropLoad_inv h
  exact ⟨⟨h'.1.1, h'.1.2.1, h.1.2.1⟩, h'.2⟩

theorem effStageCommit_inv {flags : Byte} {c : W48} {b : Bd} {s : State} (h : s.Inv) :
    (effStageCommit flags c b s).Inv := h

theorem effStageAbort_inv {s : State} (h : s.Inv) : (effStageAbort s).Inv := by
  unfold effStageAbort
  try dsimp only [drawN, takeSeq, takeId, okAns]
  repeat' first
    | assumption
    | exact h
    | with_reducible apply abortStage_inv

theorem effDeckWrite_inv {first : W16} {entries : List Byte} {s : State} (h : s.Inv) :
    (effDeckWrite first entries s).Inv :=
  ⟨⟨h.1.1, h.1.2.1, deckPut_wf _ _ _ h.1.2.2⟩, h.2⟩

theorem ansDeckRead_inv {bank : Byte} {first : W16} {count : Byte} {s : State} (h : s.Inv) :
    (ansDeckRead bank first count s).1.Inv := h

theorem effDeckSave_inv {b : Bd} {s : State} (h : s.Inv) : (effDeckSave b s).Inv := h

theorem effDeckLoad_inv {first count : Byte} {b : Bd} {s : State} (h : s.Inv) : (effDeckLoad first count b s).Inv := h

/-- New staging bytes. -/
theorem staging_inv {a : Nat} {l : List Byte} {x : Stage} {s : State} (h : s.Inv) :
    State.Inv { s with rd.staging := deckPut s.rd.staging a l, st := x } :=
  ⟨⟨h.1.1, h.1.2.1, deckPut_wf _ _ _ h.1.2.2⟩, h.2⟩

theorem loadSector_inv {s : State} (h : s.Inv) : (loadSector s).Inv := by
  unfold loadSector
  dsimp only
  split
  · rename_i l area _ _
    generalize nvBytesAt s (areaBase area + 4096 * (l.first + l.done)) 4096 = d
    split
    · with_reducible exact staging_inv h
    · exact h
  · exact h
  · exact h

theorem curveChanged_inv {id : Nat} {s : State} (h : s.Inv) : (curveChanged id s).Inv := by
  unfold curveChanged
  try dsimp only [drawN, takeSeq, takeId, okAns]
  repeat' first
    | assumption
    | exact h
    | split

theorem effCurveWrite_inv {id flags : Byte} {first : W16} {points : List W16} {b : Bd} {s : State} (h : s.Inv) :
    (effCurveWrite id flags first points b s).Inv := by
  unfold effCurveWrite
  try dsimp only [drawN, takeSeq, takeId, okAns]
  repeat' first
    | assumption
    | exact h
    | with_reducible apply curveChanged_inv
    | split

theorem ansCurveWrite_inv {first : W16} {points : List W16} {s : State} (h : s.Inv) :
    (ansCurveWrite first points s).1.Inv := h

theorem ansCurveRead_inv {id : Byte} {first : W16} {count : Byte} {s : State} (h : s.Inv) :
    (ansCurveRead id first count s).1.Inv := h

end Sys2Proof.Machine
end

