-- ==== Sys2Proof/Laws/InvVerbsPort.lean ====
section
/-!
SUPPORT. The invariant of Sys2Proof/Safety.lean, kept by the operations of
Sys2Proof/Machine/VerbsPort.lean: one lemma per operation.
-/
namespace Sys2Proof.Machine

theorem effPortCfg_inv {port flags rate fmt : Byte} {n : W16} {interval : Byte} {s : State} (h : s.Inv) :
    (effPortCfg port flags rate fmt n interval s).Inv := by
  unfold effPortCfg
  try dsimp only [drawN, takeSeq, takeId, okAns]
  repeat' first
    | assumption

theorem ansPortStatus_inv {port : Byte} {s : State} (h : s.Inv) : (ansPortStatus port s).1.Inv := h

theorem ansPortCensus_inv {s : State} (h : s.Inv) : (ansPortCensus s).1.Inv := h

theorem effCellSidecfg_inv {ports mode : Byte} {first last : W16} {wdog : Byte} {failsafe : W16} {cls : Byte} {poweron : W16} {b : Bd} {s : State} (h : s.Inv) : (effCellSidecfg ports mode first last wdog failsafe cls poweron b s).Inv := by
  unfold effCellSidecfg
  try dsimp only [drawN, takeSeq, takeId, okAns]
  repeat' first
    | assumption
    | exact h
    | with_reducible apply persist_inv
    | with_reducible apply upPort_inv
    | with_reducible apply foldl_inv
    | split
    | intro _

theorem effCellIdent_inv {port : Byte} {first : W16} {count : Byte} {b : Bd} {s : State} (h : s.Inv) :
    (effCellIdent port first count b s).Inv := by
  unfold effCellIdent
  try dsimp only [drawN, takeSeq, takeId, okAns]
  repeat' first
    | assumption
    | exact h
    | with_reducible apply addItem_inv
    | with_reducible apply upPort_inv
    | split

theorem effPortProbe_inv {port kind : Byte} {b : Bd} {s : State} (h : s.Inv) : (effPortProbe port kind b s).Inv := by
  unfold effPortProbe
  try dsimp only [drawN, takeSeq, takeId, okAns]
  repeat' first
    | assumption
    | exact h
    | with_reducible apply upPort_inv
    | with_reducible apply addItem_inv
    | with_reducible apply wantReset_inv
    | split

theorem relayOn_inv {s : State} (h : s.Inv) : (relayOn s).Inv := by
  unfold relayOn
  try dsimp only [drawN, takeSeq, takeId, okAns]
  repeat' first
    | assumption
    | exact h
    | with_reducible apply cutRequests_inv
    | with_reducible apply changeState_inv
    | with_reducible apply trimMap_inv
    | with_reducible apply upPort_inv

theorem relayOff_inv {s : State} (h : s.Inv) : (relayOff s).Inv := by
  unfold relayOff
  try dsimp only [drawN, takeSeq, takeId, okAns]
  repeat' first
    | assumption
    | exact h
    | with_reducible apply changeState_inv
    | with_reducible apply upPorts_inv
    | with_reducible apply wantReset_inv
    | split

theorem effRelayCfg_inv {mode : Byte} {hold : W16} {s : State} (h : s.Inv) : (effRelayCfg mode hold s).Inv := by
  unfold effRelayCfg
  try dsimp only [drawN, takeSeq, takeId, okAns]
  repeat' first
    | assumption
    | exact h
    | with_reducible apply persist_inv
    | with_reducible apply relayOn_inv
    | with_reducible apply relayOff_inv
    | split

theorem ansRelayCfg_inv {s : State} (h : s.Inv) : (ansRelayCfg s).1.Inv := h

end Sys2Proof.Machine
end

