-- ==== Sys2Proof/Laws/InvVerbsFail.lean ====
section
/-!
SUPPORT. The invariant of Sys2Proof/Safety.lean, kept by the operations of
Sys2Proof/Machine/VerbsFail.lean: one lemma per operation.
-/
namespace Sys2Proof.Machine

theorem ansFailSummary_inv {s : State} (h : s.Inv) : (ansFailSummary s).1.Inv := h

theorem ansFailMap_inv {page mode first count : Byte} {s : State} (h : s.Inv) :
    (ansFailMap page mode first count s).1.Inv := h

theorem effFailNotify_inv {args : Option (W16 × Byte × Byte × Byte × Byte)} {s : State} (h : s.Inv) :
    (effFailNotify args s).Inv := by
  unfold effFailNotify
  try dsimp only [drawN, takeSeq, takeId, okAns]
  repeat' first
    | assumption
    | exact h
    | with_reducible apply persist_inv
    | with_reducible apply drawN_inv
    | split

theorem ansFailNotify_inv {s : State} (h : s.Inv) : (ansFailNotify s).1.Inv := h

theorem ansCounterRead_inv {what : Byte} {first : W16} {count : Byte} {s : State} (h : s.Inv) :
    (ansCounterRead what first count s).1.Inv := h

theorem readyBank_inv {s : State} (h : s.Inv) : (readyBank s).Inv := by
  unfold readyBank
  try dsimp only [drawN, takeSeq, takeId, okAns]
  repeat' first
    | assumption
    | exact h
    | with_reducible apply addJob_inv
    | split

theorem effCounterSave_inv {flags period : Byte} {b : Bd} {s : State} (h : s.Inv) :
    (effCounterSave flags period b s).Inv := by
  unfold effCounterSave
  try dsimp only [drawN, takeSeq, takeId, okAns]
  repeat' first
    | assumption
    | exact h
    | with_reducible apply persist_inv
    | with_reducible apply readyBank_inv
    | with_reducible apply addJob_inv
    | split

theorem effConcealCfg_inv {flags : Option Byte} {s : State} (h : s.Inv) : (effConcealCfg flags s).Inv := by
  unfold effConcealCfg
  try dsimp only [drawN, takeSeq, takeId, okAns]
  repeat' first
    | assumption
    | exact h
    | with_reducible apply persist_inv
    | split

theorem ansConcealCfg_inv {s : State} (h : s.Inv) : (ansConcealCfg s).1.Inv := h

theorem clearStats_inv {s : State} (h : s.Inv) : (clearStats s).Inv := h

theorem ansLinkStats_inv {mode : Byte} {s : State} (h : s.Inv) : (ansLinkStats mode s).1.Inv := by
  unfold ansLinkStats
  try dsimp only [drawN, takeSeq, takeId, okAns]
  repeat' first
    | assumption
    | exact h
    | with_reducible apply clearStats_inv
    | split

end Sys2Proof.Machine
end

