-- ==== Sys2Proof/Laws/InvVerbsNv.lean ====
section
/-!
SUPPORT. The invariant of Sys2Proof/Safety.lean, kept by the operations of
Sys2Proof/Machine/VerbsNv.lean: one lemma per operation.
-/
namespace Sys2Proof.Machine

theorem ansNvRead_inv {addr : W32} {len : Byte} {s : State} (h : s.Inv) : (ansNvRead addr len s).1.Inv := h

theorem effNvWrite_inv {addr : W32} {data : List Byte} {b : Bd} {s : State} (h : s.Inv) :
    (effNvWrite addr data b s).Inv := by
  unfold effNvWrite
  try dsimp only [drawN, takeSeq, takeId, okAns]
  repeat' first
    | assumption
    | exact h
    | with_reducible apply addJob_inv
    | with_reducible apply touchSlot_inv

theorem effNvErase_inv {sector : Byte} {b : Bd} {s : State} (h : s.Inv) : (effNvErase sector b s).Inv := by
  unfold effNvErase
  try dsimp only [drawN, takeSeq, takeId, okAns]
  repeat' first
    | assumption
    | exact h
    | with_reducible apply addJob_inv
    | with_reducible apply touchSlot_inv

theorem effNvProtect_inv {v : Byte} {b : Bd} {s : State} (h : s.Inv) : (effNvProtect v b s).Inv := by
  unfold effNvProtect
  try dsimp only [drawN, takeSeq, takeId, okAns]
  repeat' first
    | assumption
    | exact h
    | with_reducible apply addJob_inv
    | split

theorem ansNvStatus_inv {s : State} (h : s.Inv) : (ansNvStatus s).1.Inv := h

end Sys2Proof.Machine
end

