-- ==== Sys2Proof/Laws/InvVerbsPower.lean ====
section
/-!
SUPPORT. The invariant of Sys2Proof/Safety.lean, kept by the operations of
Sys2Proof/Machine/VerbsPower.lean: one lemma per operation.
-/
namespace Sys2Proof.Machine

theorem ansPowerStatus_inv {s : State} (h : s.Inv) : (ansPowerStatus s).1.Inv := h

theorem effReserveCfg_inv {mode present vchg ichg darkcut : Byte} {chold : W16} {s : State} (h : s.Inv) :
    (effReserveCfg mode present vchg ichg darkcut chold s).Inv := by
  unfold effReserveCfg
  try dsimp only [drawN, takeSeq, takeId, okAns]
  repeat' first
    | assumption
    | exact h
    | with_reducible apply persist_inv
    | split

theorem ansReserveCfg_inv {s : State} (h : s.Inv) : (ansReserveCfg s).1.Inv := h

theorem effHarvestCfg_inv {mode enable k period : Byte} {s : State} (h : s.Inv) :
    (effHarvestCfg mode enable k period s).Inv := by
  unfold effHarvestCfg
  try dsimp only [drawN, takeSeq, takeId, okAns]
  repeat' first
    | assumption
    | exact h
    | with_reducible apply persist_inv
    | split

theorem ansHarvestCfg_inv {s : State} (h : s.Inv) : (ansHarvestCfg s).1.Inv := h

theorem effLampenSet_inv {mode : Byte} {s : State} (h : s.Inv) : (effLampenSet mode s).Inv := by
  unfold effLampenSet
  try dsimp only [drawN, takeSeq, takeId, okAns]
  repeat' first
    | assumption
    | exact h
    | split

theorem ansLampenSet_inv {s : State} (h : s.Inv) : (ansLampenSet s).1.Inv := h

theorem effGpioCfg_inv {pin mode init : Byte} {s : State} (h : s.Inv) : (effGpioCfg pin mode init s).Inv := by
  unfold effGpioCfg
  try dsimp only [drawN, takeSeq, takeId, okAns]
  repeat' first
    | assumption
    | exact h
    | with_reducible apply persist_inv
    | split

theorem ansGpioCfg_inv {pin : Byte} {s : State} (h : s.Inv) : (ansGpioCfg pin s).1.Inv := h

theorem effGpioRw_inv {wmask wlevel : Byte} {s : State} (h : s.Inv) : (effGpioRw wmask wlevel s).Inv := h

theorem ansGpioRw_inv {s : State} (h : s.Inv) : (ansGpioRw s).1.Inv := h

theorem ansTempRead_inv {s : State} (h : s.Inv) : (ansTempRead s).1.Inv := h

theorem effSpanCfg_inv {mode flags : Byte} {defrate : W32} {s : State} (h : s.Inv) :
    (effSpanCfg mode flags defrate s).Inv := by
  unfold effSpanCfg
  try dsimp only [drawN, takeSeq, takeId, okAns]
  repeat' first
    | assumption
    | exact h
    | with_reducible apply persist_inv
    | split

theorem ansSpanCfg_inv {s : State} (h : s.Inv) : (ansSpanCfg s).1.Inv := h

theorem ansSpanStatus_inv {mode : Byte} {s : State} (h : s.Inv) : (ansSpanStatus mode s).1.Inv := by
  unfold ansSpanStatus
  try dsimp only [drawN, takeSeq, takeId, okAns]
  repeat' first
    | assumption
    | exact h
    | split

end Sys2Proof.Machine
end

