-- ==== Sys2Proof/Laws/InvVerbsFw.lean ====
section
/-!
SUPPORT. The invariant of Sys2Proof/Safety.lean, kept by the operations of
Sys2Proof/Machine/VerbsFw.lean: one lemma per operation.
-/
namespace Sys2Proof.Machine

theorem ansFwInfo_inv {s : State} (h : s.Inv) : (ansFwInfo s).1.Inv := h

theorem setSlotSize_inv {slot n : Nat} {s : State} (h : s.Inv) : (setSlotSize slot n s).Inv := by
  unfold setSlotSize
  try dsimp only [drawN, takeSeq, takeId, okAns]
  repeat' first
    | assumption
    | exact h
    | split

theorem effFwBegin_inv {size : W32} {b : Bd} {s : State} (h : s.Inv) : (effFwBegin size b s).Inv := by
  unfold effFwBegin
  try dsimp only [drawN, takeSeq, takeId, okAns]
  repeat' first
    | assumption
    | exact h
    | with_reducible apply commitSec_inv
    | with_reducible apply setSlotSize_inv
    | with_reducible apply addJob_inv

theorem effFwChunk_inv {data : List Byte} {b : Bd} {s : State} (h : s.Inv) : (effFwChunk data b s).Inv := by
  unfold effFwChunk
  try dsimp only [drawN, takeSeq, takeId, okAns]
  repeat' first
    | assumption
    | exact h
    | with_reducible apply addJob_inv
    | split

theorem effFwFinish_inv {b : Bd} {s : State} (h : s.Inv) : (effFwFinish b s).Inv := by
  unfold effFwFinish
  try dsimp only [drawN, takeSeq, takeId, okAns]
  repeat' first
    | assumption
    | exact h
    | split

theorem effFwActivate_inv {mode : Byte} {b : Bd} {s : State} (h : s.Inv) : (effFwActivate mode b s).Inv := by
  unfold effFwActivate
  try dsimp only [drawN, takeSeq, takeId, okAns]
  repeat' first
    | assumption
    | exact h
    | with_reducible apply commitSec_inv
    | split

theorem ansFwActivate_inv {s : State} (h : s.Inv) : (ansFwActivate s).1.Inv := h

end Sys2Proof.Machine
end

