-- ==== Sys2Proof/Laws/InvVerbsSec.lean ====
section
/-!
SUPPORT. The invariant of Sys2Proof/Safety.lean, kept by the operations of
Sys2Proof/Machine/VerbsSec.lean: one lemma per operation.
-/
namespace Sys2Proof.Machine

theorem ansSecChallenge_inv {b : Bd} {s : State} (h : s.Inv) : (ansSecChallenge b s).1.Inv := by
  obtain ⟨hm, ⟨hr, ho, ht, hk, hn, hi⟩, hw⟩ := h
  refine ⟨hm, ⟨hr, ho, ht, hk, ?_, hi⟩, hw⟩
  have hf := List.length_filter_le (fun x => x.src != owner b.q) s.sec.nonces
  simp only [ansSecChallenge, List.length_append, List.length_cons, List.length_nil]
  split
  · omega
  · simp only [List.length_drop]
    omega

theorem burnNonce_inv {q : Req} {s : State} (h : s.Inv) : (burnNonce q s).Inv := by
  obtain ⟨hm, ⟨hr, ho, ht, hk, hn, hi⟩, hw⟩ := h
  exact ⟨hm, ⟨hr, ho, ht, hk, Nat.le_trans (List.length_filter_le _ _) hn, hi⟩, hw⟩

theorem effSecSetkey_inv {form : Byte} {key : List Byte} {kcv : W32} {b : Bd} {s : State} (h : s.Inv) :
    (effSecSetkey form key kcv b s).Inv := by
  unfold effSecSetkey
  try dsimp only [drawN, takeSeq, takeId, okAns]
  repeat' first
    | assumption
    | exact h
    | with_reducible apply burnNonce_inv
    | with_reducible apply addJob_inv
    | split

theorem effSecLock_inv {mode : Byte} {b : Bd} {s : State} (h : s.Inv) : (effSecLock mode b s).Inv := by
  unfold effSecLock
  try dsimp only [drawN, takeSeq, takeId, okAns]
  repeat' first
    | assumption
    | exact h
    | with_reducible apply burnNonce_inv
    | with_reducible apply addJob_inv
    | split

end Sys2Proof.Machine
end

