-- ==== Sys2Proof/Laws/InvClause.lean ====
section
/-!
SUPPORT. The invariant of Sys2Proof/Safety.lean, kept by the operations of
Sys2Proof/Machine/Clause.lean: one lemma per operation.
-/
namespace Sys2Proof.Machine

/-- The tracking table holds 32 sources at most. -/
theorem putTrack_length (t : Track) (l : List Track) : (putTrack t l).length ≤ 32 := by
  simp only [putTrack, List.length_take]
  exact Nat.min_le_left _ _

theorem recordSeq_inv {q : Req} {s : State} (h : s.Inv) : (recordSeq q s).Inv := by
  unfold recordSeq
  split
  · obtain ⟨hm, ⟨hr, ho, ht, hk, hn, hi⟩, hw⟩ := h
    exact ⟨hm, ⟨hr, ho, ht, putTrack_length _ _, hn, hi⟩, hw⟩
  · exact h

theorem resendCached_inv {q : Req} {ops : List Byte} {s : State} (h : s.Inv) : (resendCached q ops s).Inv := by
  have hput : ∀ t, State.Inv { s with cl.track := putTrack t s.cl.track } := fun t => by
    obtain ⟨hm, ⟨hr, ho, ht, hk, hn, hi⟩, hw⟩ := h
    exact ⟨hm, ⟨hr, ho, ht, putTrack_length _ _, hn, hi⟩, hw⟩
  unfold resendCached
  split
  · exact h
  · cases q.mbox
    · dsimp only
      split
      · exact hput _
      · split
        · exact hput _
        · exact queueReply_inv (hput _)
    · dsimp only
      split
      · exact h
      · split
        · exact h
        · exact queueLocal_inv h

theorem foresee_inv {i : Instr} {s : State} (h : s.Inv) :
    (foresee i s).Inv := by
  unfold foresee
  try dsimp only [drawN, takeSeq, takeId, okAns]
  repeat' first
    | assumption
    | exact h
    | with_reducible apply reconfigure_inv
    | split

theorem burnUpTo_inv {q : Req} {n : Nat} {l : List (Byte × List Byte)} {s : State} (h : s.Inv) :
    (burnUpTo q n l s).Inv := by
  unfold burnUpTo
  try dsimp only [drawN, takeSeq, takeId, okAns]
  repeat' first
    | assumption
    | exact h
    | with_reducible apply burnNonce_inv
    | split

theorem takeId_inv {s : State} (h : s.Inv) : (takeId s).2.Inv :=
  ⟨h.1, h.2.1, fun w hw => Nat.lt_succ_of_lt (h.2.2.1 w hw), h.2.2.2⟩

theorem rejectEarly_inv {q : Req} {st : Byte} {s : State} (h : s.Inv) : (rejectEarly q st s).Inv :=
  replyOr_inv (takeId_inv h)

theorem rejectClause_inv {q : Req} {st : Byte} {s : State} (h : s.Inv) : (rejectClause q st s).Inv :=
  replyOr_inv (takeId_inv h)

theorem rejectVerb_inv {q : Req} {bad : Byte × Byte × Nat} {s : State} (h : s.Inv) : (rejectVerb q bad s).Inv :=
  replyOr_inv (takeId_inv h)

/-- A verb of the verb tables keeps the invariant. -/
structure Verb.Sound (v : Verb) : Prop where
  /-- Its effect does. -/
  eff : ∀ b s, State.Inv s → State.Inv (v.eff b s)
  /-- Its answer does. -/
  ans : ∀ b s r, State.Inv s → v.ans b s = some r → State.Inv r.1

theorem verbNode_sound {i : Instr} {v : Verb} (hv : verbNode i = some v) : v.Sound := by
  unfold verbNode at hv
  split at hv <;> cases hv
  all_goals
    constructor
    · intro b s h
      dsimp only
      with_reducible first
        | exact h
        | exact effNodeReset_inv h
        | exact effFactoryReset_inv h
        | exact effNodeRest_inv h
        | exact effAddrSet_inv h
        | exact effAddrClaim_inv h
        | exact effGroupSet_inv h
        | exact effWink_inv h
        | exact effTimeKeystone_inv h
        | exact effFrameRate_inv h
        | exact effSyncCfg_inv h
    · intro b s r h hr
      dsimp only at hr
      first
        | (cases hr; done)
        | (cases hr; exact h)
        | (cases hr; exact ansRollcall_inv h)
        | (split at hr <;> cases hr; exact h)

theorem verbLevel_sound {i : Instr} {v : Verb} (hv : verbLevel i = some v) : v.Sound := by
  unfold verbLevel at hv
  split at hv <;> cases hv
  all_goals
    constructor
    · intro b s h
      dsimp only
      with_reducible first
        | exact h
        | exact effLevelSet_inv h
        | exact effFadeStart_inv h
        | exact effFadeStop_inv h
        | exact effEffectSet_inv h
        | exact effEffectClear_inv h
        | exact effMasterSet_inv h
        | exact effOutcurveSet_inv h
        | exact effSceneRecall_inv h
        | exact effSceneCapture_inv h
        | exact effSceneWrite_inv h
        | exact effSceneErase_inv h
        | exact effSceneList_inv h
    · intro b s r h hr
      dsimp only at hr
      first
        | (cases hr; done)
        | (cases hr; exact h)
        | (split at hr <;> cases hr; exact h)

theorem verbDeck_sound {i : Instr} {v : Verb} (hv : verbDeck i = some v) : v.Sound := by
  unfold verbDeck at hv
  split at hv <;> cases hv
  all_goals
    constructor
    · intro b s h
      dsimp only
      with_reducible first
        | exact h
        | exact effDeckWrite_inv h
        | exact effStageBegin_inv h
        | exact effStageCommit_inv h
        | exact effStageAbort_inv h
        | exact effDeckSave_inv h
        | exact effDeckLoad_inv h
        | exact effCurveWrite_inv h
    · intro b s r h hr
      cases hr
      try exact h

theorem verbPort_sound {i : Instr} {v : Verb} (hv : verbPort i = some v) : v.Sound := by
  unfold verbPort at hv
  split at hv <;> cases hv
  all_goals
    constructor
    · intro b s h
      dsimp only
      with_reducible first
        | exact h
        | exact effPortCfg_inv h
        | exact effCellSidecfg_inv h
        | exact effCellIdent_inv h
        | exact effPortProbe_inv h
        | exact effRelayCfg_inv h
        | exact effFailNotify_inv h
        | exact effCounterSave_inv h
        | exact effConcealCfg_inv h
    · intro b s r h hr
      dsimp only at hr
      first
        | (cases hr; done)
        | (cases hr; exact h)
        | (cases hr; exact ansLinkStats_inv h)
        | (dsimp only [ansCellSidecfg, ansCellIdent, ansCounterSave] at hr; split at hr <;> cases hr; exact h)

theorem verbSystem_sound {i : Instr} {v : Verb} (hv : verbSystem i = some v) : v.Sound := by
  unfold verbSystem at hv
  split at hv <;> cases hv
  all_goals
    constructor
    · intro b s h
      dsimp only
      with_reducible first
        | exact h
        | exact effNvWrite_inv h
        | exact effNvErase_inv h
        | exact effNvProtect_inv h
        | exact effReserveCfg_inv h
        | exact effHarvestCfg_inv h
        | exact effLampenSet_inv h
        | exact effGpioCfg_inv h
        | exact effGpioRw_inv h
        | exact effFwBegin_inv h
        | exact effFwChunk_inv h
        | exact effFwFinish_inv h
        | exact effFwActivate_inv h
        | exact effSecSetkey_inv h
        | exact effSecLock_inv h
        | exact effSpanCfg_inv h
    · intro b s r h hr
      dsimp only at hr
      first
        | (cases hr; done)
        | (cases hr; exact h)
        | (cases hr; exact ansSecChallenge_inv h)
        | (cases hr; exact ansSpanStatus_inv h)
        | (dsimp only [ansNvProtect, ansFwChunk, ansSecLock] at hr; split at hr <;> cases hr; exact h)

/-- Every verb keeps the invariant. -/
theorem verbOf_sound {i : Instr} {v : Verb} (hv : verbOf i = some v) : v.Sound := by
  unfold verbOf at hv
  split at hv
  · rename_i h
    cases hv
    exact verbNode_sound h
  · split at hv
    · rename_i h
      cases hv
      exact verbLevel_sound h
    · split at hv
      · rename_i h
        cases hv
        exact verbDeck_sound h
      · split at hv
        · rename_i h
          cases hv
          exact verbPort_sound h
        · exact verbSystem_sound hv

/-- A timed clause that passes the checks of its time has a place in the queue (R188). -/
theorem timed_place {a : W48} {s : State} (h : timedStatus a s = stOk) : s.cl.timed.length < 64 := by
  unfold timedStatus at h
  by_contra hc
  have : decide (s.cl.timed.length ≥ Config.timedSlots) = true := by
    simp only [decide_eq_true_eq]
    exact Nat.le_of_not_lt hc
  rw [this] at h
  simp only [firstStatus, firstBad, if_true] at h
  split at h
  · simp [stRange, stOk] at h
  · exact absurd h (by assumption)

/-- A clause joins the timed queue. -/
theorem timedAdd_inv {w : Queued} {s : State} (h : s.Inv) (hl : s.cl.timed.length < 64) :
    State.Inv { s with cl.timed := s.cl.timed ++ [w] } := by
  obtain ⟨hm, ⟨hr, ho, ht, hk, hn, hi⟩, hw⟩ := h
  refine ⟨hm, ⟨hr, ho, ?_, hk, hn, hi⟩, hw⟩
  simp only [List.length_append, List.length_cons, List.length_nil]
  omega

theorem queueClause_inv {w : Queued} {s : State} (h : s.Inv)
    (hl : w.req.applyAt.isSome = true → s.cl.timed.length < 64) : (queueClause w s).Inv := by
  unfold queueClause
  split
  · rename_i ha
    exact timedAdd_inv h (hl (by rw [ha]; rfl))
  · exact h

theorem enqueueClause_inv {q : Req} {l : Layout} {s : State} (h : s.Inv) : (enqueueClause q l s).Inv := by
  have key : ∀ r : Sum (Byte × Byte × Nat) (List Instr), (q.applyAt.isSome = true → s.cl.timed.length < 64) →
      State.Inv (match r with
        | .inl bad => rejectVerb q bad (burnUpTo q bad.2.2 l.verbs s)
        | .inr is => queueClause (validNow q is s) s) := by
    intro r hl
    cases r with
    | inl bad => exact rejectVerb_inv (burnUpTo_inv h)
    | inr is => exact queueClause_inv h hl
  unfold enqueueClause
  cases ha : q.applyAt with
  | none =>
    dsimp only
    rw [if_neg (by simp)]
    exact key _ (by simp [ha])
  | some a =>
    dsimp only
    by_cases hst : timedStatus a s ≠ stOk
    · rw [if_pos hst]
      exact rejectClause_inv h
    · rw [if_neg hst]
      exact key _ fun _ => timed_place (Decidable.not_not.mp hst)

theorem takeLaid_inv {q : Req} {l : Layout} {body : List Byte} {s : State} (h : s.Inv) :
    (takeLaid q l body s).Inv := by
  unfold takeLaid
  split
  · exact rejectEarly_inv h
  · split
    · exact rejectEarly_inv h
    · split
      · exact enqueueClause_inv h
      · exact resendCached_inv h
      · exact rejectEarly_inv h
      · exact enqueueClause_inv (recordSeq_inv h)

theorem takeUp_inv {q0 : Req} {body : List Byte} {s : State} (h : s.Inv) : (takeUp q0 body s).Inv := by
  unfold takeUp
  split
  · exact h
  · dsimp only
    cases layout body with
    | inl st => exact rejectEarly_inv h
    | inr l => exact takeLaid_inv h

theorem effectsFrom_inv {q : Req} {t : W48} {id : Nat} {pre : State} {n : Nat} {l : List Instr}
    {r : State × List Due} (h : r.1.Inv) (hd : ∀ d ∈ r.2, Verb.Sound d.1) :
    (effectsFrom q t id pre n l r).1.Inv ∧ ∀ d ∈ (effectsFrom q t id pre n l r).2, Verb.Sound d.1 := by
  induction l generalizing n r with
  | nil => exact ⟨h, hd⟩
  | cons i l ih =>
    unfold effectsFrom
    split
    · exact ih h hd
    · rename_i v hv
      have hs := verbOf_sound hv
      apply ih (hs.eff _ _ h)
      intro d hm
      simp only [List.mem_append, List.mem_singleton] at hm
      rcases hm with hm | rfl
      · exact hd d hm
      · exact hs

theorem openClause_inv {q : Req} {is : List Instr} {late : Byte} {s : State} (h : s.Inv) :
    (openClause q is late s).Inv := by
  refine ⟨h.1, h.2.1, ?_, h.2.2.2⟩
  intro y hy
  simp only [openClause, List.mem_append, List.mem_singleton] at hy
  rcases hy with hy | rfl
  · exact Nat.lt_succ_of_lt (h.2.2.1 y hy)
  · exact Nat.lt_succ_self _

theorem closeClause_inv {id : Nat} {s : State} (h : s.Inv) : (closeClause id s).Inv :=
  ⟨h.1, h.2.1, fun x hx => h.2.2.1 x (List.mem_of_mem_filter hx), h.2.2.2⟩

/-- A clause takes effect: the invariant is kept, and every answer due is one of a sound verb. -/
theorem applyClause_inv {t : W48} {w : Queued} {r : State × List Due} (h : r.1.Inv) (hd : ∀ d ∈ r.2, Verb.Sound d.1) :
    (applyClause t w r).1.Inv ∧ ∀ d ∈ (applyClause t w r).2, Verb.Sound d.1 := by
  unfold applyClause
  dsimp only
  split
  · refine ⟨?_, hd⟩
    apply rejectVerb_inv
    split
    · exact burnNonce_inv h
    · exact h
  · have key := fun pre => effectsFrom_inv (q := w.req) (t := t) (id := r.1.cl.nextId) (pre := pre) (n := 0)
      (l := w.verbs) (r := (openClause w.req w.verbs (lateStatus w t r.1) r.1, r.2)) (openClause_inv h) hd
    split
    · exact ⟨finishClause_inv (closeClause_inv (restartHold_inv (key _).1)), (key _).2⟩
    · exact ⟨restartHold_inv (key _).1, (key _).2⟩

theorem answerAll_inv {l : List Due} {s : State} (h : s.Inv) (hd : ∀ d ∈ l, Verb.Sound d.1) :
    (answerAll l s).Inv := by
  unfold answerAll
  induction l generalizing s with
  | nil => exact h
  | cons d l ih =>
    rw [List.foldl_cons]
    apply ih _ fun x hx => hd x (List.mem_cons_of_mem d hx)
    split
    · rename_i s' r hr
      exact resolveNow_inv ((hd d List.mem_cons_self).ans _ _ _ h hr)
    · exact h

theorem runNow_inv {q : Req} {i : Instr} {s : State} (h : s.Inv) : (runNow q i s).Inv := by
  have h' := applyClause_inv (t := renderNow s) (w := validNow q [i] s) (r := (s, [])) h
    (by intro d hd; cases hd)
  exact answerAll_inv h'.1 h'.2

/-- The rejection of one verb that was given as a command. -/
theorem rejectOne_inv {q : Req} {i : Instr} {bad : Byte × Byte × Nat} {s : State} (h : s.Inv) :
    (rejectVerb q bad (if burnsInstr i then burnNonce q s else s)).Inv := by
  apply rejectVerb_inv
  split
  · exact burnNonce_inv h
  · exact h

theorem takeTimed_inv {q : Req} {a : W48} {i : Instr} {s : State} (h : s.Inv) : (takeTimed q a i s).Inv := by
  unfold takeTimed
  dsimp only
  split
  · exact rejectClause_inv h
  · rename_i hst
    split
    · exact rejectOne_inv h
    · split
      · exact runNow_inv h
      · exact queueClause_inv h fun _ => timed_place (Decidable.not_not.mp hst)

theorem takeUntimed_inv {q : Req} {i : Instr} {s : State} (hq : q.applyAt = none) (h : s.Inv) :
    (takeUntimed q i s).Inv := by
  unfold takeUntimed
  split
  · exact rejectOne_inv h
  · split
    · exact runNow_inv h
    · exact queueClause_inv h fun hs => by simp [validNow, hq] at hs

theorem takeVerb_inv {q : Req} {i : Instr} {s : State} (h : s.Inv) : (takeVerb q i s).Inv := by
  unfold takeVerb
  split
  · rename_i hq
    exact takeUntimed_inv hq h
  · exact takeTimed_inv h

theorem runVerb_inv {q : Req} {i : Instr} {s : State} (h : s.Inv) : (runVerb q i s).Inv := by
  unfold runVerb
  split
  · exact h
  · split
    · exact h
    · exact takeVerb_inv h

theorem releaseBlocked_inv {s : State} (h : s.Inv) : (releaseBlocked s).Inv := by
  refine foldl_inv h fun t w ht => ?_
  split
  · exact takeVerb_inv ht
  · exact ht

end Sys2Proof.Machine
end

