-- ==== Sys2Proof/Laws/InvBoundary.lean ====
section
/-!
SUPPORT. The invariant of Sys2Proof/Safety.lean, kept by the operations of
Sys2Proof/Machine/Boundary.lean: one lemma per operation.
-/
namespace Sys2Proof.Machine

theorem bootDark_inv {s : State} (h : s.Inv) : (bootDark s).Inv := h

theorem bootSceneNow_inv {t : W48} {s : State} (h : s.Inv) : (bootSceneNow t s).Inv := by
  unfold bootSceneNow
  try dsimp only [drawN, takeSeq, takeId, okAns]
  repeat' first
    | assumption
    | exact h
    | with_reducible apply applyScene_inv
    | split

theorem flipBanks_inv {t : W48} {c : Commit} {s : State} (h : s.Inv) : (flipBanks t c s).Inv :=
  resolve_inv (cutDeckSave_inv ⟨⟨h.1.1, h.1.2.2, rfl⟩, h.2⟩)

theorem flipStep_inv {t : W48} {s : State} (h : s.Inv) : (flipStep t s).Inv := by
  unfold flipStep
  try dsimp only [drawN, takeSeq, takeId, okAns]
  repeat' first
    | assumption
    | exact h
    | with_reducible apply flipBanks_inv
    | split

/-- Clauses applied one after another: the invariant and the soundness of the answers due are kept. -/
theorem applyAll_inv {t : W48} {l : List Queued} {r : State × List Due}
    (h : r.1.Inv ∧ ∀ d ∈ r.2, Verb.Sound d.1) :
    (l.foldl (fun r w => applyClause t w r) r).1.Inv ∧
      ∀ d ∈ (l.foldl (fun r w => applyClause t w r) r).2, Verb.Sound d.1 := by
  induction l generalizing r with
  | nil => exact h
  | cons w l ih => exact ih (applyClause_inv h.1 h.2)

theorem timedStep_inv {t : W48} {r : State × List Due} (h : r.1.Inv ∧ ∀ d ∈ r.2, Verb.Sound d.1) :
    (timedStep t r).1.Inv ∧ ∀ d ∈ (timedStep t r).2, Verb.Sound d.1 := by
  obtain ⟨⟨hm, ⟨hr, ho, ht, hk, hn, hi⟩, hw⟩, hd⟩ := h
  unfold timedStep
  dsimp only
  split
  · exact ⟨⟨hm, ⟨hr, ho, by simpa using ht, hk, hn, hi⟩, hw⟩, hd⟩
  · exact applyAll_inv ⟨⟨hm, ⟨hr, ho, Nat.le_trans (List.length_filter_le _ _) ht, hk, hn, hi⟩, hw⟩, hd⟩

theorem untimedStep_inv {t : W48} {r : State × List Due} (h : r.1.Inv ∧ ∀ d ∈ r.2, Verb.Sound d.1) :
    (untimedStep t r).1.Inv ∧ ∀ d ∈ (untimedStep t r).2, Verb.Sound d.1 := by
  unfold untimedStep
  dsimp only
  split
  · exact h
  · exact applyAll_inv (r := (_, _)) h

theorem sendFrames_inv {t : W48} {s : State} (h : s.Inv) : (sendFrames t s).Inv := by
  unfold sendFrames
  try dsimp only [drawN, takeSeq, takeId, okAns]
  repeat' first
    | assumption
    | exact h
    | with_reducible apply boundaryFrame_inv
    | with_reducible apply foldl_inv
    | split
    | intro _

theorem loadStep_inv {s : State} (h : s.Inv) : (loadStep s).Inv := by
  unfold loadStep
  try dsimp only [drawN, takeSeq, takeId, okAns]
  repeat' first
    | assumption
    | exact h
    | with_reducible apply loadSector_inv
    | split

theorem enterRest_inv {s : State} (h : s.Inv) : (enterRest s).Inv := h

theorem correctStep_inv {s : State} (h : s.Inv) : (correctStep s).Inv := by
  unfold correctStep
  try dsimp only [drawN, takeSeq, takeId, okAns]
  repeat' first
    | assumption
    | exact h
    | with_reducible apply raiseTime_inv
    | split

theorem openBoundary_inv {t : W48} {s : State} (h : s.Inv) : (openBoundary t s).Inv := h

theorem clauseSteps_inv {t : W48} {s : State} (h : s.Inv) :
    (clauseSteps t s).1.Inv ∧ ∀ d ∈ (clauseSteps t s).2, Verb.Sound d.1 :=
  untimedStep_inv (timedStep_inv ⟨h, fun _ hd => nomatch hd⟩)

theorem settle_inv {t : W48} {s : State} (h : s.Inv) : (settle t s).Inv := by
  have h' : State.Inv (eachPort reconfigure (commitMap t (flipStep t s))) :=
    eachPort_inv (commitMap_inv (flipStep_inv h)) fun _ _ ht => reconfigure_inv ht
  unfold settle
  generalize eachPort reconfigure (commitMap t (flipStep t s)) = x at h' ⊢
  exact h'

theorem boundaryEffects_inv {t : W48} {s : State} (h : s.Inv) : (boundaryEffects t s).Inv :=
  have hr := clauseSteps_inv (flipStep_inv (bootSceneNow_inv (openBoundary_inv h)))
  answerAll_inv (settle_inv hr.1) hr.2

theorem framesOrRest_inv {send : W48 → State → State} {t : W48} {s : State} (h : s.Inv)
    (hs : ∀ t s, State.Inv s → State.Inv (send t s)) : (framesOrRest send t s).Inv := by
  unfold framesOrRest
  split
  · exact enterRest_inv h
  · exact loadStep_inv (hs _ _ h)

theorem pulse_inv {s : State} (h : s.Inv) : (pulse s).Inv := by
  unfold pulse
  split <;> exact h

theorem boundaryWith_inv {send : W48 → State → State} {t : W48} {s : State} (h : s.Inv)
    (hs : ∀ t s, State.Inv s → State.Inv (send t s)) : (boundaryWith send t s).Inv :=
  correctStep_inv (framesOrRest_inv (pulse_inv (boundaryEffects_inv h)) hs)

theorem boundary_inv {s : State} (h : s.Inv) : (boundary s).Inv :=
  boundaryWith_inv h fun _ _ => sendFrames_inv

end Sys2Proof.Machine
end

