-- ==== Sys2Proof/Laws/InvReports.lean ====
section
/-!
SUPPORT. The invariant of Sys2Proof/Safety.lean, kept by the operations of
Sys2Proof/Machine/Reports.lean: one lemma per operation.
-/
namespace Sys2Proof.Machine

theorem makeFail_inv {s : State} (h : s.Inv) : (makeFail s).Inv := by
  unfold makeFail
  try dsimp only [drawN, takeSeq, takeId, okAns]
  repeat' first
    | assumption
    | exact h
    | with_reducible apply enterFail_inv
    | with_reducible apply markEvent_inv
    | split

theorem heldEvent_inv {e : PEvent} {s : State} (h : s.Inv) : (heldEvent e s).Inv := by
  unfold heldEvent
  try dsimp only [drawN, takeSeq, takeId, okAns]
  repeat' first
    | assumption
    | exact h
    | with_reducible apply enterEvent_inv
    | with_reducible apply markEvent_inv
    | split

theorem enterDue_inv {n : Nat} {s : State} (h : s.Inv) : (enterDue n s).Inv := by
  induction n generalizing s with
  | zero => exact h
  | succ n ih =>
    unfold enterDue
    split
    · exact ih (heldEvent_inv h)
    · exact h

theorem releaseEvents_inv {s : State} (h : s.Inv) : (releaseEvents s).Inv := by
  unfold releaseEvents
  try dsimp only [drawN, takeSeq, takeId, okAns]
  repeat' first
    | assumption
    | exact h
    | with_reducible apply settleQueues_inv
    | with_reducible apply enterDue_inv
    | with_reducible apply makeFail_inv
    | split

end Sys2Proof.Machine
end

