-- ==== Sys2Proof/Laws/InvEvSpan.lean ====
section
/-!
SUPPORT. The invariant of Sys2Proof/Safety.lean, kept by the operations of
Sys2Proof/Machine/EvSpan.lean: one lemma per operation.
-/
namespace Sys2Proof.Machine

theorem anchorStep_inv {f : RxFrame} {s : State} (h : s.Inv) : (anchorStep f s).Inv := by
  unfold anchorStep
  try dsimp only [drawN, takeSeq, takeId, okAns]
  repeat' first
    | assumption
    | exact h
    | split

theorem beginRoll_inv {x : RingSlot} {s : State} (h : s.Inv) : (beginRoll x s).Inv := by
  unfold beginRoll
  try dsimp only [drawN, takeSeq, takeId, okAns]
  repeat' first
    | assumption
    | exact h
    | split

theorem deliver_inv {f : RxFrame} {kind : MatchKind} {s : State} (h : s.Inv) : (deliver f kind s).Inv := by
  unfold deliver
  split
  · exact h
  · rename_i hc
    dsimp only
    apply beginRoll_inv
    obtain ⟨hm, ⟨hr, ho, ht, hk, hn, hi⟩, hw⟩ := h
    refine ⟨hm, ⟨?_, ho, ht, hk, hn, hi⟩, hw⟩
    have : Config.ringSlots = 16 := rfl
    simp only [List.length_append, List.length_cons, List.length_nil]
    omega

theorem closeMatched_inv {f : RxFrame} {kind : MatchKind} {s : State} (h : s.Inv) :
    (closeMatched f kind s).Inv := by
  unfold closeMatched
  try dsimp only [drawN, takeSeq, takeId, okAns]
  repeat' first
    | assumption
    | exact h
    | with_reducible apply deliver_inv
    | split

theorem busSeen_inv {rate ago : Nat} {s : State} (h : s.Inv) :
    (busSeen rate ago s).Inv := h

theorem wakeSeen_inv {dsth dstl : Byte} {s : State} (h : s.Inv) :
    (wakeSeen dsth dstl s).Inv := by
  unfold wakeSeen
  try dsimp only [drawN, takeSeq, takeId, okAns]
  repeat' first
    | assumption
    | exact h
    | with_reducible apply restartHold_inv
    | split

theorem closeFrame_inv {ago : Nat} {f : RxFrame} {s : State} (h : s.Inv) :
    (closeFrame ago f s).Inv := by
  unfold closeFrame
  try dsimp only [drawN, takeSeq, takeId, okAns]
  repeat' first
    | assumption
    | exact h
    | with_reducible apply wakeSeen_inv
    | with_reducible apply anchorStep_inv
    | with_reducible apply busSeen_inv
    | with_reducible apply closeMatched_inv
    | split

theorem startOrDefer_inv {lead : Option Nat} {s : State} (h : s.Inv) :
    (startOrDefer lead s).Inv := by
  unfold startOrDefer
  try dsimp only [drawN, takeSeq, takeId, okAns]
  repeat' first
    | assumption
    | exact h
    | with_reducible apply startNext_inv
    | split

theorem frameGone_inv {f : OutFrame} {s : State} (h : s.Inv) : (frameGone f s).Inv := by
  apply settleQueues_inv
  apply replyGone_inv
  obtain ⟨hm, ⟨hr, ho, ht, hk, hn, hi⟩, hw⟩ := h
  exact ⟨hm, ⟨hr, Nat.le_trans (by simp) ho, ht, hk, hn, hi⟩, hw⟩

theorem failDropped_inv {s : State} (h : s.Inv) : (failDropped s).Inv := h

theorem dropHead_inv {f : OutFrame} {s : State} (h : s.Inv) : (dropHead f s).Inv := by
  unfold dropHead
  try dsimp only [drawN, takeSeq, takeId, okAns]
  repeat' first
    | assumption
    | exact h
    | with_reducible apply frameGone_inv
    | with_reducible apply failDropped_inv
    | split

theorem endRoll_inv {s : State} (h : s.Inv) : (endRoll s).Inv := h

theorem endLate_inv {s : State} (h : s.Inv) :
    (endLate s).Inv := h

theorem countDrop_inv {op : Byte} {s : State} (h : s.Inv) :
    (countDrop op s).Inv := h

theorem queueFailed_inv {s : State} (h : s.Inv) :
    (queueFailed s).Inv := by
  unfold queueFailed
  try dsimp only [drawN, takeSeq, takeId, okAns]
  repeat' first
    | assumption
    | exact h
    | with_reducible apply dropHead_inv
    | with_reducible apply frameGone_inv
    | split

theorem lateFailed_inv {s : State} (h : s.Inv) :
    (lateFailed s).Inv := by
  unfold lateFailed
  try dsimp only [drawN, takeSeq, takeId, okAns]
  repeat' first
    | assumption
    | exact h
    | with_reducible apply countDrop_inv
    | with_reducible apply endLate_inv
    | split

theorem attemptFailed_inv {s : State} (h : s.Inv) :
    (attemptFailed s).Inv := by
  unfold attemptFailed
  try dsimp only [drawN, takeSeq, takeId, okAns]
  repeat' first
    | assumption
    | exact h
    | with_reducible apply queueFailed_inv
    | with_reducible apply lateFailed_inv
    | split

theorem countRetry_inv {s : State} (h : s.Inv) :
    (countRetry s).Inv := h

theorem countLoss_inv {bit : Nat} {s : State} (h : s.Inv) :
    (countLoss bit s).Inv := by
  unfold countLoss
  try dsimp only [drawN, takeSeq, takeId, okAns]
  repeat' first
    | assumption
    | exact h
    | with_reducible apply countRetry_inv
    | split

theorem queueSent_inv {s : State} (h : s.Inv) :
    (queueSent s).Inv := by
  unfold queueSent
  try dsimp only [drawN, takeSeq, takeId, okAns]
  repeat' first
    | assumption
    | exact h
    | with_reducible apply frameGone_inv
    | with_reducible apply failSent_inv
    | split

theorem lateSent_inv {s : State} (h : s.Inv) :
    (lateSent s).Inv := by
  unfold lateSent
  try dsimp only [drawN, takeSeq, takeId, okAns]
  repeat' first
    | assumption
    | exact h
    | with_reducible apply endLate_inv
    | split

theorem startSlot_inv {r : RollCall} {s : State} (h : s.Inv) :
    (startSlot r s).Inv := h

theorem openLate_inv {r : RollCall} {f : OutFrame} {s : State} (h : s.Inv) :
    (openLate r f s).Inv := h

theorem cancelSending_inv {s : State} (h : s.Inv) :
    (cancelSending s).Inv := by
  unfold cancelSending
  try dsimp only [drawN, takeSeq, takeId, okAns]
  repeat' first
    | assumption
    | exact h
    | with_reducible apply countDrop_inv
    | with_reducible apply endLate_inv
    | split

theorem cancelWaiting_inv {n : Nat} {s : State} (h : s.Inv) :
    (cancelWaiting n s).Inv := by
  unfold cancelWaiting
  try dsimp only [drawN, takeSeq, takeId, okAns]
  repeat' first
    | assumption
    | exact h
    | with_reducible apply countDrop_inv
    | with_reducible apply foldl_inv
    | split
    | intro _

theorem cancelRoll_inv {s : State} (h : s.Inv) :
    (cancelRoll s).Inv := by
  unfold cancelRoll
  try dsimp only [drawN, takeSeq, takeId, okAns]
  repeat' first
    | assumption
    | exact h
    | with_reducible apply countDrop_inv
    | with_reducible apply endRoll_inv
    | split

end Sys2Proof.Machine
end

