-- ==== Sys2Proof/Laws/InvEvClause.lean ====
section
/-!
SUPPORT. The invariant of Sys2Proof/Safety.lean, kept by the operations of
Sys2Proof/Machine/EvClause.lean: one lemma per operation.
-/
namespace Sys2Proof.Machine

theorem rollFrame_inv {r : RollCall} {s : State} (h : s.Inv) : (rollFrame r s).2.Inv := by
  unfold rollFrame
  try dsimp only [drawN, takeSeq, takeId, okAns]
  repeat' first
    | assumption
    | exact h
    | with_reducible apply takeSeq_inv
    | with_reducible apply rollRead_inv

theorem rollReady_inv {noreply : Bool} {s : State} (h : s.Inv) : (rollReady noreply s).Inv := by
  unfold rollReady
  try dsimp only [drawN, takeSeq, takeId, okAns]
  repeat' first
    | assumption
    | exact h
    | with_reducible apply rollFrame_inv
    | split

theorem takeRoll_inv {x : RingSlot} {s : State} (h : s.Inv) : (takeRoll x s).Inv := by
  unfold takeRoll
  try dsimp only [drawN, takeSeq, takeId, okAns]
  repeat' first
    | assumption
    | exact h
    | with_reducible apply takeUp_inv
    | with_reducible apply rollReady_inv
    | with_reducible apply restartHold_inv
    | with_reducible apply endRoll_inv
    | split

end Sys2Proof.Machine
end

