-- ==== Sys2Proof/Laws/InvEvSvc.lean ====
section
/-!
SUPPORT. The invariant of Sys2Proof/Safety.lean, kept by the operations of
Sys2Proof/Machine/EvSvc.lean: one lemma per operation.
-/
namespace Sys2Proof.Machine

/-- A new service image within its 249 bytes. -/
theorem image_inv {v : Svc} {s : State} (h : s.Inv) (hv : v.image.length ≤ 249) : State.Inv { s with svc := v } :=
  ⟨h.1, ⟨h.2.1.1, h.2.1.2.1, h.2.1.2.2.1, h.2.1.2.2.2.1, h.2.1.2.2.2.2.1, hv⟩, h.2.2⟩

theorem svcEdge_inv {s : State} (h : s.Inv) :
    (svcEdge s).Inv := h

theorem svcData_inv {b : Byte} {s : State} (h : s.Inv) : (svcData b s).Inv := by
  unfold svcData
  split
  · exact h
  · rename_i hc
    apply image_inv h
    simp only [Bool.or_eq_true, decide_eq_true_eq, not_or, not_le] at hc
    simp only [List.length_append, List.length_cons, List.length_nil]
    omega

theorem svcSubmit_inv {s : State} (h : s.Inv) : (svcSubmit s).Inv := by
  unfold svcSubmit
  split
  · exact h
  · split
    · exact h
    · exact image_inv h (Nat.zero_le _)

theorem svcDiscard_inv {s : State} (h : s.Inv) : (svcDiscard s).Inv := image_inv h (Nat.zero_le _)

theorem svcControl_inv {b : Byte} {s : State} (h : s.Inv) : (svcControl b s).Inv := h

theorem svcActs_inv {r b : Byte} {s : State} (h : s.Inv) :
    (svcActs r b s).Inv := by
  unfold svcActs
  try dsimp only [drawN, takeSeq, takeId, okAns]
  repeat' first
    | assumption
    | exact h
    | with_reducible apply svcData_inv
    | with_reducible apply svcSubmit_inv
    | with_reducible apply svcDiscard_inv
    | with_reducible apply svcControl_inv
    | split

theorem readStat_inv {n : Nat} {s : State} (h : s.Inv) : (readStat n s).Inv := by
  induction n generalizing s with
  | zero => exact h
  | succ n ih => exact ih h

theorem readCause_inv {n : Nat} {s : State} (h : s.Inv) : (readCause n s).Inv := by
  induction n generalizing s with
  | zero => exact h
  | succ n ih => exact ih h

theorem readPlain_inv {r : Nat} {n : Nat} {s : State} (h : s.Inv) : (readPlain r n s).Inv := h

theorem readData_inv {n : Nat} {s : State} (h : s.Inv) : (readData n s).Inv := by
  induction n generalizing s with
  | zero => exact h
  | succ n ih =>
    unfold readData
    split
    · exact ih h
    · exact ih h

theorem emptyOut_inv {s : State} (h : s.Inv) : (emptyOut s).Inv := by
  unfold emptyOut
  try dsimp only [drawN, takeSeq, takeId, okAns]
  repeat' first
    | assumption
    | exact h
    | with_reducible apply settleQueues_inv
    | with_reducible apply replyGone_inv
    | with_reducible apply failSent_inv
    | split

theorem clearErrors_inv {n : Nat} {s : State} (h : s.Inv) :
    (clearErrors n s).Inv := by
  unfold clearErrors
  try dsimp only [drawN, takeSeq, takeId, okAns]
  repeat' first
    | assumption
    | exact h
    | split

theorem svcReadData_inv {n : Nat} {s : State} (h : s.Inv) :
    (svcReadData n s).Inv := by
  unfold svcReadData
  try dsimp only [drawN, takeSeq, takeId, okAns]
  repeat' first
    | assumption
    | exact h
    | with_reducible apply emptyOut_inv
    | with_reducible apply readData_inv
    | with_reducible apply clearErrors_inv

theorem svcRead_inv {r : Byte} {n : Nat} {s : State} (h : s.Inv) :
    (svcRead r n s).Inv := by
  unfold svcRead
  try dsimp only [drawN, takeSeq, takeId, okAns]
  repeat' first
    | assumption
    | exact h
    | with_reducible apply readStat_inv
    | with_reducible apply svcReadData_inv
    | with_reducible apply readCause_inv
    | with_reducible apply readPlain_inv
    | split

theorem svcTake_inv {c : SvcChar} {s : State} (h : s.Inv) :
    (svcTake c s).Inv := by
  unfold svcTake
  try dsimp only [drawN, takeSeq, takeId, okAns]
  repeat' first
    | assumption
    | exact h
    | with_reducible apply svcActs_inv
    | with_reducible apply svcRead_inv
    | split

theorem svcTakeLate_inv {s : State} {c : SvcChar} (h : s.Inv) :
    (svcTakeLate s c).Inv := by
  unfold svcTakeLate
  try dsimp only [drawN, takeSeq, takeId, okAns]
  repeat' first
    | assumption
    | exact h
    | with_reducible apply svcTake_inv
    | split

theorem svcReplay_inv {s : State} (h : s.Inv) :
    (svcReplay s).Inv := by
  unfold svcReplay
  try dsimp only [drawN, takeSeq, takeId, okAns]
  repeat' first
    | assumption
    | exact h
    | with_reducible apply svcTakeLate_inv
    | with_reducible apply foldl_inv

theorem svcChar_inv {c : SvcChar} {s : State} (h : s.Inv) :
    (svcChar c s).Inv := by
  unfold svcChar
  try dsimp only [drawN, takeSeq, takeId, okAns]
  repeat' first
    | assumption
    | exact h
    | with_reducible apply svcEdge_inv
    | with_reducible apply svcTake_inv
    | split

theorem svcAccess_inv {a : Option Byte} {b : Byte} {s : State} (h : s.Inv) :
    (svcAccess a b s).Inv := by
  unfold svcAccess
  try dsimp only [drawN, takeSeq, takeId, okAns]
  repeat' first
    | assumption
    | exact h
    | with_reducible apply svcChar_inv
    | split

theorem svcSync_inv {valid : Bool} {rate : Nat} {s : State} (h : s.Inv) :
    (svcSync valid rate s).Inv := by
  unfold svcSync
  try dsimp only [drawN, takeSeq, takeId, okAns]
  repeat' first
    | assumption
    | exact h
    | with_reducible apply svcEdge_inv
    | with_reducible apply svcChar_inv
    | split

end Sys2Proof.Machine
end

