-- ==== Sys2Proof/Laws/InvEvNv.lean ====
section
/-!
SUPPORT. The invariant of Sys2Proof/Safety.lean, kept by the operations of
Sys2Proof/Machine/EvNv.lean: one lemma per operation.
-/
namespace Sys2Proof.Machine

theorem addOn_inv {g : Nat} {s : State} (h : s.Inv) : (addOn g s).Inv := by
  unfold addOn
  try dsimp only [drawN, takeSeq, takeId, okAns]
  repeat' first
    | assumption
    | exact h
    | split

theorem onTimePort_inv {p : Port} {s : State} (h : s.Inv) : (onTimePort p s).Inv := by
  unfold onTimePort
  try dsimp only [drawN, takeSeq, takeId, okAns]
  repeat' first
    | assumption
    | exact h
    | with_reducible apply addOn_inv
    | with_reducible apply foldl_inv
    | split
    | intro _

theorem coverCurves_inv {j : Job} {s : State} (h : s.Inv) : (coverCurves j s).Inv := by
  unfold coverCurves
  try dsimp only [drawN, takeSeq, takeId, okAns]
  repeat' first
    | assumption
    | exact h
    | split

theorem readySaves_inv {s : State} (h : s.Inv) : (readySaves s).Inv := by
  unfold readySaves
  try dsimp only [drawN, takeSeq, takeId, okAns]
  repeat' first
    | assumption
    | exact h
    | with_reducible apply readyBank_inv
    | split

theorem startOp_inv {s : State} (h : s.Inv) :
    (startOp s).Inv := by
  unfold startOp
  try dsimp only [drawN, takeSeq, takeId, okAns]
  repeat' first
    | assumption
    | exact h
    | with_reducible apply journalCheck_inv
    | with_reducible apply readySaves_inv
    | with_reducible apply coverCurves_inv
    | split

theorem endOp_inv {o : NvOp} {user ok : Bool} {s : State} (h : s.Inv) : (endOp o user ok s).Inv := by
  unfold endOp
  try dsimp only [drawN, takeSeq, takeId, okAns]
  repeat' first
    | assumption
    | exact h
    | with_reducible apply opEffect_inv
    | with_reducible apply deckSaveStep_inv
    | split

theorem loadRest_inv {n : Nat} {s : State} (h : s.Inv) : (loadRest n s).Inv := by
  induction n generalizing s with
  | zero => exact h
  | succ n ih => exact ih (loadSector_inv h)

theorem holdTimed_inv {s : State} (h : s.Inv) : (holdTimed s).Inv := by
  obtain ⟨hm, ⟨hr, ho, ht, hk, hn, hi⟩, hw⟩ := h
  exact ⟨hm, ⟨hr, ho, by simpa [holdTimed] using ht, hk, hn, hi⟩, hw⟩

theorem afterBlock_inv {s : State} (h : s.Inv) :
    (afterBlock s).Inv := by
  unfold afterBlock
  try dsimp only [drawN, takeSeq, takeId, okAns]
  repeat' first
    | assumption
    | exact h
    | with_reducible apply svcReplay_inv
    | with_reducible apply redoFail_inv
    | with_reducible apply releaseBlocked_inv
    | with_reducible apply releaseEvents_inv
    | with_reducible apply releaseHeld_inv
    | with_reducible apply holdTimed_inv

theorem endLoad_inv {l : Load} {s : State} (h : s.Inv) : (endLoad l s).Inv := by
  unfold endLoad
  try dsimp only [drawN, takeSeq, takeId, okAns]
  repeat' first
    | assumption
    | exact h
    | with_reducible apply resolve_inv
    | with_reducible apply disarm_inv
    | split

theorem endLoads_inv {s : State} (h : s.Inv) :
    (endLoads s).Inv := by
  unfold endLoads
  try dsimp only [drawN, takeSeq, takeId, okAns]
  repeat' first
    | assumption
    | exact h
    | with_reducible apply endLoad_inv
    | with_reducible apply foldl_inv
    | split
    | intro _

end Sys2Proof.Machine
end

