-- ==== Sys2Proof/Laws/InvBoot.lean ====
section
/-!
SUPPORT. The invariant of Sys2Proof/Safety.lean, kept by the operations of
Sys2Proof/Machine/Boot.lean: one lemma per operation.
-/
namespace Sys2Proof.Machine

theorem reSource_inv {s : State} (h : s.Inv) :
    (reSource s).Inv := by
  unfold reSource
  try dsimp only [drawN, takeSeq, takeId, okAns]
  repeat' first
    | assumption
    | exact h
    | split

theorem setVin_inv {v : Nat} {s : State} (h : s.Inv) :
    (setVin v s).Inv := h

theorem loseWt_inv {s : State} (h : s.Inv) : (loseWt s).Inv :=
  ⟨h.1, h.2.1, h.2.2.1, (by decide : 0 < Config.tickPs)⟩

theorem startLfxo_inv {s : State} (h : s.Inv) : (startLfxo s).Inv := h

theorem kaReset_inv {vres : Nat} {s : State} (h : s.Inv) : (kaReset vres s).Inv := by
  unfold kaReset
  try dsimp only [drawN, takeSeq, takeId, okAns]
  repeat' first
    | assumption
    | exact h
    | with_reducible apply startLfxo_inv
    | with_reducible apply loseWt_inv

theorem cutOp_inv {s : State} (h : s.Inv) : (cutOp s).Inv := by
  unfold cutOp
  try dsimp only [drawN, takeSeq, takeId, okAns]
  repeat' first
    | assumption
    | exact h
    | with_reducible apply opEffect_inv
    | with_reducible apply commitCopy_inv
    | split

theorem coreReset_inv {m : PMode} {s : State} (h : s.Inv) : (coreReset m s).Inv :=
  ⟨⟨h.1.1, rfl, rfl⟩, ⟨Nat.zero_le _, Nat.zero_le _, Nat.zero_le _, Nat.zero_le _, Nat.zero_le _, Nat.zero_le _⟩,
    (fun _ hw => absurd hw List.not_mem_nil), h.2.2.2⟩

theorem repairSector_inv {sec : Nat} {s : State} (h : s.Inv) : (repairSector sec s).Inv := by
  unfold repairSector
  try dsimp only [drawN, takeSeq, takeId, okAns]
  repeat' first
    | assumption
    | exact h
    | with_reducible apply dropCopy_inv
    | with_reducible apply nvEraseSec_inv

theorem repairJournal_inv {j : Nat} {r : State × List Nat} (h : r.1.Inv) : (repairJournal j r).1.Inv := by
  unfold repairJournal
  split
  · exact repairSector_inv h
  · exact h

theorem bootRepair_inv {s : State} (h : s.Inv) : (bootRepair s).1.Inv := by
  unfold bootRepair
  apply foldl_inv
  · exact repairJournal_inv (repairJournal_inv h)
  · intro _ _ h
    exact repairSector_inv h

/-- A security state with no nonces. -/
theorem sec_inv {x : Security} {s : State} (h : s.Inv) (hx : x.nonces.length ≤ 4) : State.Inv { s with sec := x } :=
  ⟨h.1, ⟨h.2.1.1, h.2.1.2.1, h.2.1.2.2.1, h.2.1.2.2.2.1, hx, h.2.1.2.2.2.2.2⟩, h.2.2⟩

theorem loadSec_inv {s : State} (h : s.Inv) : (loadSec s).Inv := by
  unfold loadSec
  split
  · exact sec_inv h (Nat.zero_le _)
  · exact sec_inv h (Nat.zero_le _)

theorem allOps_inv {j : Job} {l : List NvOp} {s : State} (h : s.Inv) : (allOps j l s).Inv :=
  foldl_inv h fun _ _ => opEffect_inv

theorem firstRecord_inv {j : Job} {s : State} (h : s.Inv) : (firstRecord j s).Inv := by
  have h' := fun l => allOps_inv (j := j) (l := l) h
  unfold firstRecord
  split
  · with_reducible exact h' _
  · exact h

theorem switchNow_inv {j : Job} {s : State} (h : s.Inv) : (switchNow j s).Inv := by
  have h' := fun l => allOps_inv (j := j) (l := l) h
  unfold switchNow
  dsimp only
  split
  · with_reducible exact h' _
  · exact h

theorem bootOps_inv {j : Job} {l : List NvOp} {s : State} (h : s.Inv) : (bootOps j l s).Inv := by
  fun_induction bootOps j l s with
  | case1 => exact h
  | case2 _ _ _ _ _ x ih =>
    have h' : x.Inv := switchNow_inv (firstRecord_inv h)
    apply ih
    split
    · exact allOps_inv h'
    · exact h'
  | case3 _ _ _ _ ih => exact ih (opEffect_inv h)

theorem clearFreset_inv {s : State} (h : s.Inv) : (clearFreset s).Inv := h

theorem completeReset_inv {noted : List Nat} {s : State} (h : s.Inv) : (completeReset noted s).Inv :=
  clearFreset_inv (bootOps_inv (bootOps_inv (bootOps_inv h)))

theorem selectImage_inv {s : State} (h : s.Inv) : (selectImage s).1.Inv := by
  unfold selectImage
  try dsimp only [drawN, takeSeq, takeId, okAns]
  repeat' first
    | assumption
    | exact h
    | with_reducible apply nvProgram_inv
    | split

theorem bootImage_inv {s : State} (h : s.Inv) : (bootImage s).Inv := by
  unfold bootImage
  try dsimp only [drawN, takeSeq, takeId, okAns]
  repeat' first
    | assumption
    | exact h
    | with_reducible apply selectImage_inv
    | with_reducible apply commitSec_inv
    | with_reducible apply foldl_inv
    | split
    | intro _

theorem loadConfig_inv {b : BootIn} {s : State} (h : s.Inv) : (loadConfig b s).Inv := h

/-- The active deck replaced by one in its canonical form. -/
theorem active_inv {m : Memory} {s : State} (h : s.Inv) (hm : Memory.deckWf m = true) :
    State.Inv { s with rd.active := m } := ⟨⟨h.1.1, hm, h.1.2.2⟩, h.2⟩

theorem loadDeck_inv {s : State} (h : s.Inv) : (loadDeck s).Inv := by
  unfold loadDeck
  split
  · rename_i a _
    generalize nvBytesAt s (areaBase a) 98304 = l
    split
    · exact active_inv h (deckPut_wf _ _ _ rfl)
    · exact h
  · exact h

theorem loadCurveSector_inv {s : State} {sec : Nat} (h : s.Inv) : (loadCurveSector s sec).Inv := by
  unfold loadCurveSector
  try dsimp only [drawN, takeSeq, takeId, okAns]
  repeat' first
    | assumption
    | exact h
    | with_reducible apply foldl_inv
    | split
    | intro _

theorem takeRecord_inv {r : List Byte} {s : State} (h : s.Inv) : (takeRecord r s).Inv := h

theorem loadRecord_inv {s : State} (h : s.Inv) : (loadRecord s).Inv := by
  unfold loadRecord
  split
  · exact takeRecord_inv h
  · exact h

theorem markCounters_inv {cause : Byte} {cut : Bool} {s : State} (h : s.Inv) : (markCounters cause cut s).Inv := h

theorem loadCounters_inv {cause : Byte} {s : State} (h : s.Inv) : (loadCounters cause s).Inv := by
  unfold loadCounters
  dsimp only
  split
  · exact markCounters_inv (loadRecord_inv h)
  · exact addJob_inv (markCounters_inv (loadRecord_inv h))

theorem takePortCfg_inv {s : State} (h : s.Inv) : (takePortCfg s).Inv := by
  have h' := upPorts_inv (f := fun p x => { x with cfg := s.cfg.ports.get p, side := s.cfg.side.get p }) h
  unfold takePortCfg
  generalize upPorts _ s = x at h' ⊢
  exact h'

theorem bootRelay_inv {s : State} (h : s.Inv) : (bootRelay s).Inv := h

theorem bootReset_inv {chains : BitVec 4} {p : Port} {s : State} (h : s.Inv) :
    (bootReset chains p s).Inv := by
  unfold bootReset
  try dsimp only [drawN, takeSeq, takeId, okAns]
  repeat' first
    | assumption
    | exact h
    | with_reducible apply presence_inv
    | with_reducible apply beginItem_inv
    | split

theorem bootPorts_inv {chains : BitVec 4} {s : State} (h : s.Inv) : (bootPorts chains s).Inv := by
  have h' := eachPort_inv (f := restartPort) (takePortCfg_inv h) fun _ _ h => restartPort_inv h
  unfold bootPorts
  dsimp only
  generalize eachPort restartPort (takePortCfg s) = x at h' ⊢
  refine eachPort_inv ?_ fun _ _ => bootReset_inv
  split
  · exact bootRelay_inv h'
  · exact h'

theorem tellOnRun_inv {s : State} (h : s.Inv) : (tellOnRun s).Inv := by
  unfold tellOnRun
  try dsimp only [drawN, takeSeq, takeId, okAns]
  repeat' first
    | assumption
    | exact h
    | with_reducible apply raisePower_inv
    | with_reducible apply raiseTime_inv
    | split

theorem timeAfterBoot_inv {s : State} (h : s.Inv) :
    (timeAfterBoot s).Inv := h

theorem bootReady_inv {s : State} (h : s.Inv) :
    (bootReady s).Inv := by
  unfold bootReady
  try dsimp only [drawN, takeSeq, takeId, okAns]
  repeat' first
    | assumption
    | exact h
    | with_reducible apply restartHold_inv
    | with_reducible apply raise_inv
    | with_reducible apply raiseTime_inv
    | with_reducible apply timeAfterBoot_inv
    | with_reducible apply tellOnRun_inv
    | split

theorem bootInputs_inv {b : BootIn} {s : State} (h : s.Inv) : (bootInputs b s).Inv := by
  have h' := elapse_inv (dt := b.took) h
  unfold bootInputs
  generalize elapse b.took s = x at h' ⊢
  exact h'

theorem noteRepairs_inv {l : List Nat} {s : State} (h : s.Inv) : (noteRepairs l s).Inv := h

theorem bootStore_inv {s : State} (h : s.Inv) : (bootStore s).Inv := by
  have h' := bootRepair_inv h
  unfold bootStore
  generalize bootRepair s = r at h' ⊢
  have h'' := noteRepairs_inv (l := r.2) (loadSec_inv h')
  dsimp only
  generalize noteRepairs r.2 (loadSec r.1) = x at h'' ⊢
  split
  · exact completeReset_inv h''
  · exact h''

theorem bootRest_inv {b : BootIn} {s : State} (h : s.Inv) : (bootRest b s).Inv := by
  have h' : State.Inv (curveSectors.foldl loadCurveSector (loadDeck (reSource (loadConfig b s)))) :=
    foldl_inv (loadDeck_inv (reSource_inv (loadConfig_inv h))) fun _ _ h => loadCurveSector_inv h
  unfold bootRest
  dsimp only
  generalize curveSectors.foldl loadCurveSector (loadDeck (reSource (loadConfig b s))) = x at h' ⊢
  exact bootReady_inv (journalCheck_inv (bootPorts_inv (loadCounters_inv h')))

theorem bootAbandoned_inv {b : BootIn} {s : State} (h : s.Inv) :
    (bootAbandoned b s).Inv := h

theorem lfxoBack_inv {b : BootIn} {s : State} (h : s.Inv) : (lfxoBack b s).Inv := by
  unfold lfxoBack
  try dsimp only [drawN, takeSeq, takeId, okAns]
  repeat' first
    | assumption
    | exact h
    | split

theorem bootStart_inv {cause : Byte} {b : BootIn} {s : State} (h : s.Inv) : (bootStart cause b s).Inv := by
  have h' := coreReset_inv (m := .bootWait) (cutOp_inv h)
  unfold bootStart
  dsimp only
  generalize coreReset .bootWait (cutOp s) = x at h' ⊢
  exact lfxoBack_inv h'

theorem halt_inv {s : State} (h : s.Inv) : (halt s).Inv := h

end Sys2Proof.Machine
end

