-- ==== Sys2Proof/Laws/InvEvPower.lean ====
section
/-!
SUPPORT. The invariant of Sys2Proof/Safety.lean, kept by the operations of
Sys2Proof/Machine/EvPower.lean: one lemma per operation.
-/
namespace Sys2Proof.Machine

theorem unready_inv {s : State} (h : s.Inv) : (unready s).Inv := h

theorem startFosc_inv {s : State} (h : s.Inv) :
    (startFosc s).Inv := h

theorem spanWake_inv {s : State} (h : s.Inv) :
    (spanWake s).Inv := h

theorem wakePorts_inv {s : State} (h : s.Inv) : (wakePorts s).Inv := by
  have h' : ∀ (c : Bool) (y : Power),
      State.Inv (eachPort restartPort (if c then unready { s with pw := y } else { s with pw := y })) := by
    intro c y
    refine eachPort_inv ?_ fun _ _ => restartPort_inv
    split
    · exact unready_inv (s := { s with pw := y }) h
    · exact h
  unfold wakePorts
  dsimp only
  split
  · with_reducible exact raisePower_inv (h' _ _)
  · with_reducible exact h' _ _

theorem leaveRest_inv {s : State} (h : s.Inv) :
    (leaveRest s).Inv := by
  unfold leaveRest
  try dsimp only [drawN, takeSeq, takeId, okAns]
  repeat' first
    | assumption
    | exact h
    | with_reducible apply spanWake_inv
    | with_reducible apply startFosc_inv
    | with_reducible apply tellOnRun_inv
    | with_reducible apply wakePorts_inv

theorem svcWoken_inv {rate : Nat} {s : State} (h : s.Inv) :
    (svcWoken rate s).Inv := by
  unfold svcWoken
  try dsimp only [drawN, takeSeq, takeId, okAns]
  repeat' first
    | assumption
    | exact h
    | with_reducible apply leaveRest_inv

theorem keepFrame_inv {p : Port} {s : State} (h : s.Inv) : (keepFrame p s).Inv := by
  unfold keepFrame
  try dsimp only [drawN, takeSeq, takeId, okAns]
  repeat' first
    | assumption
    | exact h
    | with_reducible apply upPort_inv
    | with_reducible apply sendForward_inv
    | split

theorem saveMeetsOp_inv {s : State} (h : s.Inv) : (saveMeetsOp s).Inv := by
  unfold saveMeetsOp
  try dsimp only [drawN, takeSeq, takeId, okAns]
  repeat' first
    | assumption
    | exact h
    | with_reducible apply cutOp_inv
    | with_reducible apply opEffect_inv
    | split

theorem enterSave_inv {vin vresLoaded : Nat} {s : State} (h : s.Inv) :
    (enterSave vin vresLoaded s).Inv := by
  unfold enterSave
  try dsimp only [drawN, takeSeq, takeId, okAns]
  repeat' first
    | assumption
    | exact h
    | with_reducible apply startFosc_inv
    | with_reducible apply saveMeetsOp_inv

theorem writeBank_inv {b : Bool} {n : Nat} {s : State} (h : s.Inv) : (writeBank b n s).Inv :=
  foldl_inv h fun _ _ ht => nvProgram_inv ht

theorem clearMark_inv {s : State} (h : s.Inv) : (clearMark s).Inv := h

theorem writeSave_inv {s : State} (h : s.Inv) : (writeSave s).Inv := by
  unfold writeSave
  split
  · exact clearMark_inv (writeCounters_inv (writeBank_inv h))
  · split
    · exact clearMark_inv (writeCounters_inv h)
    · exact h

theorem cutAfter_inv {n : Nat} {b : Bool} {s : State} (h : s.Inv) : (cutAfter n b s).Inv := by
  unfold cutAfter
  split
  · exact tornRec_inv h
  · exact spend_inv (nvProgram_inv h)

theorem cutSave_inv {s : State} (h : s.Inv) : (cutSave s).Inv := by
  unfold cutSave
  split
  · exact cutAfter_inv (writeBank_inv h)
  · split
    · exact tornRec_inv h
    · exact h

theorem enterHoldover_inv {vin vres : Nat} {s : State} (h : s.Inv) :
    (enterHoldover vin vres s).Inv := by
  unfold enterHoldover
  try dsimp only [drawN, takeSeq, takeId, okAns]
  repeat' first
    | assumption
    | exact h
    | with_reducible apply setVin_inv
    | with_reducible apply coreReset_inv
    | with_reducible apply reSource_inv

theorem endDark_inv {vres : Nat} {s : State} (h : s.Inv) :
    (endDark vres s).Inv := by
  unfold endDark
  try dsimp only [drawN, takeSeq, takeId, okAns]
  repeat' first
    | assumption
    | exact h
    | with_reducible apply kaReset_inv

theorem latch_inv {s : State} (h : s.Inv) : (latch s).Inv := h

theorem tempCheck_inv {t8 : Int} {s : State} (h : s.Inv) : (tempCheck t8 s).Inv := by
  unfold tempCheck
  try dsimp only [drawN, takeSeq, takeId, okAns]
  repeat' first
    | assumption
    | exact h
    | split

theorem hardCut_inv {vres : Nat} {s : State} (h : s.Inv) : (hardCut vres s).Inv := by
  unfold hardCut
  try dsimp only [drawN, takeSeq, takeId, okAns]
  repeat' first
    | assumption
    | exact h
    | with_reducible apply latch_inv
    | split

theorem hardEnd_inv {vres : Nat} {s : State} (h : s.Inv) : (hardEnd vres s).Inv := by
  unfold hardEnd
  try dsimp only [drawN, takeSeq, takeId, okAns]
  repeat' first
    | assumption
    | exact h
    | split

theorem belowStep_inv {s : State} (h : s.Inv) : (belowStep s).Inv := by
  unfold belowStep
  try dsimp only [drawN, takeSeq, takeId, okAns]
  repeat' first
    | assumption
    | exact h
    | split

theorem reconnect_inv {s : State} (h : s.Inv) :
    (reconnect s).Inv := by
  unfold reconnect
  try dsimp only [drawN, takeSeq, takeId, okAns]
  repeat' first
    | assumption
    | exact h
    | with_reducible apply reSource_inv
    | with_reducible apply endDark_inv
    | split

theorem darkWindow_inv {s : State} (h : s.Inv) :
    (darkWindow s).Inv := by
  unfold darkWindow
  try dsimp only [drawN, takeSeq, takeId, okAns]
  repeat' first
    | assumption
    | exact h
    | with_reducible apply reSource_inv
    | with_reducible apply reconnect_inv

theorem litWindow_inv {t8 : Int} {s : State} (h : s.Inv) :
    (litWindow t8 s).Inv := by
  unfold litWindow
  try dsimp only [drawN, takeSeq, takeId, okAns]
  repeat' first
    | assumption
    | exact h
    | with_reducible apply belowStep_inv
    | with_reducible apply hardEnd_inv
    | with_reducible apply hardCut_inv
    | with_reducible apply reSource_inv
    | with_reducible apply tempCheck_inv
    | split

theorem darkCut_inv {s : State} (h : s.Inv) :
    (darkCut s).Inv := by
  unfold darkCut
  try dsimp only [drawN, takeSeq, takeId, okAns]
  repeat' first
    | assumption
    | exact h
    | with_reducible apply reSource_inv
    | with_reducible apply loseWt_inv

theorem setVio_inv {v : Nat} {s : State} (h : s.Inv) :
    (setVio v s).Inv := h

theorem thermalFlag_inv {s : State} (h : s.Inv) : (thermalFlag s).Inv := by
  unfold thermalFlag
  try dsimp only [drawN, takeSeq, takeId, okAns]
  repeat' first
    | assumption
    | exact h
    | with_reducible apply raisePower_inv
    | split

theorem thermalFreeze_inv {s : State} (h : s.Inv) : (thermalFreeze s).Inv := by
  unfold thermalFreeze
  try dsimp only [drawN, takeSeq, takeId, okAns]
  repeat' first
    | assumption
    | exact h
    | with_reducible apply raisePower_inv
    | split

end Sys2Proof.Machine
end

