-- ==== Sys2Proof/Laws/InvEvString.lean ====
section
/-!
SUPPORT. The invariant of Sys2Proof/Safety.lean, kept by the operations of
Sys2Proof/Machine/EvString.lean: one lemma per operation.
-/
namespace Sys2Proof.Machine

theorem countTol_inv {p : Port} {n : Nat} {s : State} (h : s.Inv) : (countTol p n s).Inv := h

theorem endCollection_inv {p : Port} {s : State} (h : s.Inv) :
    (endCollection p s).Inv := h

theorem lostReturn_inv {p : Port} {a : Await} {s : State} (h : s.Inv) : (lostReturn p a s).Inv := by
  unfold lostReturn
  try dsimp only [drawN, takeSeq, takeId, okAns]
  repeat' first
    | assumption
    | exact h
    | with_reducible apply upPort_inv
    | with_reducible apply evidenceIfOk_inv
    | split

theorem returnEvidence_inv {p : Port} {a : Await} {s : State} (h : s.Inv) :
    (returnEvidence p a s).Inv := by
  unfold returnEvidence
  try dsimp only [drawN, takeSeq, takeId, okAns]
  repeat' first
    | assumption
    | exact h
    | with_reducible apply evidenceIfOk_inv
    | split

theorem goodReturn_inv {p : Port} {a : Await} {ws : List W12} {s : State} (h : s.Inv) :
    (goodReturn p a ws s).Inv := by
  unfold goodReturn
  try dsimp only [drawN, takeSeq, takeId, okAns]
  repeat' first
    | assumption
    | exact h
    | with_reducible apply returnEnded_inv
    | with_reducible apply upPort_inv
    | with_reducible apply returnEvidence_inv
    | with_reducible apply observations_inv
    | with_reducible apply addItem_inv
    | split

theorem takeReturn_inv {p : Port} {r : Return} {s : State} (h : s.Inv) : (takeReturn p r s).Inv := by
  unfold takeReturn
  try dsimp only [drawN, takeSeq, takeId, okAns]
  repeat' first
    | assumption
    | exact h
    | with_reducible apply countTol_inv
    | with_reducible apply markReady_inv
    | with_reducible apply goodReturn_inv
    | with_reducible apply lostReturn_inv
    | split

theorem endItem_inv {p : Port} {gap : Nat} {s : State} (h : s.Inv) : (endItem p gap s).Inv := h

theorem statusAnswer_inv {p : Port} {ws : List W12} {s : State} (h : s.Inv) : (statusAnswer p ws s).Inv := by
  unfold statusAnswer
  try dsimp only [drawN, takeSeq, takeId, okAns]
  repeat' first
    | assumption
    | exact h
    | with_reducible apply upPort_inv
    | with_reducible apply observations_inv
    | with_reducible apply evidenceIfOk_inv

theorem serveIdents_inv {p : Port} {words : PortState} {s : State} (h : s.Inv) : (serveIdents p words s).Inv := by
  unfold serveIdents
  try dsimp only [drawN, takeSeq, takeId, okAns]
  repeat' first
    | assumption
    | exact h
    | with_reducible apply resolve_inv
    | with_reducible apply upPort_inv
    | with_reducible apply foldl_inv
    | split
    | intro _

theorem identAnswer_inv {p : Port} {ws : Option (List W64)} {s : State} (h : s.Inv) : (identAnswer p ws s).Inv := by
  unfold identAnswer
  try dsimp only [drawN, takeSeq, takeId, okAns]
  repeat' first
    | assumption
    | exact h
    | with_reducible apply upPort_inv
    | with_reducible apply serveIdents_inv
    | split

theorem censusRetry_inv {p : Port} {s : State} (h : s.Inv) : (censusRetry p s).Inv := by
  unfold censusRetry
  try dsimp only [drawN, takeSeq, takeId, okAns]
  repeat' first
    | assumption
    | exact h
    | with_reducible apply probeOutcome_inv
    | with_reducible apply addItem_inv
    | with_reducible apply upPort_inv
    | split

theorem itemAnswer_inv {p : Port} {m : Maint} {r : Return} {ok : Bool} {s : State} (h : s.Inv) :
    (itemAnswer p m r ok s).Inv := by
  unfold itemAnswer
  try dsimp only [drawN, takeSeq, takeId, okAns]
  repeat' first
    | assumption
    | exact h
    | with_reducible apply statusAnswer_inv
    | with_reducible apply evidenceIfOk_inv
    | with_reducible apply probeOutcome_inv
    | with_reducible apply censusRetry_inv
    | with_reducible apply identAnswer_inv
    | split

theorem answerEnds_inv {p : Port} {m : Maint} {released : Nat} {r : Return} {s : State} (h : s.Inv) :
    (answerEnds p m released r s).Inv := by
  unfold answerEnds
  try dsimp only [drawN, takeSeq, takeId, okAns]
  repeat' first
    | assumption
    | exact h
    | with_reducible apply itemAnswer_inv

theorem discardEnds_inv {p : Port} {s : State} (h : s.Inv) :
    (discardEnds p s).Inv := h

theorem itemSilent_inv {p : Port} {m : Maint} {s : State} (h : s.Inv) : (itemSilent p m s).Inv := by
  unfold itemSilent
  try dsimp only [drawN, takeSeq, takeId, okAns]
  repeat' first
    | assumption
    | exact h
    | with_reducible apply evidenceIfOk_inv
    | with_reducible apply probeOutcome_inv
    | with_reducible apply identAnswer_inv
    | split

theorem noPreamble_inv {p : Port} {m : Maint} {released : Nat} {s : State} (h : s.Inv) :
    (noPreamble p m released s).Inv := by
  unfold noPreamble
  try dsimp only [drawN, takeSeq, takeId, okAns]
  repeat' first
    | assumption
    | exact h
    | with_reducible apply itemSilent_inv
    | with_reducible apply endItem_inv
    | split

theorem itemDiscarded_inv {p : Port} {m : Maint} {s : State} (h : s.Inv) :
    (itemDiscarded p m s).Inv := by
  unfold itemDiscarded
  try dsimp only [drawN, takeSeq, takeId, okAns]
  repeat' first
    | assumption
    | exact h
    | with_reducible apply censusRetry_inv
    | with_reducible apply itemSilent_inv
    | split

theorem noHeader_inv {p : Port} {m : Maint} {released : Nat} {s : State} (h : s.Inv) :
    (noHeader p m released s).Inv := by
  unfold noHeader
  try dsimp only [drawN, takeSeq, takeId, okAns]
  repeat' first
    | assumption
    | exact h
    | with_reducible apply itemDiscarded_inv
    | with_reducible apply upPort_inv
    | with_reducible apply endItem_inv
    | split

theorem periodicPort_inv {p : Port} {s : State} (h : s.Inv) : (periodicPort p s).Inv := by
  unfold periodicPort
  try dsimp only [drawN, takeSeq, takeId, okAns]
  repeat' first
    | assumption
    | exact h
    | with_reducible apply wantReset_inv
    | with_reducible apply addItem_inv
    | split

end Sys2Proof.Machine
end

