-- ==== Sys2Proof/Laws/InvEvRelay.lean ====
section
/-!
SUPPORT. The invariant of Sys2Proof/Safety.lean, kept by the operations of
Sys2Proof/Machine/EvRelay.lean: one lemma per operation.
-/
namespace Sys2Proof.Machine

theorem relayRates_inv {f : RelayIn} {s : State} (h : s.Inv) : (relayRates f s).Inv := upPorts_inv h

theorem relayPort_inv {f : RelayIn} {s : State} {e : Port × List (List Nat)} (h : s.Inv) :
    (relayPort f s e).Inv := by
  unfold relayPort
  try dsimp only [drawN, takeSeq, takeId, okAns]
  repeat' first
    | assumption
    | exact h
    | with_reducible apply countSkip_inv
    | with_reducible apply markReady_inv
    | with_reducible apply emitFrame_inv
    | split

theorem relayFrames_inv {f : RelayIn} {t : W48} {s : State} (h : s.Inv) : (relayFrames f t s).Inv := by
  have h' : State.Inv (relayRates f s) := relayRates_inv h
  unfold relayFrames
  dsimp only
  generalize relayRates f s = x at h' ⊢
  generalize relaySent t x = l
  split
  · exact h
  · exact foldl_inv h' fun _ _ h => relayPort_inv h

theorem cutPort_inv {f : RelayIn} {s : State} {p : Port} (h : s.Inv) :
    (cutPort f s p).Inv := by
  unfold cutPort
  try dsimp only [drawN, takeSeq, takeId, okAns]
  repeat' first
    | assumption
    | exact h
    | with_reducible apply upPort_inv
    | split

theorem cutDerived_inv {f : RelayIn} {s : State} (h : s.Inv) :
    (cutDerived f s).Inv := by
  unfold cutDerived
  try dsimp only [drawN, takeSeq, takeId, okAns]
  repeat' first
    | assumption
    | exact h
    | with_reducible apply cutPort_inv
    | with_reducible apply foldl_inv
    | split

theorem forwardInput_inv {f : RelayIn} {s : State} (h : s.Inv) : (forwardInput f s).Inv := by
  unfold forwardInput
  try dsimp only [drawN, takeSeq, takeId, okAns]
  repeat' first
    | assumption
    | exact h
    | split

theorem forwardCut_inv {f : RelayIn} {s : State} (h : s.Inv) :
    (forwardCut f s).Inv := h

theorem headerSeen_inv {s : State} (h : s.Inv) :
    (headerSeen s).Inv := h

theorem takeInput_inv {f : RelayIn} {s : State} (h : s.Inv) : (takeInput f s).Inv := by
  unfold takeInput
  try dsimp only [drawN, takeSeq, takeId, okAns]
  repeat' first
    | assumption
    | exact h
    | with_reducible apply raisePort_inv
    | with_reducible apply markReady_inv
    | split

theorem relayHeader_inv {f : RelayIn} {s : State} (h : s.Inv) :
    (relayHeader f s).Inv := by
  unfold relayHeader
  try dsimp only [drawN, takeSeq, takeId, okAns]
  repeat' first
    | assumption
    | exact h
    | with_reducible apply takeInput_inv
    | with_reducible apply forwardInput_inv
    | with_reducible apply boundaryWith_inv
    | with_reducible apply relayFrames_inv
    | split

theorem passLow_inv {width : Nat} {s : State} (h : s.Inv) :
    (passLow width s).Inv := by
  unfold passLow
  try dsimp only [drawN, takeSeq, takeId, okAns]
  repeat' first
    | assumption
    | exact h
    | with_reducible apply spend_inv
    | split

theorem relayKeepPort_inv {s : State} {p : Port} (h : s.Inv) : (relayKeepPort s p).Inv := by
  unfold relayKeepPort
  try dsimp only [drawN, takeSeq, takeId, okAns]
  repeat' first
    | assumption
    | exact h
    | with_reducible apply sendForward_inv
    | split

end Sys2Proof.Machine
end

