-- ==== Sys2Proof/Laws/InvEvReports.lean ====
section
/-!
SUPPORT. The invariant of Sys2Proof/Safety.lean, kept by the operations of
Sys2Proof/Machine/EvReports.lean: one lemma per operation.
-/
namespace Sys2Proof.Machine

theorem endVerify_inv {v : Verify} {s : State} (h : s.Inv) : (endVerify v s).Inv := by
  unfold endVerify
  try dsimp only [drawN, takeSeq, takeId, okAns]
  repeat' first
    | assumption
    | exact h
    | with_reducible apply resolve_inv
    | with_reducible apply commitSec_inv

end Sys2Proof.Machine
end

