-- ==== Sys2Proof/Laws/InvExec.lean ====
section
/-!
SUPPORT. Every event command keeps the invariant of Sys2Proof/Safety.lean.
-/
namespace Sys2Proof.Machine

/-- Whatever next state an outcome answers has the invariant. -/
def Keeps (o : Host.Outcome State Fault Refusal) : Prop := ∀ t, o = .next t → State.Inv t

theorem keeps_go {s : State} (h : s.Inv) : Keeps (go s) := by
  intro t ht
  cases ht
  exact h

theorem keeps_refused {r : Refusal} : Keeps (.refused r) := by
  intro t ht
  cases ht

/-- The oldest ring slot is taken. -/
theorem ring_tail_inv {x : RingSlot} {t : List RingSlot} {s : State} (h : s.Inv) (hr : s.span.ring = x :: t) :
    State.Inv { s with span.ring := t } := by
  obtain ⟨hm, ⟨h1, ho, ht, hk, hn, hi⟩, hw⟩ := h
  rw [hr] at h1
  exact ⟨hm, ⟨Nat.le_of_succ_le h1, ho, ht, hk, hn, hi⟩, hw⟩

theorem execSpanlineFrameClose_keeps {dt : Nat} {f : RxFrame} {s : State} (h : s.Inv) :
    Keeps (execSpanlineFrameClose dt f s) := by
  have h' := elapse_inv (dt := dt) h
  unfold execSpanlineFrameClose
  generalize elapse dt s = x at h' ⊢
  exact keeps_go (closeFrame_inv h')

theorem execReceiveTimeout_keeps {dt : Nat} {f : RxFrame} {s : State} (h : s.Inv) :
    Keeps (execReceiveTimeout dt f s) := by
  have h' := elapse_inv (dt := dt) h
  unfold execReceiveTimeout
  generalize elapse dt s = x at h' ⊢
  exact keeps_go (closeFrame_inv h')

theorem execWakeBandTraffic_keeps {dt rate : Nat} {dsth dstl : Byte} {s : State} (h : s.Inv) :
    Keeps (execWakeBandTraffic dt rate dsth dstl s) := by
  have h' := elapse_inv (dt := dt) h
  unfold execWakeBandTraffic
  dsimp only
  generalize elapse dt s = x at h' ⊢
  apply keeps_go
  split
  · exact wakeSeen_inv h'
  · exact h'

theorem execBusIdle_keeps {dt : Nat} {lead : Option Nat} {s : State} (h : s.Inv) :
    Keeps (execBusIdle dt lead s) := by
  unfold execBusIdle
  try dsimp only [drawN, takeSeq, takeId, okAns]
  have h' := elapse_inv (dt := dt) h
  generalize elapse dt s = x at h' ⊢
  repeat' first
    | assumption
    | exact h'
    | with_reducible apply keeps_go
    | with_reducible exact keeps_refused
    | with_reducible apply startOrDefer_inv
    | split

theorem execWakeHoldoffExpiry_keeps {dt : Nat} {lead : Option Nat} {s : State} (h : s.Inv) :
    Keeps (execWakeHoldoffExpiry dt lead s) := by
  unfold execWakeHoldoffExpiry
  try dsimp only [drawN, takeSeq, takeId, okAns]
  have h' := elapse_inv (dt := dt) h
  generalize elapse dt s = x at h' ⊢
  repeat' first
    | assumption
    | exact h'
    | with_reducible apply keeps_go
    | with_reducible exact keeps_refused
    | with_reducible apply startOrDefer_inv
    | split

theorem execArbitrationLoss_keeps {dt : Nat} {bit : Nat} {s : State} (h : s.Inv) :
    Keeps (execArbitrationLoss dt bit s) := by
  unfold execArbitrationLoss
  try dsimp only [drawN, takeSeq, takeId, okAns]
  have h' := elapse_inv (dt := dt) h
  generalize elapse dt s = x at h' ⊢
  repeat' first
    | assumption
    | exact h'
    | with_reducible apply keeps_go
    | with_reducible exact keeps_refused
    | with_reducible apply attemptFailed_inv
    | with_reducible apply countLoss_inv
    | split

theorem execTransmitFault_keeps {dt : Nat} {bit : Nat} {s : State} (h : s.Inv) :
    Keeps (execTransmitFault dt bit s) := by
  unfold execTransmitFault
  try dsimp only [drawN]
  have h' := elapse_inv (dt := dt) h
  generalize elapse dt s = x at h' ⊢
  repeat' first
    | assumption
    | exact h'
    | with_reducible apply keeps_go
    | with_reducible apply attemptFailed_inv
    | split

theorem execFrameSent_keeps {dt : Nat} {s : State} (h : s.Inv) :
    Keeps (execFrameSent dt s) := by
  unfold execFrameSent
  try dsimp only [drawN, takeSeq, takeId, okAns]
  have h' := elapse_inv (dt := dt) h
  generalize elapse dt s = x at h' ⊢
  repeat' first
    | assumption
    | exact h'
    | with_reducible apply keeps_go
    | with_reducible exact keeps_refused
    | with_reducible apply queueSent_inv
    | with_reducible apply lateSent_inv
    | split

theorem execSlotReplyStart_keeps {dt : Nat} {busy recessive edge : Bool} {s : State} (h : s.Inv) :
    Keeps (execSlotReplyStart dt busy recessive edge s) := by
  unfold execSlotReplyStart
  try dsimp only [drawN, takeSeq, takeId, okAns]
  have h' := elapse_inv (dt := dt) h
  generalize elapse dt s = x at h' ⊢
  repeat' first
    | assumption
    | exact h'
    | with_reducible apply keeps_go
    | with_reducible exact keeps_refused
    | with_reducible apply startSlot_inv
    | split

theorem execLateWindowOpen_keeps {dt : Nat} {s : State} (h : s.Inv) :
    Keeps (execLateWindowOpen dt s) := by
  unfold execLateWindowOpen
  try dsimp only [drawN, takeSeq, takeId, okAns]
  have h' := elapse_inv (dt := dt) h
  generalize elapse dt s = x at h' ⊢
  repeat' first
    | assumption
    | exact h'
    | with_reducible apply keeps_go
    | with_reducible exact keeps_refused
    | with_reducible apply sendIdle_inv
    | with_reducible apply endRoll_inv
    | with_reducible apply openLate_inv
    | split

theorem execLateReplyHoldoff_keeps {dt : Nat} {s : State} (h : s.Inv) :
    Keeps (execLateReplyHoldoff dt s) := by
  unfold execLateReplyHoldoff
  try dsimp only [drawN, takeSeq, takeId, okAns]
  have h' := elapse_inv (dt := dt) h
  generalize elapse dt s = x at h' ⊢
  repeat' first
    | assumption
    | exact h'
    | with_reducible apply keeps_go
    | with_reducible exact keeps_refused
    | with_reducible apply sendIdle_inv
    | split

theorem execLateReplyCancel_keeps {dt : Nat} {s : State} (h : s.Inv) :
    Keeps (execLateReplyCancel dt s) := by
  unfold execLateReplyCancel
  try dsimp only [drawN, takeSeq, takeId, okAns]
  have h' := elapse_inv (dt := dt) h
  generalize elapse dt s = x at h' ⊢
  repeat' first
    | assumption
    | exact h'
    | with_reducible apply keeps_go
    | with_reducible exact keeps_refused
    | with_reducible apply sendIdle_inv
    | with_reducible apply cancelSending_inv
    | with_reducible apply cancelRoll_inv
    | with_reducible apply cancelWaiting_inv
    | split

theorem execClaimHoldoff_keeps {dt : Nat} {s : State} (h : s.Inv) : Keeps (execClaimHoldoff dt s) := by
  unfold execClaimHoldoff
  try dsimp only [drawN]
  have h' := elapse_inv (dt := dt) h
  generalize elapse dt s = x at h' ⊢
  repeat' first
    | assumption
    | exact h'
    | with_reducible apply keeps_go
    | with_reducible apply sendReply_inv
    | split

theorem execClauseTakeUp_keeps {dt : Nat} {s : State} (h : s.Inv) : Keeps (execClauseTakeUp dt s) := by
  have h' := elapse_inv (dt := dt) h
  unfold execClauseTakeUp
  dsimp only
  generalize elapse dt s = x at h' ⊢
  apply keeps_go
  split
  · exact h'
  · rename_i hr
    split
    · have h2 := ring_tail_inv h' hr
      split
      · exact takeRoll_inv h2
      · exact takeUp_inv h2
    · exact h'

theorem execTimedClauseDue_keeps {dt : Nat} {s : State} (h : s.Inv) : Keeps (execTimedClauseDue dt s) := by
  have h' := elapse_inv (dt := dt) h
  unfold execTimedClauseDue
  dsimp only
  generalize elapse dt s = x at h' ⊢
  apply keeps_go
  split
  · have h2 := timedStep_inv (t := renderNow x) (r := (x, [])) ⟨h', fun _ hd => absurd hd List.not_mem_nil⟩
    exact answerAll_inv h2.1 h2.2
  · exact h'

theorem execFrameBoundary_keeps {dt : Nat} {s : State} (h : s.Inv) : Keeps (execFrameBoundary dt s) := by
  unfold execFrameBoundary
  try dsimp only [drawN]
  have h' := elapse_inv (dt := dt) h
  generalize elapse dt s = x at h' ⊢
  repeat' first
    | assumption
    | exact h'
    | with_reducible apply keeps_go
    | with_reducible apply boundary_inv
    | split

theorem execSyncEdge_keeps {dt : Nat} {s : State} (h : s.Inv) :
    Keeps (execSyncEdge dt s) := by
  unfold execSyncEdge
  try dsimp only [drawN, takeSeq, takeId, okAns]
  have h' := elapse_inv (dt := dt) h
  generalize elapse dt s = x at h' ⊢
  repeat' first
    | assumption
    | exact h'
    | with_reducible apply keeps_go
    | with_reducible exact keeps_refused
    | with_reducible apply boundaryWith_inv
    | with_reducible apply sendFrames_inv
    | split

theorem execSyncHold_keeps {dt : Nat} {s : State} (h : s.Inv) : Keeps (execSyncHold dt s) := by
  unfold execSyncHold
  try dsimp only [drawN]
  have h' := elapse_inv (dt := dt) h
  generalize elapse dt s = x at h' ⊢
  repeat' first
    | assumption
    | exact h'
    | with_reducible apply keeps_go
    | split

theorem execKeystoneWindowExpiry_keeps {dt : Nat} {s : State} (h : s.Inv) :
    Keeps (execKeystoneWindowExpiry dt s) := by
  unfold execKeystoneWindowExpiry
  try dsimp only [drawN]
  have h' := elapse_inv (dt := dt) h
  generalize elapse dt s = x at h' ⊢
  repeat' first
    | assumption
    | exact h'
    | with_reducible apply keeps_go
    | split

theorem execSvsync_keeps {dt : Nat} {valid : Bool} {rate : Nat} {s : State} (h : s.Inv) :
    Keeps (execSvsync dt valid rate s) := by
  unfold execSvsync
  try dsimp only [drawN, takeSeq, takeId, okAns]
  have h' := elapse_inv (dt := dt) h
  generalize elapse dt s = x at h' ⊢
  repeat' first
    | assumption
    | exact h'
    | with_reducible apply keeps_go
    | with_reducible exact keeps_refused
    | with_reducible apply svcSync_inv

theorem execSvcIdle_keeps {dt : Nat} {s : State} (h : s.Inv) :
    Keeps (execSvcIdle dt s) := by
  unfold execSvcIdle
  try dsimp only [drawN, takeSeq, takeId, okAns]
  have h' := elapse_inv (dt := dt) h
  generalize elapse dt s = x at h' ⊢
  repeat' first
    | assumption
    | exact h'
    | with_reducible apply keeps_go
    | with_reducible exact keeps_refused
    | split

theorem execSvdataWrite_keeps {dt : Nat} {addressed : Bool} {b : Byte} {s : State} (h : s.Inv) :
    Keeps (execSvdataWrite dt addressed b s) := by
  unfold execSvdataWrite
  try dsimp only [drawN, takeSeq, takeId, okAns]
  have h' := elapse_inv (dt := dt) h
  generalize elapse dt s = x at h' ⊢
  repeat' first
    | assumption
    | exact h'
    | with_reducible apply keeps_go
    | with_reducible exact keeps_refused
    | with_reducible apply svcAccess_inv

theorem execSvdoorSubmit_keeps {dt : Nat} {addressed : Bool} {s : State} (h : s.Inv) :
    Keeps (execSvdoorSubmit dt addressed s) := by
  unfold execSvdoorSubmit
  try dsimp only [drawN, takeSeq, takeId, okAns]
  have h' := elapse_inv (dt := dt) h
  generalize elapse dt s = x at h' ⊢
  repeat' first
    | assumption
    | exact h'
    | with_reducible apply keeps_go
    | with_reducible exact keeps_refused
    | with_reducible apply svcAccess_inv

theorem execSvdoorDiscard_keeps {dt : Nat} {addressed : Bool} {s : State} (h : s.Inv) :
    Keeps (execSvdoorDiscard dt addressed s) := by
  unfold execSvdoorDiscard
  try dsimp only [drawN, takeSeq, takeId, okAns]
  have h' := elapse_inv (dt := dt) h
  generalize elapse dt s = x at h' ⊢
  repeat' first
    | assumption
    | exact h'
    | with_reducible apply keeps_go
    | with_reducible exact keeps_refused
    | with_reducible apply svcAccess_inv

theorem execSvctlWrite_keeps {dt : Nat} {addressed : Bool} {b : Byte} {s : State} (h : s.Inv) :
    Keeps (execSvctlWrite dt addressed b s) := by
  unfold execSvctlWrite
  try dsimp only [drawN, takeSeq, takeId, okAns]
  have h' := elapse_inv (dt := dt) h
  generalize elapse dt s = x at h' ⊢
  repeat' first
    | assumption
    | exact h'
    | with_reducible apply keeps_go
    | with_reducible exact keeps_refused
    | with_reducible apply svcAccess_inv

theorem execRegisterWrite_keeps {dt : Nat} {a : Byte} {data : List Byte} {s : State} (h : s.Inv) :
    Keeps (execRegisterWrite dt a data s) := by
  unfold execRegisterWrite
  try dsimp only [drawN, takeSeq, takeId, okAns]
  have h' := elapse_inv (dt := dt) h
  generalize elapse dt s = x at h' ⊢
  repeat' first
    | assumption
    | exact h'
    | with_reducible apply keeps_go
    | with_reducible exact keeps_refused
    | with_reducible apply svcChar_inv
    | with_reducible apply foldl_inv
    | split
    | intro _

theorem execSvstatRead_keeps {dt : Nat} {n : Byte} {s : State} (h : s.Inv) :
    Keeps (execSvstatRead dt n s) := by
  unfold execSvstatRead
  try dsimp only [drawN, takeSeq, takeId, okAns]
  have h' := elapse_inv (dt := dt) h
  generalize elapse dt s = x at h' ⊢
  repeat' first
    | assumption
    | exact h'
    | with_reducible apply keeps_go
    | with_reducible exact keeps_refused
    | with_reducible apply svcAccess_inv

theorem execSvdataRead_keeps {dt : Nat} {n : Byte} {s : State} (h : s.Inv) :
    Keeps (execSvdataRead dt n s) := by
  unfold execSvdataRead
  try dsimp only [drawN, takeSeq, takeId, okAns]
  have h' := elapse_inv (dt := dt) h
  generalize elapse dt s = x at h' ⊢
  repeat' first
    | assumption
    | exact h'
    | with_reducible apply keeps_go
    | with_reducible exact keeps_refused
    | with_reducible apply svcAccess_inv

theorem execSvcauseRead_keeps {dt : Nat} {n : Byte} {s : State} (h : s.Inv) :
    Keeps (execSvcauseRead dt n s) := by
  unfold execSvcauseRead
  try dsimp only [drawN, takeSeq, takeId, okAns]
  have h' := elapse_inv (dt := dt) h
  generalize elapse dt s = x at h' ⊢
  repeat' first
    | assumption
    | exact h'
    | with_reducible apply keeps_go
    | with_reducible exact keeps_refused
    | with_reducible apply svcAccess_inv

theorem execSvcCharacterError_keeps {dt : Nat} {parity : Bool} {s : State} (h : s.Inv) :
    Keeps (execSvcCharacterError dt parity s) := by
  unfold execSvcCharacterError
  try dsimp only [drawN, takeSeq, takeId, okAns]
  have h' := elapse_inv (dt := dt) h
  generalize elapse dt s = x at h' ⊢
  repeat' first
    | assumption
    | exact h'
    | with_reducible apply keeps_go
    | with_reducible exact keeps_refused
    | with_reducible apply svcChar_inv
    | split

theorem execCollision_keeps {dt : Nat} {reg sent : Byte} {s : State} (h : s.Inv) :
    Keeps (execCollision dt reg sent s) := by
  unfold execCollision
  try dsimp only [drawN, takeSeq, takeId, okAns]
  have h' := elapse_inv (dt := dt) h
  generalize elapse dt s = x at h' ⊢
  repeat' first
    | assumption
    | exact h'
    | with_reducible apply keeps_go
    | with_reducible exact keeps_refused
    | with_reducible apply svcAccess_inv
    | split

theorem execSubmissionTakeUp_keeps {dt : Nat} {s : State} (h : s.Inv) : Keeps (execSubmissionTakeUp dt s) := by
  have h' := elapse_inv (dt := dt) h
  unfold execSubmissionTakeUp
  dsimp only
  generalize elapse dt s = x at h' ⊢
  apply keeps_go
  split
  · exact takeUp_inv (image_inv h' (Nat.zero_le _))
  · exact h'

theorem execOnTimeTick_keeps {dt : Nat} {s : State} (h : s.Inv) : Keeps (execOnTimeTick dt s) := by
  unfold execOnTimeTick
  try dsimp only [drawN]
  have h' := elapse_inv (dt := dt) h
  generalize elapse dt s = x at h' ⊢
  repeat' first
    | assumption
    | exact h'
    | with_reducible apply keeps_go
    | with_reducible apply eachPort_inv
    | with_reducible apply onTimePort_inv
    | split

theorem execPowerOnTimeTick_keeps {dt : Nat} {s : State} (h : s.Inv) : Keeps (execPowerOnTimeTick dt s) := by
  unfold execPowerOnTimeTick
  try dsimp only [drawN]
  have h' := elapse_inv (dt := dt) h
  generalize elapse dt s = x at h' ⊢
  repeat' first
    | assumption
    | exact h'
    | with_reducible apply keeps_go
    | split

theorem execPeriodicSave_keeps {dt : Nat} {s : State} (h : s.Inv) : Keeps (execPeriodicSave dt s) := by
  unfold execPeriodicSave
  try dsimp only [drawN]
  have h' := elapse_inv (dt := dt) h
  generalize elapse dt s = x at h' ⊢
  repeat' first
    | assumption
    | exact h'
    | with_reducible apply keeps_go
    | with_reducible apply readyBank_inv
    | with_reducible apply addJob_inv
    | split

theorem execCounterBankErase_keeps {dt : Nat} {s : State} (h : s.Inv) : Keeps (execCounterBankErase dt s) := by
  unfold execCounterBankErase
  try dsimp only [drawN]
  have h' := elapse_inv (dt := dt) h
  generalize elapse dt s = x at h' ⊢
  repeat' first
    | assumption
    | exact h'
    | with_reducible apply keeps_go
    | with_reducible apply readyBank_inv
    | split

theorem execCurveSectorRewrite_keeps {dt : Nat} {s : State} (h : s.Inv) : Keeps (execCurveSectorRewrite dt s) := by
  unfold execCurveSectorRewrite
  try dsimp only [drawN]
  have h' := elapse_inv (dt := dt) h
  generalize elapse dt s = x at h' ⊢
  repeat' first
    | assumption
    | exact h'
    | with_reducible apply keeps_go
    | with_reducible apply addJob_inv
    | split

theorem execNvOperationStart_keeps {dt : Nat} {s : State} (h : s.Inv) : Keeps (execNvOperationStart dt s) := by
  unfold execNvOperationStart
  try dsimp only [drawN]
  have h' := elapse_inv (dt := dt) h
  generalize elapse dt s = x at h' ⊢
  repeat' first
    | assumption
    | exact h'
    | with_reducible apply keeps_go
    | with_reducible apply startOp_inv
    | split

theorem execNvOperationComplete_keeps {dt : Nat} {ok : Bool} {s : State} (h : s.Inv) :
    Keeps (execNvOperationComplete dt ok s) := by
  have h' := elapse_inv (dt := dt) h
  unfold execNvOperationComplete
  dsimp only
  generalize elapse dt s = x at h' ⊢
  apply keeps_go
  split
  · exact h'
  · exact afterBlock_inv (journalCheck_inv (endEmpty_inv (endOp_inv h')))

theorem execDeckLoadComplete_keeps {dt : Nat} {s : State} (h : s.Inv) : Keeps (execDeckLoadComplete dt s) := by
  have h' := elapse_inv (dt := dt) h
  unfold execDeckLoadComplete
  dsimp only
  generalize elapse dt s = x at h' ⊢
  apply keeps_go
  split
  · exact h'
  · apply endLoads_inv
    split
    · exact h'
    · exact loadRest_inv h'

theorem bootOn_keeps {b : BootIn} {s : State} (h : s.Inv) : Keeps (bootOn b s) := by
  have h' := bootImage_inv (bootStore_inv (bootInputs_inv (b := b) h))
  unfold bootOn
  dsimp only
  generalize bootImage (bootStore (bootInputs b s)) = x at h' ⊢
  split
  · exact keeps_go (bootAbandoned_inv h)
  · split
    · exact keeps_refused
    · exact keeps_go (bootRest_inv h')

theorem bootFrom_keeps {cause : Byte} {b : BootIn} {s : State} (h : s.Inv) : Keeps (bootFrom cause b s) := by
  have h' := bootStart_inv (cause := cause) (b := b) h
  unfold bootFrom
  dsimp only
  generalize bootStart cause b s = x at h' ⊢
  split
  · exact keeps_go (halt_inv h')
  · split
    · exact keeps_go h'
    · exact bootOn_keeps h'

theorem execRestHoldExpiry_keeps {dt : Nat} {s : State} (h : s.Inv) : Keeps (execRestHoldExpiry dt s) := by
  unfold execRestHoldExpiry
  try dsimp only [drawN]
  have h' := elapse_inv (dt := dt) h
  generalize elapse dt s = x at h' ⊢
  repeat' first
    | assumption
    | exact h'
    | with_reducible apply keeps_go
    | split

theorem execWakeFrame_keeps {dt : Nat} {chars : List WakeChar} {s : State} (h : s.Inv) :
    Keeps (execWakeFrame dt chars s) := by
  unfold execWakeFrame
  try dsimp only [drawN, takeSeq, takeId, okAns]
  have h' := elapse_inv (dt := dt) h
  generalize elapse dt s = x at h' ⊢
  repeat' first
    | assumption
    | exact h'
    | with_reducible apply keeps_go
    | with_reducible exact keeps_refused
    | with_reducible apply leaveRest_inv
    | split

theorem execSvcWake_keeps {dt : Nat} {rate : Nat} {s : State} (h : s.Inv) :
    Keeps (execSvcWake dt rate s) := by
  unfold execSvcWake
  try dsimp only [drawN, takeSeq, takeId, okAns]
  have h' := elapse_inv (dt := dt) h
  generalize elapse dt s = x at h' ⊢
  repeat' first
    | assumption
    | exact h'
    | with_reducible apply keeps_go
    | with_reducible exact keeps_refused
    | with_reducible apply svcWoken_inv
    | with_reducible apply svcChar_inv
    | with_reducible apply svcSync_inv
    | with_reducible apply svcEdge_inv
    | split

theorem execKeepBurst_keeps {dt : Nat} {s : State} (h : s.Inv) : Keeps (execKeepBurst dt s) := by
  unfold execKeepBurst
  try dsimp only [drawN]
  have h' := elapse_inv (dt := dt) h
  generalize elapse dt s = x at h' ⊢
  repeat' first
    | assumption
    | exact h'
    | with_reducible apply keeps_go
    | with_reducible apply eachPort_inv
    | with_reducible apply keepFrame_inv
    | split

theorem execShelfEntry_keeps {dt : Nat} {s : State} (h : s.Inv) : Keeps (execShelfEntry dt s) := by
  unfold execShelfEntry
  try dsimp only [drawN]
  have h' := elapse_inv (dt := dt) h
  generalize elapse dt s = x at h' ⊢
  repeat' first
    | assumption
    | exact h'
    | with_reducible apply keeps_go
    | with_reducible apply unready_inv
    | with_reducible apply stopPorts_inv
    | split

theorem execShelfSvcEdge_keeps {dt : Nat} {s : State} (h : s.Inv) : Keeps (execShelfSvcEdge dt s) := by
  unfold execShelfSvcEdge
  try dsimp only [drawN]
  have h' := elapse_inv (dt := dt) h
  generalize elapse dt s = x at h' ⊢
  repeat' first
    | assumption
    | exact h'
    | with_reducible apply keeps_go
    | split

theorem execWrcStop_keeps {dt : Nat} {s : State} (h : s.Inv) : Keeps (execWrcStop dt s) := by
  unfold execWrcStop
  try dsimp only [drawN]
  have h' := elapse_inv (dt := dt) h
  generalize elapse dt s = x at h' ⊢
  repeat' first
    | assumption
    | exact h'
    | with_reducible apply keeps_go
    | split

theorem execSave_keeps {dt : Nat} {vin vresLoaded : Nat} {s : State} (h : s.Inv) :
    Keeps (execSave dt vin vresLoaded s) := by
  unfold execSave
  try dsimp only [drawN]
  have h' := elapse_inv (dt := dt) h
  generalize elapse dt s = x at h' ⊢
  repeat' first
    | assumption
    | exact h'
    | with_reducible apply keeps_go
    | with_reducible apply enterSave_inv
    | split

theorem execSaveComplete_keeps {dt : Nat} {b : BootIn} {s : State} (h : s.Inv) : Keeps (execSaveComplete dt b s) := by
  unfold execSaveComplete
  try dsimp only [drawN]
  have h' := elapse_inv (dt := dt) h
  generalize elapse dt s = x at h' ⊢
  repeat' first
    | assumption
    | exact h'
    | with_reducible apply keeps_go
    | with_reducible apply bootFrom_keeps
    | with_reducible apply writeSave_inv
    | with_reducible apply enterHoldover_inv
    | split

theorem resetFrom_keeps {cause : Byte} {b : BootIn} {s : State} (h : s.Inv) : Keeps (resetFrom cause b s) := by
  unfold resetFrom
  try dsimp only [drawN]
  repeat' first
    | assumption
    | exact h
    | with_reducible apply keeps_go
    | with_reducible apply bootFrom_keeps
    | with_reducible apply cutSave_inv
    | split

theorem powerReset_keeps {b : BootIn} {s : State} (h : s.Inv) :
    Keeps (powerReset b s) := by
  unfold powerReset
  try dsimp only [drawN, takeSeq, takeId, okAns]
  repeat' first
    | assumption
    | exact h
    | with_reducible apply keeps_go
    | with_reducible exact keeps_refused
    | with_reducible apply resetFrom_keeps
    | with_reducible apply endDark_inv
    | split

theorem resetAny_keeps {cause : Byte} {b : BootIn} {s : State} (h : s.Inv) :
    Keeps (resetAny cause b s) := by
  unfold resetAny
  try dsimp only [drawN, takeSeq, takeId, okAns]
  repeat' first
    | assumption
    | exact h
    | with_reducible apply keeps_go
    | with_reducible exact keeps_refused
    | with_reducible apply resetFrom_keeps
    | with_reducible apply endDark_inv
    | split

theorem execPowerOn_keeps {dt : Nat} {b : BootIn} {s : State} (h : s.Inv) :
    Keeps (execPowerOn dt b s) := by
  unfold execPowerOn
  try dsimp only [drawN, takeSeq, takeId, okAns]
  have h' := elapse_inv (dt := dt) h
  generalize elapse dt s = x at h' ⊢
  repeat' first
    | assumption
    | exact h'
    | with_reducible apply keeps_go
    | with_reducible exact keeps_refused
    | with_reducible apply powerReset_keeps

theorem execResetPin_keeps {dt : Nat} {widthNs : Nat} {b : BootIn} {s : State} (h : s.Inv) :
    Keeps (execResetPin dt widthNs b s) := by
  unfold execResetPin
  try dsimp only [drawN, takeSeq, takeId, okAns]
  have h' := elapse_inv (dt := dt) h
  generalize elapse dt s = x at h' ⊢
  repeat' first
    | assumption
    | exact h'
    | with_reducible apply keeps_go
    | with_reducible exact keeps_refused
    | with_reducible apply resetAny_keeps
    | with_reducible apply spend_inv
    | split

theorem execBrownOut_keeps {dt : Nat} {vin vres : Nat} {b : BootIn} {s : State} (h : s.Inv) :
    Keeps (execBrownOut dt vin vres b s) := by
  unfold execBrownOut
  try dsimp only [drawN, takeSeq, takeId, okAns]
  have h' := elapse_inv (dt := dt) h
  generalize elapse dt s = x at h' ⊢
  repeat' first
    | assumption
    | exact h'
    | with_reducible apply keeps_go
    | with_reducible exact keeps_refused
    | with_reducible apply resetAny_keeps
    | split

theorem execWatchdog_keeps {dt : Nat} {b : BootIn} {s : State} (h : s.Inv) : Keeps (execWatchdog dt b s) := by
  unfold execWatchdog
  try dsimp only [drawN]
  have h' := elapse_inv (dt := dt) h
  generalize elapse dt s = x at h' ⊢
  repeat' first
    | assumption
    | exact h'
    | with_reducible apply keeps_go
    | with_reducible apply resetFrom_keeps
    | split

theorem execResetAfterReply_keeps {dt : Nat} {b : BootIn} {s : State} (h : s.Inv) :
    Keeps (execResetAfterReply dt b s) := by
  unfold execResetAfterReply
  try dsimp only [drawN]
  have h' := elapse_inv (dt := dt) h
  generalize elapse dt s = x at h' ⊢
  repeat' first
    | assumption
    | exact h'
    | with_reducible apply keeps_go
    | with_reducible apply resetFrom_keeps
    | split

theorem execVinGood_keeps {dt : Nat} {b : BootIn} {s : State} (h : s.Inv) : Keeps (execVinGood dt b s) := by
  unfold execVinGood
  try dsimp only [drawN]
  have h' := elapse_inv (dt := dt) h
  generalize elapse dt s = x at h' ⊢
  repeat' first
    | assumption
    | exact h'
    | with_reducible apply keeps_go
    | with_reducible apply bootOn_keeps
    | split

theorem execHoldoverVinGood_keeps {dt : Nat} {b : BootIn} {s : State} (h : s.Inv) :
    Keeps (execHoldoverVinGood dt b s) := by
  unfold execHoldoverVinGood
  try dsimp only [drawN, takeSeq, takeId, okAns]
  have h' := elapse_inv (dt := dt) h
  generalize elapse dt s = x at h' ⊢
  repeat' first
    | assumption
    | exact h'
    | with_reducible apply keeps_go
    | with_reducible exact keeps_refused
    | with_reducible apply powerReset_keeps
    | split

theorem execFwConfirmTimeout_keeps {dt : Nat} {b : BootIn} {s : State} (h : s.Inv) :
    Keeps (execFwConfirmTimeout dt b s) := by
  unfold execFwConfirmTimeout
  try dsimp only [drawN]
  have h' := elapse_inv (dt := dt) h
  generalize elapse dt s = x at h' ⊢
  repeat' first
    | assumption
    | exact h'
    | with_reducible apply keeps_go
    | with_reducible apply resetFrom_keeps
    | split

theorem execChargeStateChange_keeps {dt : Nat} {vres : Nat} {tapered : Bool} {s : State} (h : s.Inv) :
    Keeps (execChargeStateChange dt vres tapered s) := by
  unfold execChargeStateChange
  try dsimp only [drawN]
  have h' := elapse_inv (dt := dt) h
  generalize elapse dt s = x at h' ⊢
  repeat' first
    | assumption
    | exact h'
    | with_reducible apply keeps_go

theorem execChargeTemperatureCheck_keeps {dt : Nat} {t8 : Int} {s : State} (h : s.Inv) :
    Keeps (execChargeTemperatureCheck dt t8 s) := by
  unfold execChargeTemperatureCheck
  try dsimp only [drawN]
  have h' := elapse_inv (dt := dt) h
  generalize elapse dt s = x at h' ⊢
  repeat' first
    | assumption
    | exact h'
    | with_reducible apply keeps_go
    | with_reducible apply tempCheck_inv
    | split

theorem execHardDisconnect_keeps {dt : Nat} {vres : Nat} {s : State} (h : s.Inv) :
    Keeps (execHardDisconnect dt vres s) := by
  unfold execHardDisconnect
  try dsimp only [drawN, takeSeq, takeId, okAns]
  have h' := elapse_inv (dt := dt) h
  generalize elapse dt s = x at h' ⊢
  repeat' first
    | assumption
    | exact h'
    | with_reducible apply keeps_go
    | with_reducible exact keeps_refused
    | with_reducible apply reSource_inv
    | with_reducible apply hardCut_inv
    | split

theorem execHardDisconnectEnd_keeps {dt : Nat} {vres : Nat} {s : State} (h : s.Inv) :
    Keeps (execHardDisconnectEnd dt vres s) := by
  unfold execHardDisconnectEnd
  try dsimp only [drawN, takeSeq, takeId, okAns]
  have h' := elapse_inv (dt := dt) h
  generalize elapse dt s = x at h' ⊢
  repeat' first
    | assumption
    | exact h'
    | with_reducible apply keeps_go
    | with_reducible exact keeps_refused
    | with_reducible apply reSource_inv
    | with_reducible apply hardEnd_inv
    | split

theorem execOvercurrent_keeps {dt : Nat} {s : State} (h : s.Inv) : Keeps (execOvercurrent dt s) := by
  unfold execOvercurrent
  try dsimp only [drawN]
  have h' := elapse_inv (dt := dt) h
  generalize elapse dt s = x at h' ⊢
  repeat' first
    | assumption
    | exact h'
    | with_reducible apply keeps_go
    | with_reducible apply reSource_inv
    | with_reducible apply latch_inv
    | split

theorem execBandgapWindow_keeps {dt : Nat} {vin vres : Nat} {t8 : Int} {s : State} (h : s.Inv) :
    Keeps (execBandgapWindow dt vin vres t8 s) := by
  unfold execBandgapWindow
  try dsimp only [drawN, takeSeq, takeId, okAns]
  have h' := elapse_inv (dt := dt) h
  generalize elapse dt s = x at h' ⊢
  repeat' first
    | assumption
    | exact h'
    | with_reducible apply keeps_go
    | with_reducible exact keeps_refused
    | with_reducible apply setVin_inv
    | with_reducible apply darkWindow_inv
    | with_reducible apply litWindow_inv
    | split

theorem execDarkcutEntry_keeps {dt : Nat} {s : State} (h : s.Inv) :
    Keeps (execDarkcutEntry dt s) := by
  unfold execDarkcutEntry
  try dsimp only [drawN, takeSeq, takeId, okAns]
  have h' := elapse_inv (dt := dt) h
  generalize elapse dt s = x at h' ⊢
  repeat' first
    | assumption
    | exact h'
    | with_reducible apply keeps_go
    | with_reducible exact keeps_refused
    | with_reducible apply latch_inv
    | with_reducible apply darkCut_inv
    | split

theorem execDarkcutExit_keeps {dt : Nat} {vres : Nat} {b : BootIn} {s : State} (h : s.Inv) :
    Keeps (execDarkcutExit dt vres b s) := by
  unfold execDarkcutExit
  try dsimp only [drawN, takeSeq, takeId, okAns]
  have h' := elapse_inv (dt := dt) h
  generalize elapse dt s = x at h' ⊢
  repeat' first
    | assumption
    | exact h'
    | with_reducible apply keeps_go
    | with_reducible exact keeps_refused
    | with_reducible apply powerReset_keeps
    | with_reducible apply reconnect_inv
    | split

theorem execKeepalivePowerOnReset_keeps {dt : Nat} {vres : Nat} {s : State} (h : s.Inv) :
    Keeps (execKeepalivePowerOnReset dt vres s) := by
  unfold execKeepalivePowerOnReset
  try dsimp only [drawN]
  have h' := elapse_inv (dt := dt) h
  generalize elapse dt s = x at h' ⊢
  repeat' first
    | assumption
    | exact h'
    | with_reducible apply keeps_go
    | with_reducible apply kaReset_inv
    | with_reducible apply reSource_inv
    | split

theorem execReserveTest_keeps {dt : Nat} {vresLoaded : Nat} {s : State} (h : s.Inv) :
    Keeps (execReserveTest dt vresLoaded s) := by
  unfold execReserveTest
  try dsimp only [drawN]
  have h' := elapse_inv (dt := dt) h
  generalize elapse dt s = x at h' ⊢
  repeat' first
    | assumption
    | exact h'
    | with_reducible apply keeps_go
    | with_reducible apply raisePower_inv
    | split

theorem execVkaSourceHandover_keeps {dt : Nat} {vin vres : Nat} {s : State} (h : s.Inv) :
    Keeps (execVkaSourceHandover dt vin vres s) := by
  unfold execVkaSourceHandover
  try dsimp only [drawN]
  have h' := elapse_inv (dt := dt) h
  generalize elapse dt s = x at h' ⊢
  repeat' first
    | assumption
    | exact h'
    | with_reducible apply keeps_go
    | with_reducible apply reSource_inv

theorem execVioLow_keeps {dt : Nat} {vio : Nat} {s : State} (h : s.Inv) : Keeps (execVioLow dt vio s) := by
  unfold execVioLow
  try dsimp only [drawN]
  have h' := elapse_inv (dt := dt) h
  generalize elapse dt s = x at h' ⊢
  repeat' first
    | assumption
    | exact h'
    | with_reducible apply keeps_go
    | with_reducible apply stopPorts_inv
    | split

theorem execVioGood_keeps {dt : Nat} {vio : Nat} {s : State} (h : s.Inv) : Keeps (execVioGood dt vio s) := by
  have h' := elapse_inv (dt := dt) h
  unfold execVioGood
  dsimp only
  generalize elapse dt s = x at h' ⊢
  apply keeps_go
  split
  · refine raisePower_inv (eachPort_inv (unready_inv ?_) fun _ _ h => restartPort_inv h)
    exact h'
  · exact h'

theorem execLfxoFailure_keeps {dt : Nat} {s : State} (h : s.Inv) : Keeps (execLfxoFailure dt s) := by
  unfold execLfxoFailure
  try dsimp only [drawN]
  have h' := elapse_inv (dt := dt) h
  generalize elapse dt s = x at h' ⊢
  repeat' first
    | assumption
    | exact h'
    | with_reducible apply keeps_go
    | with_reducible apply drawN_inv
    | with_reducible apply tellOnRun_inv
    | split

theorem execThermalUpdate_keeps {dt : Nat} {avg8 now8 : Int} {s : State} (h : s.Inv) :
    Keeps (execThermalUpdate dt avg8 now8 s) := by
  unfold execThermalUpdate
  try dsimp only [drawN]
  have h' := elapse_inv (dt := dt) h
  generalize elapse dt s = x at h' ⊢
  repeat' first
    | assumption
    | exact h'
    | with_reducible apply keeps_go
    | with_reducible apply thermalFreeze_inv
    | with_reducible apply thermalFlag_inv
    | split

theorem execColdStart_keeps {dt : Nat} {vka : Nat} {s : State} (h : s.Inv) : Keeps (execColdStart dt vka s) := by
  unfold execColdStart
  try dsimp only [drawN]
  have h' := elapse_inv (dt := dt) h
  generalize elapse dt s = x at h' ⊢
  repeat' first
    | assumption
    | exact h'
    | with_reducible apply keeps_go
    | split

theorem execColdStartEnd_keeps {dt : Nat} {vka : Nat} {s : State} (h : s.Inv) :
    Keeps (execColdStartEnd dt vka s) := by
  unfold execColdStartEnd
  try dsimp only [drawN, takeSeq, takeId, okAns]
  have h' := elapse_inv (dt := dt) h
  generalize elapse dt s = x at h' ⊢
  repeat' first
    | assumption
    | exact h'
    | with_reducible apply keeps_go
    | with_reducible exact keeps_refused
    | with_reducible apply reSource_inv
    | split

theorem execVocSample_keeps {dt : Nat} {s : State} (h : s.Inv) :
    Keeps (execVocSample dt s) := by
  unfold execVocSample
  try dsimp only [drawN, takeSeq, takeId, okAns]
  have h' := elapse_inv (dt := dt) h
  generalize elapse dt s = x at h' ⊢
  repeat' first
    | assumption
    | exact h'
    | with_reducible apply keeps_go
    | with_reducible exact keeps_refused
    | with_reducible apply reSource_inv
    | split

theorem execVocSampleEnd_keeps {dt : Nat} {voc : Nat} {s : State} (h : s.Inv) :
    Keeps (execVocSampleEnd dt voc s) := by
  unfold execVocSampleEnd
  try dsimp only [drawN, takeSeq, takeId, okAns]
  have h' := elapse_inv (dt := dt) h
  generalize elapse dt s = x at h' ⊢
  repeat' first
    | assumption
    | exact h'
    | with_reducible apply keeps_go
    | with_reducible exact keeps_refused
    | with_reducible apply reSource_inv
    | split

theorem execLoopReturn_keeps {dt : Nat} {port : Port} {r : Return} {s : State} (h : s.Inv) :
    Keeps (execLoopReturn dt port r s) := by
  unfold execLoopReturn
  try dsimp only [drawN]
  have h' := elapse_inv (dt := dt) h
  generalize elapse dt s = x at h' ⊢
  repeat' first
    | assumption
    | exact h'
    | with_reducible apply keeps_go
    | with_reducible apply takeReturn_inv
    | split

theorem execReturnDeadline_keeps {dt : Nat} {port : Port} {s : State} (h : s.Inv) :
    Keeps (execReturnDeadline dt port s) := by
  unfold execReturnDeadline
  try dsimp only [drawN]
  have h' := elapse_inv (dt := dt) h
  generalize elapse dt s = x at h' ⊢
  repeat' first
    | assumption
    | exact h'
    | with_reducible apply keeps_go
    | with_reducible apply lostReturn_inv
    | with_reducible apply foldl_inv
    | split
    | intro _

theorem execMaintenanceStart_keeps {dt : Nat} {port : Port} {s : State} (h : s.Inv) :
    Keeps (execMaintenanceStart dt port s) := by
  unfold execMaintenanceStart
  try dsimp only [drawN]
  have h' := elapse_inv (dt := dt) h
  generalize elapse dt s = x at h' ⊢
  repeat' first
    | assumption
    | exact h'
    | with_reducible apply keeps_go
    | with_reducible apply startItem_inv
    | split

theorem execMaintenanceForced_keeps {dt : Nat} {port : Port} {s : State} (h : s.Inv) :
    Keeps (execMaintenanceForced dt port s) := by
  unfold execMaintenanceForced
  try dsimp only [drawN]
  have h' := elapse_inv (dt := dt) h
  generalize elapse dt s = x at h' ⊢
  repeat' first
    | assumption
    | exact h'
    | with_reducible apply keeps_go
    | with_reducible apply startItem_inv
    | split

theorem execPresenceSample_keeps {dt : Nat} {port : Port} {low : Bool} {s : State} (h : s.Inv) :
    Keeps (execPresenceSample dt port low s) := by
  unfold execPresenceSample
  try dsimp only [drawN, takeSeq, takeId, okAns]
  have h' := elapse_inv (dt := dt) h
  generalize elapse dt s = x at h' ⊢
  repeat' first
    | assumption
    | exact h'
    | with_reducible apply keeps_go
    | with_reducible exact keeps_refused
    | with_reducible apply settleLine_inv
    | with_reducible apply presence_inv
    | split

theorem execBackwardAnswer_keeps {dt : Nat} {port : Port} {r : Return} {s : State} (h : s.Inv) :
    Keeps (execBackwardAnswer dt port r s) := by
  unfold execBackwardAnswer
  try dsimp only [drawN, takeSeq, takeId, okAns]
  have h' := elapse_inv (dt := dt) h
  generalize elapse dt s = x at h' ⊢
  repeat' first
    | assumption
    | exact h'
    | with_reducible apply keeps_go
    | with_reducible exact keeps_refused
    | with_reducible apply settleLine_inv
    | with_reducible apply discardEnds_inv
    | with_reducible apply answerEnds_inv
    | split

theorem execAnswerTimeout_keeps {dt : Nat} {port : Port} {begun : Bool} {s : State} (h : s.Inv) :
    Keeps (execAnswerTimeout dt port begun s) := by
  unfold execAnswerTimeout
  try dsimp only [drawN, takeSeq, takeId, okAns]
  have h' := elapse_inv (dt := dt) h
  generalize elapse dt s = x at h' ⊢
  repeat' first
    | assumption
    | exact h'
    | with_reducible apply keeps_go
    | with_reducible exact keeps_refused
    | with_reducible apply settleLine_inv
    | with_reducible apply noHeader_inv
    | with_reducible apply noPreamble_inv
    | split

theorem execPeriodicProbe_keeps {dt : Nat} {s : State} (h : s.Inv) : Keeps (execPeriodicProbe dt s) := by
  unfold execPeriodicProbe
  try dsimp only [drawN]
  have h' := elapse_inv (dt := dt) h
  generalize elapse dt s = x at h' ⊢
  repeat' first
    | assumption
    | exact h'
    | with_reducible apply keeps_go
    | with_reducible apply eachPort_inv
    | with_reducible apply periodicPort_inv
    | split

theorem execReadinessTimeout_keeps {dt : Nat} {port : Port} {s : State} (h : s.Inv) :
    Keeps (execReadinessTimeout dt port s) := by
  unfold execReadinessTimeout
  try dsimp only [drawN]
  have h' := elapse_inv (dt := dt) h
  generalize elapse dt s = x at h' ⊢
  repeat' first
    | assumption
    | exact h'
    | with_reducible apply keeps_go
    | with_reducible apply raisePort_inv
    | with_reducible apply markReady_inv
    | split

theorem execLampenAssert_keeps {dt : Nat} {s : State} (h : s.Inv) : Keeps (execLampenAssert dt s) := by
  unfold execLampenAssert
  try dsimp only [drawN]
  have h' := elapse_inv (dt := dt) h
  generalize elapse dt s = x at h' ⊢
  repeat' first
    | assumption
    | exact h'
    | with_reducible apply keeps_go
    | split

theorem execStringFrameEof_keeps {dt : Nat} {port : Port} {s : State} (h : s.Inv) :
    Keeps (execStringFrameEof dt port s) := by
  unfold execStringFrameEof
  try dsimp only [drawN]
  have h' := elapse_inv (dt := dt) h
  generalize elapse dt s = x at h' ⊢
  repeat' first
    | assumption
    | exact h'
    | with_reducible apply keeps_go
    | with_reducible apply upPort_inv
    | with_reducible apply configDone_inv
    | split

theorem execRelayInputFrame_keeps {dt : Nat} {f : RelayIn} {s : State} (h : s.Inv) :
    Keeps (execRelayInputFrame dt f s) := by
  unfold execRelayInputFrame
  try dsimp only [drawN, takeSeq, takeId, okAns]
  have h' := elapse_inv (dt := dt) h
  generalize elapse dt s = x at h' ⊢
  repeat' first
    | assumption
    | exact h'
    | with_reducible apply keeps_go
    | with_reducible exact keeps_refused
    | with_reducible apply headerSeen_inv
    | with_reducible apply countTol_inv
    | with_reducible apply relayHeader_inv
    | with_reducible apply forwardCut_inv
    | with_reducible apply cutDerived_inv
    | split

theorem execRelayInputLow_keeps {dt : Nat} {widthNs : Nat} {s : State} (h : s.Inv) :
    Keeps (execRelayInputLow dt widthNs s) := by
  unfold execRelayInputLow
  try dsimp only [drawN, takeSeq, takeId, okAns]
  have h' := elapse_inv (dt := dt) h
  generalize elapse dt s = x at h' ⊢
  repeat' first
    | assumption
    | exact h'
    | with_reducible apply keeps_go
    | with_reducible exact keeps_refused
    | with_reducible apply passLow_inv
    | split

theorem execRelayInputLoss_keeps {dt : Nat} {s : State} (h : s.Inv) : Keeps (execRelayInputLoss dt s) := by
  unfold execRelayInputLoss
  try dsimp only [drawN]
  have h' := elapse_inv (dt := dt) h
  generalize elapse dt s = x at h' ⊢
  repeat' first
    | assumption
    | exact h'
    | with_reducible apply keeps_go
    | with_reducible apply raisePort_inv
    | split

theorem execRelayKeep_keeps {dt : Nat} {s : State} (h : s.Inv) : Keeps (execRelayKeep dt s) := by
  unfold execRelayKeep
  try dsimp only [drawN]
  have h' := elapse_inv (dt := dt) h
  generalize elapse dt s = x at h' ⊢
  repeat' first
    | assumption
    | exact h'
    | with_reducible apply keeps_go
    | with_reducible apply relayKeepPort_inv
    | with_reducible apply foldl_inv
    | split

theorem execRelayHoldLimit_keeps {dt : Nat} {s : State} (h : s.Inv) : Keeps (execRelayHoldLimit dt s) := by
  unfold execRelayHoldLimit
  try dsimp only [drawN]
  have h' := elapse_inv (dt := dt) h
  generalize elapse dt s = x at h' ⊢
  repeat' first
    | assumption
    | exact h'
    | with_reducible apply keeps_go
    | split

theorem execEvtFail_keeps {dt : Nat} {s : State} (h : s.Inv) : Keeps (execEvtFail dt s) := by
  unfold execEvtFail
  try dsimp only [drawN]
  have h' := elapse_inv (dt := dt) h
  generalize elapse dt s = x at h' ⊢
  repeat' first
    | assumption
    | exact h'
    | with_reducible apply keeps_go
    | with_reducible apply makeFail_inv
    | split

theorem execEventHoldoffExpiry_keeps {dt : Nat} {s : State} (h : s.Inv) : Keeps (execEventHoldoffExpiry dt s) := by
  unfold execEventHoldoffExpiry
  try dsimp only [drawN]
  have h' := elapse_inv (dt := dt) h
  generalize elapse dt s = x at h' ⊢
  repeat' first
    | assumption
    | exact h'
    | with_reducible apply keeps_go
    | with_reducible apply heldEvent_inv
    | split

theorem execStageTimeout_keeps {dt : Nat} {s : State} (h : s.Inv) : Keeps (execStageTimeout dt s) := by
  unfold execStageTimeout
  try dsimp only [drawN]
  have h' := elapse_inv (dt := dt) h
  generalize elapse dt s = x at h' ⊢
  repeat' first
    | assumption
    | exact h'
    | with_reducible apply keeps_go
    | with_reducible apply abortStage_inv
    | split

theorem execSceneBufferTimeout_keeps {dt : Nat} {s : State} (h : s.Inv) : Keeps (execSceneBufferTimeout dt s) := by
  unfold execSceneBufferTimeout
  try dsimp only [drawN]
  have h' := elapse_inv (dt := dt) h
  generalize elapse dt s = x at h' ⊢
  repeat' first
    | assumption
    | exact h'
    | with_reducible apply keeps_go
    | split

theorem execCurveBufferTimeout_keeps {dt : Nat} {s : State} (h : s.Inv) : Keeps (execCurveBufferTimeout dt s) := by
  unfold execCurveBufferTimeout
  try dsimp only [drawN]
  have h' := elapse_inv (dt := dt) h
  generalize elapse dt s = x at h' ⊢
  repeat' first
    | assumption
    | exact h'
    | with_reducible apply keeps_go
    | split

theorem execFwSessionTimeout_keeps {dt : Nat} {s : State} (h : s.Inv) : Keeps (execFwSessionTimeout dt s) := by
  unfold execFwSessionTimeout
  try dsimp only [drawN]
  have h' := elapse_inv (dt := dt) h
  generalize elapse dt s = x at h' ⊢
  repeat' first
    | assumption
    | exact h'
    | with_reducible apply keeps_go
    | split

theorem execNonceExpiry_keeps {dt : Nat} {s : State} (h : s.Inv) : Keeps (execNonceExpiry dt s) := by
  have h' := elapse_inv (dt := dt) h
  unfold execNonceExpiry
  dsimp only
  generalize elapse dt s = x at h' ⊢
  apply keeps_go
  exact sec_inv h' (Nat.le_trans (List.length_filter_le _ _) h'.2.1.2.2.2.2.1)

theorem execFwVerificationEnd_keeps {dt : Nat} {s : State} (h : s.Inv) : Keeps (execFwVerificationEnd dt s) := by
  unfold execFwVerificationEnd
  try dsimp only [drawN]
  have h' := elapse_inv (dt := dt) h
  generalize elapse dt s = x at h' ⊢
  repeat' first
    | assumption
    | exact h'
    | with_reducible apply keeps_go
    | with_reducible apply endVerify_inv
    | split

theorem execFwConfirmation_keeps {dt : Nat} {s : State} (h : s.Inv) : Keeps (execFwConfirmation dt s) := by
  unfold execFwConfirmation
  try dsimp only [drawN]
  have h' := elapse_inv (dt := dt) h
  generalize elapse dt s = x at h' ⊢
  repeat' first
    | assumption
    | exact h'
    | with_reducible apply keeps_go
    | with_reducible apply addJob_inv
    | split

end Sys2Proof.Machine
end

