-- ==== Sys2Proof/Laws/State.lean ====
section
/-!
SUPPORT. What the named updates of a state leave alone, field by field, each true by unfolding: no later proof unfolds a
record update.
-/
namespace Sys2Proof.Machine

/-! ## setPort -/

@[simp] theorem setPort_now {p : Port} {x : PortState} {s : State} : (setPort p x s).now = s.now := rfl
@[simp] theorem setPort_ka {p : Port} {x : PortState} {s : State} : (setPort p x s).ka = s.ka := rfl
@[simp] theorem setPort_pw {p : Port} {x : PortState} {s : State} : (setPort p x s).pw = s.pw := rfl
@[simp] theorem setPort_cfg {p : Port} {x : PortState} {s : State} : (setPort p x s).cfg = s.cfg := rfl
@[simp] theorem setPort_node {p : Port} {x : PortState} {s : State} : (setPort p x s).node = s.node := rfl
@[simp] theorem setPort_span {p : Port} {x : PortState} {s : State} : (setPort p x s).span = s.span := rfl
@[simp] theorem setPort_cl {p : Port} {x : PortState} {s : State} : (setPort p x s).cl = s.cl := rfl
@[simp] theorem setPort_svc {p : Port} {x : PortState} {s : State} : (setPort p x s).svc = s.svc := rfl
@[simp] theorem setPort_relay {p : Port} {x : PortState} {s : State} : (setPort p x s).relay = s.relay := rfl
@[simp] theorem setPort_rd {p : Port} {x : PortState} {s : State} : (setPort p x s).rd = s.rd := rfl
@[simp] theorem setPort_st {p : Port} {x : PortState} {s : State} : (setPort p x s).st = s.st := rfl
@[simp] theorem setPort_nv {p : Port} {x : PortState} {s : State} : (setPort p x s).nv = s.nv := rfl
@[simp] theorem setPort_fail {p : Port} {x : PortState} {s : State} : (setPort p x s).fail = s.fail := rfl
@[simp] theorem setPort_cnt {p : Port} {x : PortState} {s : State} : (setPort p x s).cnt = s.cnt := rfl
@[simp] theorem setPort_sec {p : Port} {x : PortState} {s : State} : (setPort p x s).sec = s.sec := rfl
@[simp] theorem setPort_fw {p : Port} {x : PortState} {s : State} : (setPort p x s).fw = s.fw := rfl
@[simp] theorem setPort_ev {p : Port} {x : PortState} {s : State} : (setPort p x s).ev = s.ev := rfl
@[simp] theorem setPort_draws {p : Port} {x : PortState} {s : State} : (setPort p x s).draws = s.draws := rfl
@[simp] theorem setPort_pending {p : Port} {x : PortState} {s : State} : (setPort p x s).pending = s.pending := rfl

/-! ## upPort -/

@[simp] theorem upPort_now {p : Port} {f : PortState → PortState} {s : State} : (upPort p f s).now = s.now := rfl
@[simp] theorem upPort_ka {p : Port} {f : PortState → PortState} {s : State} : (upPort p f s).ka = s.ka := rfl
@[simp] theorem upPort_pw {p : Port} {f : PortState → PortState} {s : State} : (upPort p f s).pw = s.pw := rfl
@[simp] theorem upPort_cfg {p : Port} {f : PortState → PortState} {s : State} : (upPort p f s).cfg = s.cfg := rfl
@[simp] theorem upPort_node {p : Port} {f : PortState → PortState} {s : State} : (upPort p f s).node = s.node := rfl
@[simp] theorem upPort_span {p : Port} {f : PortState → PortState} {s : State} : (upPort p f s).span = s.span := rfl
@[simp] theorem upPort_cl {p : Port} {f : PortState → PortState} {s : State} : (upPort p f s).cl = s.cl := rfl
@[simp] theorem upPort_svc {p : Port} {f : PortState → PortState} {s : State} : (upPort p f s).svc = s.svc := rfl
@[simp] theorem upPort_relay {p : Port} {f : PortState → PortState} {s : State} : (upPort p f s).relay = s.relay := rfl
@[simp] theorem upPort_rd {p : Port} {f : PortState → PortState} {s : State} : (upPort p f s).rd = s.rd := rfl
@[simp] theorem upPort_st {p : Port} {f : PortState → PortState} {s : State} : (upPort p f s).st = s.st := rfl
@[simp] theorem upPort_nv {p : Port} {f : PortState → PortState} {s : State} : (upPort p f s).nv = s.nv := rfl
@[simp] theorem upPort_fail {p : Port} {f : PortState → PortState} {s : State} : (upPort p f s).fail = s.fail := rfl
@[simp] theorem upPort_cnt {p : Port} {f : PortState → PortState} {s : State} : (upPort p f s).cnt = s.cnt := rfl
@[simp] theorem upPort_sec {p : Port} {f : PortState → PortState} {s : State} : (upPort p f s).sec = s.sec := rfl
@[simp] theorem upPort_fw {p : Port} {f : PortState → PortState} {s : State} : (upPort p f s).fw = s.fw := rfl
@[simp] theorem upPort_ev {p : Port} {f : PortState → PortState} {s : State} : (upPort p f s).ev = s.ev := rfl
@[simp] theorem upPort_draws {p : Port} {f : PortState → PortState} {s : State} : (upPort p f s).draws = s.draws := rfl
@[simp] theorem upPort_pending {p : Port} {f : PortState → PortState} {s : State} : (upPort p f s).pending = s.pending := rfl

/-! ## restartHold -/

@[simp] theorem restartHold_now {s : State} : (restartHold s).now = s.now := rfl
@[simp] theorem restartHold_ka {s : State} : (restartHold s).ka = s.ka := rfl
@[simp] theorem restartHold_cfg {s : State} : (restartHold s).cfg = s.cfg := rfl
@[simp] theorem restartHold_node {s : State} : (restartHold s).node = s.node := rfl
@[simp] theorem restartHold_span {s : State} : (restartHold s).span = s.span := rfl
@[simp] theorem restartHold_cl {s : State} : (restartHold s).cl = s.cl := rfl
@[simp] theorem restartHold_svc {s : State} : (restartHold s).svc = s.svc := rfl
@[simp] theorem restartHold_ports {s : State} : (restartHold s).ports = s.ports := rfl
@[simp] theorem restartHold_relay {s : State} : (restartHold s).relay = s.relay := rfl
@[simp] theorem restartHold_rd {s : State} : (restartHold s).rd = s.rd := rfl
@[simp] theorem restartHold_st {s : State} : (restartHold s).st = s.st := rfl
@[simp] theorem restartHold_nv {s : State} : (restartHold s).nv = s.nv := rfl
@[simp] theorem restartHold_fail {s : State} : (restartHold s).fail = s.fail := rfl
@[simp] theorem restartHold_cnt {s : State} : (restartHold s).cnt = s.cnt := rfl
@[simp] theorem restartHold_sec {s : State} : (restartHold s).sec = s.sec := rfl
@[simp] theorem restartHold_fw {s : State} : (restartHold s).fw = s.fw := rfl
@[simp] theorem restartHold_ev {s : State} : (restartHold s).ev = s.ev := rfl
@[simp] theorem restartHold_draws {s : State} : (restartHold s).draws = s.draws := rfl
@[simp] theorem restartHold_pending {s : State} : (restartHold s).pending = s.pending := rfl

/-! ## spend -/

@[simp] theorem spend_now {s : State} : (spend s).now = s.now := rfl
@[simp] theorem spend_ka {s : State} : (spend s).ka = s.ka := rfl
@[simp] theorem spend_pw {s : State} : (spend s).pw = s.pw := rfl
@[simp] theorem spend_cfg {s : State} : (spend s).cfg = s.cfg := rfl
@[simp] theorem spend_node {s : State} : (spend s).node = s.node := rfl
@[simp] theorem spend_span {s : State} : (spend s).span = s.span := rfl
@[simp] theorem spend_cl {s : State} : (spend s).cl = s.cl := rfl
@[simp] theorem spend_svc {s : State} : (spend s).svc = s.svc := rfl
@[simp] theorem spend_ports {s : State} : (spend s).ports = s.ports := rfl
@[simp] theorem spend_relay {s : State} : (spend s).relay = s.relay := rfl
@[simp] theorem spend_rd {s : State} : (spend s).rd = s.rd := rfl
@[simp] theorem spend_st {s : State} : (spend s).st = s.st := rfl
@[simp] theorem spend_nv {s : State} : (spend s).nv = s.nv := rfl
@[simp] theorem spend_fail {s : State} : (spend s).fail = s.fail := rfl
@[simp] theorem spend_cnt {s : State} : (spend s).cnt = s.cnt := rfl
@[simp] theorem spend_sec {s : State} : (spend s).sec = s.sec := rfl
@[simp] theorem spend_fw {s : State} : (spend s).fw = s.fw := rfl
@[simp] theorem spend_ev {s : State} : (spend s).ev = s.ev := rfl
@[simp] theorem spend_pending {s : State} : (spend s).pending = s.pending := rfl

/-! ## addJob -/

@[simp] theorem addJob_now {j : Job} {s : State} : (addJob j s).now = s.now := rfl
@[simp] theorem addJob_ka {j : Job} {s : State} : (addJob j s).ka = s.ka := rfl
@[simp] theorem addJob_pw {j : Job} {s : State} : (addJob j s).pw = s.pw := rfl
@[simp] theorem addJob_cfg {j : Job} {s : State} : (addJob j s).cfg = s.cfg := rfl
@[simp] theorem addJob_node {j : Job} {s : State} : (addJob j s).node = s.node := rfl
@[simp] theorem addJob_span {j : Job} {s : State} : (addJob j s).span = s.span := rfl
@[simp] theorem addJob_cl {j : Job} {s : State} : (addJob j s).cl = s.cl := rfl
@[simp] theorem addJob_svc {j : Job} {s : State} : (addJob j s).svc = s.svc := rfl
@[simp] theorem addJob_ports {j : Job} {s : State} : (addJob j s).ports = s.ports := rfl
@[simp] theorem addJob_relay {j : Job} {s : State} : (addJob j s).relay = s.relay := rfl
@[simp] theorem addJob_rd {j : Job} {s : State} : (addJob j s).rd = s.rd := rfl
@[simp] theorem addJob_st {j : Job} {s : State} : (addJob j s).st = s.st := rfl
@[simp] theorem addJob_fail {j : Job} {s : State} : (addJob j s).fail = s.fail := rfl
@[simp] theorem addJob_cnt {j : Job} {s : State} : (addJob j s).cnt = s.cnt := rfl
@[simp] theorem addJob_sec {j : Job} {s : State} : (addJob j s).sec = s.sec := rfl
@[simp] theorem addJob_fw {j : Job} {s : State} : (addJob j s).fw = s.fw := rfl
@[simp] theorem addJob_ev {j : Job} {s : State} : (addJob j s).ev = s.ev := rfl
@[simp] theorem addJob_draws {j : Job} {s : State} : (addJob j s).draws = s.draws := rfl
@[simp] theorem addJob_pending {j : Job} {s : State} : (addJob j s).pending = s.pending := rfl

/-! ## nvProgram -/

@[simp] theorem nvProgram_now {a : Nat} {l : List Byte} {s : State} : (nvProgram a l s).now = s.now := rfl
@[simp] theorem nvProgram_ka {a : Nat} {l : List Byte} {s : State} : (nvProgram a l s).ka = s.ka := rfl
@[simp] theorem nvProgram_pw {a : Nat} {l : List Byte} {s : State} : (nvProgram a l s).pw = s.pw := rfl
@[simp] theorem nvProgram_cfg {a : Nat} {l : List Byte} {s : State} : (nvProgram a l s).cfg = s.cfg := rfl
@[simp] theorem nvProgram_node {a : Nat} {l : List Byte} {s : State} : (nvProgram a l s).node = s.node := rfl
@[simp] theorem nvProgram_span {a : Nat} {l : List Byte} {s : State} : (nvProgram a l s).span = s.span := rfl
@[simp] theorem nvProgram_cl {a : Nat} {l : List Byte} {s : State} : (nvProgram a l s).cl = s.cl := rfl
@[simp] theorem nvProgram_svc {a : Nat} {l : List Byte} {s : State} : (nvProgram a l s).svc = s.svc := rfl
@[simp] theorem nvProgram_ports {a : Nat} {l : List Byte} {s : State} : (nvProgram a l s).ports = s.ports := rfl
@[simp] theorem nvProgram_relay {a : Nat} {l : List Byte} {s : State} : (nvProgram a l s).relay = s.relay := rfl
@[simp] theorem nvProgram_rd {a : Nat} {l : List Byte} {s : State} : (nvProgram a l s).rd = s.rd := rfl
@[simp] theorem nvProgram_st {a : Nat} {l : List Byte} {s : State} : (nvProgram a l s).st = s.st := rfl
@[simp] theorem nvProgram_fail {a : Nat} {l : List Byte} {s : State} : (nvProgram a l s).fail = s.fail := rfl
@[simp] theorem nvProgram_cnt {a : Nat} {l : List Byte} {s : State} : (nvProgram a l s).cnt = s.cnt := rfl
@[simp] theorem nvProgram_sec {a : Nat} {l : List Byte} {s : State} : (nvProgram a l s).sec = s.sec := rfl
@[simp] theorem nvProgram_fw {a : Nat} {l : List Byte} {s : State} : (nvProgram a l s).fw = s.fw := rfl
@[simp] theorem nvProgram_ev {a : Nat} {l : List Byte} {s : State} : (nvProgram a l s).ev = s.ev := rfl
@[simp] theorem nvProgram_draws {a : Nat} {l : List Byte} {s : State} : (nvProgram a l s).draws = s.draws := rfl
@[simp] theorem nvProgram_pending {a : Nat} {l : List Byte} {s : State} : (nvProgram a l s).pending = s.pending := rfl

/-! ## nvEraseSec -/

@[simp] theorem nvEraseSec_now {n : Nat} {s : State} : (nvEraseSec n s).now = s.now := rfl
@[simp] theorem nvEraseSec_ka {n : Nat} {s : State} : (nvEraseSec n s).ka = s.ka := rfl
@[simp] theorem nvEraseSec_pw {n : Nat} {s : State} : (nvEraseSec n s).pw = s.pw := rfl
@[simp] theorem nvEraseSec_cfg {n : Nat} {s : State} : (nvEraseSec n s).cfg = s.cfg := rfl
@[simp] theorem nvEraseSec_node {n : Nat} {s : State} : (nvEraseSec n s).node = s.node := rfl
@[simp] theorem nvEraseSec_span {n : Nat} {s : State} : (nvEraseSec n s).span = s.span := rfl
@[simp] theorem nvEraseSec_cl {n : Nat} {s : State} : (nvEraseSec n s).cl = s.cl := rfl
@[simp] theorem nvEraseSec_svc {n : Nat} {s : State} : (nvEraseSec n s).svc = s.svc := rfl
@[simp] theorem nvEraseSec_ports {n : Nat} {s : State} : (nvEraseSec n s).ports = s.ports := rfl
@[simp] theorem nvEraseSec_relay {n : Nat} {s : State} : (nvEraseSec n s).relay = s.relay := rfl
@[simp] theorem nvEraseSec_rd {n : Nat} {s : State} : (nvEraseSec n s).rd = s.rd := rfl
@[simp] theorem nvEraseSec_st {n : Nat} {s : State} : (nvEraseSec n s).st = s.st := rfl
@[simp] theorem nvEraseSec_fail {n : Nat} {s : State} : (nvEraseSec n s).fail = s.fail := rfl
@[simp] theorem nvEraseSec_cnt {n : Nat} {s : State} : (nvEraseSec n s).cnt = s.cnt := rfl
@[simp] theorem nvEraseSec_sec {n : Nat} {s : State} : (nvEraseSec n s).sec = s.sec := rfl
@[simp] theorem nvEraseSec_fw {n : Nat} {s : State} : (nvEraseSec n s).fw = s.fw := rfl
@[simp] theorem nvEraseSec_ev {n : Nat} {s : State} : (nvEraseSec n s).ev = s.ev := rfl
@[simp] theorem nvEraseSec_draws {n : Nat} {s : State} : (nvEraseSec n s).draws = s.draws := rfl
@[simp] theorem nvEraseSec_pending {n : Nat} {s : State} : (nvEraseSec n s).pending = s.pending := rfl

/-! ## openClause -/

@[simp] theorem openClause_now {q : Req} {l : List Instr} {late : Byte} {s : State} : (openClause q l late s).now = s.now := rfl
@[simp] theorem openClause_ka {q : Req} {l : List Instr} {late : Byte} {s : State} : (openClause q l late s).ka = s.ka := rfl
@[simp] theorem openClause_pw {q : Req} {l : List Instr} {late : Byte} {s : State} : (openClause q l late s).pw = s.pw := rfl
@[simp] theorem openClause_cfg {q : Req} {l : List Instr} {late : Byte} {s : State} : (openClause q l late s).cfg = s.cfg := rfl
@[simp] theorem openClause_node {q : Req} {l : List Instr} {late : Byte} {s : State} : (openClause q l late s).node = s.node := rfl
@[simp] theorem openClause_span {q : Req} {l : List Instr} {late : Byte} {s : State} : (openClause q l late s).span = s.span := rfl
@[simp] theorem openClause_svc {q : Req} {l : List Instr} {late : Byte} {s : State} : (openClause q l late s).svc = s.svc := rfl
@[simp] theorem openClause_ports {q : Req} {l : List Instr} {late : Byte} {s : State} : (openClause q l late s).ports = s.ports := rfl
@[simp] theorem openClause_relay {q : Req} {l : List Instr} {late : Byte} {s : State} : (openClause q l late s).relay = s.relay := rfl
@[simp] theorem openClause_rd {q : Req} {l : List Instr} {late : Byte} {s : State} : (openClause q l late s).rd = s.rd := rfl
@[simp] theorem openClause_st {q : Req} {l : List Instr} {late : Byte} {s : State} : (openClause q l late s).st = s.st := rfl
@[simp] theorem openClause_nv {q : Req} {l : List Instr} {late : Byte} {s : State} : (openClause q l late s).nv = s.nv := rfl
@[simp] theorem openClause_fail {q : Req} {l : List Instr} {late : Byte} {s : State} : (openClause q l late s).fail = s.fail := rfl
@[simp] theorem openClause_cnt {q : Req} {l : List Instr} {late : Byte} {s : State} : (openClause q l late s).cnt = s.cnt := rfl
@[simp] theorem openClause_sec {q : Req} {l : List Instr} {late : Byte} {s : State} : (openClause q l late s).sec = s.sec := rfl
@[simp] theorem openClause_fw {q : Req} {l : List Instr} {late : Byte} {s : State} : (openClause q l late s).fw = s.fw := rfl
@[simp] theorem openClause_ev {q : Req} {l : List Instr} {late : Byte} {s : State} : (openClause q l late s).ev = s.ev := rfl
@[simp] theorem openClause_draws {q : Req} {l : List Instr} {late : Byte} {s : State} : (openClause q l late s).draws = s.draws := rfl
@[simp] theorem openClause_pending {q : Req} {l : List Instr} {late : Byte} {s : State} : (openClause q l late s).pending = s.pending := rfl

/-! ## closeClause -/

@[simp] theorem closeClause_now {id : Nat} {s : State} : (closeClause id s).now = s.now := rfl
@[simp] theorem closeClause_ka {id : Nat} {s : State} : (closeClause id s).ka = s.ka := rfl
@[simp] theorem closeClause_pw {id : Nat} {s : State} : (closeClause id s).pw = s.pw := rfl
@[simp] theorem closeClause_cfg {id : Nat} {s : State} : (closeClause id s).cfg = s.cfg := rfl
@[simp] theorem closeClause_node {id : Nat} {s : State} : (closeClause id s).node = s.node := rfl
@[simp] theorem closeClause_span {id : Nat} {s : State} : (closeClause id s).span = s.span := rfl
@[simp] theorem closeClause_svc {id : Nat} {s : State} : (closeClause id s).svc = s.svc := rfl
@[simp] theorem closeClause_ports {id : Nat} {s : State} : (closeClause id s).ports = s.ports := rfl
@[simp] theorem closeClause_relay {id : Nat} {s : State} : (closeClause id s).relay = s.relay := rfl
@[simp] theorem closeClause_rd {id : Nat} {s : State} : (closeClause id s).rd = s.rd := rfl
@[simp] theorem closeClause_st {id : Nat} {s : State} : (closeClause id s).st = s.st := rfl
@[simp] theorem closeClause_nv {id : Nat} {s : State} : (closeClause id s).nv = s.nv := rfl
@[simp] theorem closeClause_fail {id : Nat} {s : State} : (closeClause id s).fail = s.fail := rfl
@[simp] theorem closeClause_cnt {id : Nat} {s : State} : (closeClause id s).cnt = s.cnt := rfl
@[simp] theorem closeClause_sec {id : Nat} {s : State} : (closeClause id s).sec = s.sec := rfl
@[simp] theorem closeClause_fw {id : Nat} {s : State} : (closeClause id s).fw = s.fw := rfl
@[simp] theorem closeClause_ev {id : Nat} {s : State} : (closeClause id s).ev = s.ev := rfl
@[simp] theorem closeClause_draws {id : Nat} {s : State} : (closeClause id s).draws = s.draws := rfl
@[simp] theorem closeClause_pending {id : Nat} {s : State} : (closeClause id s).pending = s.pending := rfl

/-! ## markEvent -/

@[simp] theorem markEvent_now {m : Mark} {s : State} : (markEvent m s).now = s.now := rfl
@[simp] theorem markEvent_ka {m : Mark} {s : State} : (markEvent m s).ka = s.ka := rfl
@[simp] theorem markEvent_pw {m : Mark} {s : State} : (markEvent m s).pw = s.pw := rfl
@[simp] theorem markEvent_cfg {m : Mark} {s : State} : (markEvent m s).cfg = s.cfg := rfl
@[simp] theorem markEvent_node {m : Mark} {s : State} : (markEvent m s).node = s.node := rfl
@[simp] theorem markEvent_span {m : Mark} {s : State} : (markEvent m s).span = s.span := rfl
@[simp] theorem markEvent_cl {m : Mark} {s : State} : (markEvent m s).cl = s.cl := rfl
@[simp] theorem markEvent_svc {m : Mark} {s : State} : (markEvent m s).svc = s.svc := rfl
@[simp] theorem markEvent_ports {m : Mark} {s : State} : (markEvent m s).ports = s.ports := rfl
@[simp] theorem markEvent_relay {m : Mark} {s : State} : (markEvent m s).relay = s.relay := rfl
@[simp] theorem markEvent_rd {m : Mark} {s : State} : (markEvent m s).rd = s.rd := rfl
@[simp] theorem markEvent_st {m : Mark} {s : State} : (markEvent m s).st = s.st := rfl
@[simp] theorem markEvent_nv {m : Mark} {s : State} : (markEvent m s).nv = s.nv := rfl
@[simp] theorem markEvent_fail {m : Mark} {s : State} : (markEvent m s).fail = s.fail := rfl
@[simp] theorem markEvent_cnt {m : Mark} {s : State} : (markEvent m s).cnt = s.cnt := rfl
@[simp] theorem markEvent_sec {m : Mark} {s : State} : (markEvent m s).sec = s.sec := rfl
@[simp] theorem markEvent_fw {m : Mark} {s : State} : (markEvent m s).fw = s.fw := rfl
@[simp] theorem markEvent_draws {m : Mark} {s : State} : (markEvent m s).draws = s.draws := rfl
@[simp] theorem markEvent_pending {m : Mark} {s : State} : (markEvent m s).pending = s.pending := rfl

/-! ## touchStage -/

@[simp] theorem touchStage_now {s : State} : (touchStage s).now = s.now := rfl
@[simp] theorem touchStage_ka {s : State} : (touchStage s).ka = s.ka := rfl
@[simp] theorem touchStage_pw {s : State} : (touchStage s).pw = s.pw := rfl
@[simp] theorem touchStage_cfg {s : State} : (touchStage s).cfg = s.cfg := rfl
@[simp] theorem touchStage_node {s : State} : (touchStage s).node = s.node := rfl
@[simp] theorem touchStage_span {s : State} : (touchStage s).span = s.span := rfl
@[simp] theorem touchStage_cl {s : State} : (touchStage s).cl = s.cl := rfl
@[simp] theorem touchStage_svc {s : State} : (touchStage s).svc = s.svc := rfl
@[simp] theorem touchStage_ports {s : State} : (touchStage s).ports = s.ports := rfl
@[simp] theorem touchStage_relay {s : State} : (touchStage s).relay = s.relay := rfl
@[simp] theorem touchStage_rd {s : State} : (touchStage s).rd = s.rd := rfl
@[simp] theorem touchStage_nv {s : State} : (touchStage s).nv = s.nv := rfl
@[simp] theorem touchStage_fail {s : State} : (touchStage s).fail = s.fail := rfl
@[simp] theorem touchStage_cnt {s : State} : (touchStage s).cnt = s.cnt := rfl
@[simp] theorem touchStage_sec {s : State} : (touchStage s).sec = s.sec := rfl
@[simp] theorem touchStage_fw {s : State} : (touchStage s).fw = s.fw := rfl
@[simp] theorem touchStage_ev {s : State} : (touchStage s).ev = s.ev := rfl
@[simp] theorem touchStage_draws {s : State} : (touchStage s).draws = s.draws := rfl
@[simp] theorem touchStage_pending {s : State} : (touchStage s).pending = s.pending := rfl

/-! ## placeImage -/

@[simp] theorem placeImage_now {f : OutFrame} {event : Bool} {s : State} : (placeImage f event s).now = s.now := rfl
@[simp] theorem placeImage_ka {f : OutFrame} {event : Bool} {s : State} : (placeImage f event s).ka = s.ka := rfl
@[simp] theorem placeImage_pw {f : OutFrame} {event : Bool} {s : State} : (placeImage f event s).pw = s.pw := rfl
@[simp] theorem placeImage_cfg {f : OutFrame} {event : Bool} {s : State} : (placeImage f event s).cfg = s.cfg := rfl
@[simp] theorem placeImage_node {f : OutFrame} {event : Bool} {s : State} : (placeImage f event s).node = s.node := rfl
@[simp] theorem placeImage_span {f : OutFrame} {event : Bool} {s : State} : (placeImage f event s).span = s.span := rfl
@[simp] theorem placeImage_cl {f : OutFrame} {event : Bool} {s : State} : (placeImage f event s).cl = s.cl := rfl
@[simp] theorem placeImage_ports {f : OutFrame} {event : Bool} {s : State} : (placeImage f event s).ports = s.ports := rfl
@[simp] theorem placeImage_relay {f : OutFrame} {event : Bool} {s : State} : (placeImage f event s).relay = s.relay := rfl
@[simp] theorem placeImage_rd {f : OutFrame} {event : Bool} {s : State} : (placeImage f event s).rd = s.rd := rfl
@[simp] theorem placeImage_st {f : OutFrame} {event : Bool} {s : State} : (placeImage f event s).st = s.st := rfl
@[simp] theorem placeImage_nv {f : OutFrame} {event : Bool} {s : State} : (placeImage f event s).nv = s.nv := rfl
@[simp] theorem placeImage_fail {f : OutFrame} {event : Bool} {s : State} : (placeImage f event s).fail = s.fail := rfl
@[simp] theorem placeImage_cnt {f : OutFrame} {event : Bool} {s : State} : (placeImage f event s).cnt = s.cnt := rfl
@[simp] theorem placeImage_sec {f : OutFrame} {event : Bool} {s : State} : (placeImage f event s).sec = s.sec := rfl
@[simp] theorem placeImage_fw {f : OutFrame} {event : Bool} {s : State} : (placeImage f event s).fw = s.fw := rfl
@[simp] theorem placeImage_ev {f : OutFrame} {event : Bool} {s : State} : (placeImage f event s).ev = s.ev := rfl
@[simp] theorem placeImage_draws {f : OutFrame} {event : Bool} {s : State} : (placeImage f event s).draws = s.draws := rfl
@[simp] theorem placeImage_pending {f : OutFrame} {event : Bool} {s : State} : (placeImage f event s).pending = s.pending := rfl

/-! ## The transmitter and the queue: only `span` can change -/

/-- An attempt that begins changes the Spanline state only. -/
theorem startNext_frame (s : State) : ∃ x, startNext s = { s with span := x } := by
  unfold startNext
  split
  · exact ⟨_, rfl⟩
  · exact ⟨_, rfl⟩
  · split
    · exact ⟨_, rfl⟩
    · exact ⟨_, rfl⟩

/-- A frame handed over on an idle bus changes the Spanline state only. -/
theorem sendIdle_frame (s : State) : ∃ x, sendIdle s = { s with span := x } := by
  unfold sendIdle
  split
  · exact startNext_frame s
  · exact ⟨_, rfl⟩

/-- A filled queue changes the Spanline state only. -/
theorem fillQueue_frame (s : State) : ∃ x, fillQueue s = { s with span := x } := by
  obtain ⟨x, h⟩ := sendIdle_frame { s with
    span.outQ := s.span.outQ ++ s.span.overflow.take (Config.queuePlaces - s.span.outQ.length)
    span.overflow := s.span.overflow.drop (Config.queuePlaces - s.span.outQ.length) }
  exact ⟨x, h⟩

@[simp] theorem startNext_now (s : State) : (startNext s).now = s.now := by obtain ⟨_, h⟩ := startNext_frame s; rw [h]
@[simp] theorem startNext_ka (s : State) : (startNext s).ka = s.ka := by obtain ⟨_, h⟩ := startNext_frame s; rw [h]
@[simp] theorem startNext_pw (s : State) : (startNext s).pw = s.pw := by obtain ⟨_, h⟩ := startNext_frame s; rw [h]
@[simp] theorem startNext_cfg (s : State) : (startNext s).cfg = s.cfg := by obtain ⟨_, h⟩ := startNext_frame s; rw [h]
@[simp] theorem startNext_node (s : State) : (startNext s).node = s.node := by obtain ⟨_, h⟩ := startNext_frame s; rw [h]
@[simp] theorem startNext_cl (s : State) : (startNext s).cl = s.cl := by obtain ⟨_, h⟩ := startNext_frame s; rw [h]
@[simp] theorem startNext_svc (s : State) : (startNext s).svc = s.svc := by obtain ⟨_, h⟩ := startNext_frame s; rw [h]
@[simp] theorem startNext_ports (s : State) : (startNext s).ports = s.ports := by obtain ⟨_, h⟩ := startNext_frame s; rw [h]
@[simp] theorem startNext_relay (s : State) : (startNext s).relay = s.relay := by obtain ⟨_, h⟩ := startNext_frame s; rw [h]
@[simp] theorem startNext_rd (s : State) : (startNext s).rd = s.rd := by obtain ⟨_, h⟩ := startNext_frame s; rw [h]
@[simp] theorem startNext_st (s : State) : (startNext s).st = s.st := by obtain ⟨_, h⟩ := startNext_frame s; rw [h]
@[simp] theorem startNext_nv (s : State) : (startNext s).nv = s.nv := by obtain ⟨_, h⟩ := startNext_frame s; rw [h]
@[simp] theorem startNext_fail (s : State) : (startNext s).fail = s.fail := by obtain ⟨_, h⟩ := startNext_frame s; rw [h]
@[simp] theorem startNext_cnt (s : State) : (startNext s).cnt = s.cnt := by obtain ⟨_, h⟩ := startNext_frame s; rw [h]
@[simp] theorem startNext_sec (s : State) : (startNext s).sec = s.sec := by obtain ⟨_, h⟩ := startNext_frame s; rw [h]
@[simp] theorem startNext_fw (s : State) : (startNext s).fw = s.fw := by obtain ⟨_, h⟩ := startNext_frame s; rw [h]
@[simp] theorem startNext_ev (s : State) : (startNext s).ev = s.ev := by obtain ⟨_, h⟩ := startNext_frame s; rw [h]
@[simp] theorem startNext_draws (s : State) : (startNext s).draws = s.draws := by obtain ⟨_, h⟩ := startNext_frame s; rw [h]
@[simp] theorem startNext_pending (s : State) : (startNext s).pending = s.pending := by obtain ⟨_, h⟩ := startNext_frame s; rw [h]

@[simp] theorem sendIdle_now (s : State) : (sendIdle s).now = s.now := by obtain ⟨_, h⟩ := sendIdle_frame s; rw [h]
@[simp] theorem sendIdle_ka (s : State) : (sendIdle s).ka = s.ka := by obtain ⟨_, h⟩ := sendIdle_frame s; rw [h]
@[simp] theorem sendIdle_pw (s : State) : (sendIdle s).pw = s.pw := by obtain ⟨_, h⟩ := sendIdle_frame s; rw [h]
@[simp] theorem sendIdle_cfg (s : State) : (sendIdle s).cfg = s.cfg := by obtain ⟨_, h⟩ := sendIdle_frame s; rw [h]
@[simp] theorem sendIdle_node (s : State) : (sendIdle s).node = s.node := by obtain ⟨_, h⟩ := sendIdle_frame s; rw [h]
@[simp] theorem sendIdle_cl (s : State) : (sendIdle s).cl = s.cl := by obtain ⟨_, h⟩ := sendIdle_frame s; rw [h]
@[simp] theorem sendIdle_svc (s : State) : (sendIdle s).svc = s.svc := by obtain ⟨_, h⟩ := sendIdle_frame s; rw [h]
@[simp] theorem sendIdle_ports (s : State) : (sendIdle s).ports = s.ports := by obtain ⟨_, h⟩ := sendIdle_frame s; rw [h]
@[simp] theorem sendIdle_relay (s : State) : (sendIdle s).relay = s.relay := by obtain ⟨_, h⟩ := sendIdle_frame s; rw [h]
@[simp] theorem sendIdle_rd (s : State) : (sendIdle s).rd = s.rd := by obtain ⟨_, h⟩ := sendIdle_frame s; rw [h]
@[simp] theorem sendIdle_st (s : State) : (sendIdle s).st = s.st := by obtain ⟨_, h⟩ := sendIdle_frame s; rw [h]
@[simp] theorem sendIdle_nv (s : State) : (sendIdle s).nv = s.nv := by obtain ⟨_, h⟩ := sendIdle_frame s; rw [h]
@[simp] theorem sendIdle_fail (s : State) : (sendIdle s).fail = s.fail := by obtain ⟨_, h⟩ := sendIdle_frame s; rw [h]
@[simp] theorem sendIdle_cnt (s : State) : (sendIdle s).cnt = s.cnt := by obtain ⟨_, h⟩ := sendIdle_frame s; rw [h]
@[simp] theorem sendIdle_sec (s : State) : (sendIdle s).sec = s.sec := by obtain ⟨_, h⟩ := sendIdle_frame s; rw [h]
@[simp] theorem sendIdle_fw (s : State) : (sendIdle s).fw = s.fw := by obtain ⟨_, h⟩ := sendIdle_frame s; rw [h]
@[simp] theorem sendIdle_ev (s : State) : (sendIdle s).ev = s.ev := by obtain ⟨_, h⟩ := sendIdle_frame s; rw [h]
@[simp] theorem sendIdle_draws (s : State) : (sendIdle s).draws = s.draws := by obtain ⟨_, h⟩ := sendIdle_frame s; rw [h]
@[simp] theorem sendIdle_pending (s : State) : (sendIdle s).pending = s.pending := by obtain ⟨_, h⟩ := sendIdle_frame s; rw [h]

@[simp] theorem fillQueue_now (s : State) : (fillQueue s).now = s.now := by obtain ⟨_, h⟩ := fillQueue_frame s; rw [h]
@[simp] theorem fillQueue_ka (s : State) : (fillQueue s).ka = s.ka := by obtain ⟨_, h⟩ := fillQueue_frame s; rw [h]
@[simp] theorem fillQueue_pw (s : State) : (fillQueue s).pw = s.pw := by obtain ⟨_, h⟩ := fillQueue_frame s; rw [h]
@[simp] theorem fillQueue_cfg (s : State) : (fillQueue s).cfg = s.cfg := by obtain ⟨_, h⟩ := fillQueue_frame s; rw [h]
@[simp] theorem fillQueue_node (s : State) : (fillQueue s).node = s.node := by obtain ⟨_, h⟩ := fillQueue_frame s; rw [h]
@[simp] theorem fillQueue_cl (s : State) : (fillQueue s).cl = s.cl := by obtain ⟨_, h⟩ := fillQueue_frame s; rw [h]
@[simp] theorem fillQueue_svc (s : State) : (fillQueue s).svc = s.svc := by obtain ⟨_, h⟩ := fillQueue_frame s; rw [h]
@[simp] theorem fillQueue_ports (s : State) : (fillQueue s).ports = s.ports := by obtain ⟨_, h⟩ := fillQueue_frame s; rw [h]
@[simp] theorem fillQueue_relay (s : State) : (fillQueue s).relay = s.relay := by obtain ⟨_, h⟩ := fillQueue_frame s; rw [h]
@[simp] theorem fillQueue_rd (s : State) : (fillQueue s).rd = s.rd := by obtain ⟨_, h⟩ := fillQueue_frame s; rw [h]
@[simp] theorem fillQueue_st (s : State) : (fillQueue s).st = s.st := by obtain ⟨_, h⟩ := fillQueue_frame s; rw [h]
@[simp] theorem fillQueue_nv (s : State) : (fillQueue s).nv = s.nv := by obtain ⟨_, h⟩ := fillQueue_frame s; rw [h]
@[simp] theorem fillQueue_fail (s : State) : (fillQueue s).fail = s.fail := by obtain ⟨_, h⟩ := fillQueue_frame s; rw [h]
@[simp] theorem fillQueue_cnt (s : State) : (fillQueue s).cnt = s.cnt := by obtain ⟨_, h⟩ := fillQueue_frame s; rw [h]
@[simp] theorem fillQueue_sec (s : State) : (fillQueue s).sec = s.sec := by obtain ⟨_, h⟩ := fillQueue_frame s; rw [h]
@[simp] theorem fillQueue_fw (s : State) : (fillQueue s).fw = s.fw := by obtain ⟨_, h⟩ := fillQueue_frame s; rw [h]
@[simp] theorem fillQueue_ev (s : State) : (fillQueue s).ev = s.ev := by obtain ⟨_, h⟩ := fillQueue_frame s; rw [h]
@[simp] theorem fillQueue_draws (s : State) : (fillQueue s).draws = s.draws := by obtain ⟨_, h⟩ := fillQueue_frame s; rw [h]
@[simp] theorem fillQueue_pending (s : State) : (fillQueue s).pending = s.pending := by obtain ⟨_, h⟩ := fillQueue_frame s; rw [h]

/-! ## What they change -/

@[simp] theorem restartHold_restDue {s : State} :
    (restartHold s).pw.restDue = s.now + Config.msPs * s.cfg.restHold := rfl
@[simp] theorem restartHold_restFree {s : State} : (restartHold s).pw.restFree = false := rfl
@[simp] theorem restartHold_mode {s : State} : (restartHold s).pw.mode = s.pw.mode := rfl
@[simp] theorem spend_draws {s : State} : (spend s).draws = s.draws + 1 := rfl
@[simp] theorem addJob_jobs {j : Job} {s : State} : (addJob j s).nv.jobs = s.nv.jobs ++ [j] := rfl
@[simp] theorem addJob_mem {j : Job} {s : State} : (addJob j s).nv.mem = s.nv.mem := rfl
@[simp] theorem addJob_running {j : Job} {s : State} : (addJob j s).nv.running = s.nv.running := rfl
@[simp] theorem nvProgram_mem {a : Nat} {l : List Byte} {s : State} :
    (nvProgram a l s).nv.mem = programAt s.nv.mem a l := rfl
@[simp] theorem nvEraseSec_mem {n : Nat} {s : State} : (nvEraseSec n s).nv.mem = eraseSector s.nv.mem n := rfl
@[simp] theorem openClause_nextId {q : Req} {l : List Instr} {late : Byte} {s : State} :
    (openClause q l late s).cl.nextId = s.cl.nextId + 1 := rfl
@[simp] theorem placeImage_out {f : OutFrame} {event : Bool} {s : State} :
    (placeImage f event s).svc.out =
      some { bytes := frameBytes f, event := event, op := f.op, begun := false, clause := f.clause } := rfl

/-- The port that was replaced. -/
@[simp] theorem setPort_get_self {p : Port} {x : PortState} {s : State} : (setPort p x s).ports.get p = x := by
  show (s.ports.set p.val x)[p.val] = x
  simp

/-- The other ports. -/
theorem setPort_get_of_ne {p r : Port} {x : PortState} {s : State} (h : r ≠ p) :
    (setPort p x s).ports.get r = s.ports.get r := by
  have : p.val ≠ r.val := fun e => h (Fin.ext e.symm)
  show (s.ports.set p.val x)[r.val] = s.ports[r.val]
  simp [this]

/-! ## Elapsed time -/

/-- A port whose frame is past its instant changes the ports and SKIP's mark only. -/
theorem dueOver_frame (s : State) (p : Port) : ∃ x m, dueOver s p = { s with ports := x, span.skipMark := m } := by
  unfold dueOver
  split
  · split
    · exact ⟨_, _, rfl⟩
    · exact ⟨_, _, rfl⟩
  · exact ⟨_, _, rfl⟩

/-- The same for any list of ports. -/
theorem dueOvers_frame (l : List Port) (s : State) :
    ∃ x m, l.foldl dueOver s = { s with ports := x, span.skipMark := m } := by
  induction l generalizing s with
  | nil => exact ⟨_, _, rfl⟩
  | cons p l ih =>
    obtain ⟨x, m, h⟩ := dueOver_frame s p
    obtain ⟨y, n, h'⟩ := ih (dueOver s p)
    exact ⟨y, n, by rw [List.foldl_cons, h', h]⟩

/-- The clock changes the instant and the keep-alive registers only. -/
theorem clockOn_frame (dt : Nat) (s : State) : ∃ k, clockOn dt s = { s with now := s.now + dt, ka := k } := by
  unfold clockOn
  split
  · exact ⟨_, rfl⟩
  · exact ⟨_, rfl⟩

/-- Elapsed time changes the instant, the keep-alive registers, the ports and SKIP's mark, and nothing else. -/
theorem elapse_frame (dt : Nat) (s : State) :
    ∃ k x m, elapse dt s = { s with now := s.now + dt, ka := k, ports := x, span.skipMark := m } := by
  obtain ⟨k, h⟩ := clockOn_frame dt s
  obtain ⟨x, m, h'⟩ := dueOvers_frame allPorts (clockOn dt s)
  exact ⟨k, x, m, by rw [elapse, h', h]⟩

@[simp] theorem elapse_pw {dt : Nat} {s : State} : (elapse dt s).pw = s.pw := by
  obtain ⟨_, _, _, h⟩ := elapse_frame dt s; rw [h]
@[simp] theorem elapse_cfg {dt : Nat} {s : State} : (elapse dt s).cfg = s.cfg := by
  obtain ⟨_, _, _, h⟩ := elapse_frame dt s; rw [h]
@[simp] theorem elapse_node {dt : Nat} {s : State} : (elapse dt s).node = s.node := by
  obtain ⟨_, _, _, h⟩ := elapse_frame dt s; rw [h]
@[simp] theorem elapse_cl {dt : Nat} {s : State} : (elapse dt s).cl = s.cl := by
  obtain ⟨_, _, _, h⟩ := elapse_frame dt s; rw [h]
@[simp] theorem elapse_svc {dt : Nat} {s : State} : (elapse dt s).svc = s.svc := by
  obtain ⟨_, _, _, h⟩ := elapse_frame dt s; rw [h]
@[simp] theorem elapse_relay {dt : Nat} {s : State} : (elapse dt s).relay = s.relay := by
  obtain ⟨_, _, _, h⟩ := elapse_frame dt s; rw [h]
@[simp] theorem elapse_rd {dt : Nat} {s : State} : (elapse dt s).rd = s.rd := by
  obtain ⟨_, _, _, h⟩ := elapse_frame dt s; rw [h]
@[simp] theorem elapse_st {dt : Nat} {s : State} : (elapse dt s).st = s.st := by
  obtain ⟨_, _, _, h⟩ := elapse_frame dt s; rw [h]
@[simp] theorem elapse_nv {dt : Nat} {s : State} : (elapse dt s).nv = s.nv := by
  obtain ⟨_, _, _, h⟩ := elapse_frame dt s; rw [h]
@[simp] theorem elapse_fail {dt : Nat} {s : State} : (elapse dt s).fail = s.fail := by
  obtain ⟨_, _, _, h⟩ := elapse_frame dt s; rw [h]
@[simp] theorem elapse_cnt {dt : Nat} {s : State} : (elapse dt s).cnt = s.cnt := by
  obtain ⟨_, _, _, h⟩ := elapse_frame dt s; rw [h]
@[simp] theorem elapse_sec {dt : Nat} {s : State} : (elapse dt s).sec = s.sec := by
  obtain ⟨_, _, _, h⟩ := elapse_frame dt s; rw [h]
@[simp] theorem elapse_fw {dt : Nat} {s : State} : (elapse dt s).fw = s.fw := by
  obtain ⟨_, _, _, h⟩ := elapse_frame dt s; rw [h]
@[simp] theorem elapse_ev {dt : Nat} {s : State} : (elapse dt s).ev = s.ev := by
  obtain ⟨_, _, _, h⟩ := elapse_frame dt s; rw [h]
@[simp] theorem elapse_draws {dt : Nat} {s : State} : (elapse dt s).draws = s.draws := by
  obtain ⟨_, _, _, h⟩ := elapse_frame dt s; rw [h]
@[simp] theorem elapse_pending {dt : Nat} {s : State} : (elapse dt s).pending = s.pending := by
  obtain ⟨_, _, _, h⟩ := elapse_frame dt s; rw [h]
@[simp] theorem elapse_now {dt : Nat} {s : State} : (elapse dt s).now = s.now + dt := by
  obtain ⟨_, _, _, h⟩ := elapse_frame dt s; rw [h]
@[simp] theorem elapse_ring {dt : Nat} {s : State} : (elapse dt s).span.ring = s.span.ring := by
  obtain ⟨_, _, _, h⟩ := elapse_frame dt s; rw [h]
@[simp] theorem elapse_outQ {dt : Nat} {s : State} : (elapse dt s).span.outQ = s.span.outQ := by
  obtain ⟨_, _, _, h⟩ := elapse_frame dt s; rw [h]

/-- Where no port waits with a frame, elapsed time is the clock alone. -/
theorem elapse_of_idle (dt : Nat) (s : State) (h : ∀ p, (s.ports.get p).due = none) : elapse dt s = clockOn dt s := by
  have hk : ∀ p, ((clockOn dt s).ports.get p).due = none := by
    obtain ⟨_, h'⟩ := clockOn_frame dt s
    rw [h']
    exact h
  have hl : ∀ l : List Port, l.foldl dueOver (clockOn dt s) = clockOn dt s := by
    intro l
    induction l with
    | nil => rfl
    | cons p l ih =>
      have : dueOver (clockOn dt s) p = clockOn dt s := by simp only [dueOver, hk]
      rw [List.foldl_cons, this, ih]
  exact hl _

/-- WT counts as the clock says, whatever the ports do. -/
theorem elapse_ka (dt : Nat) (s : State) : (elapse dt s).ka = (clockOn dt s).ka := by
  obtain ⟨_, _, h⟩ := dueOvers_frame allPorts (clockOn dt s)
  rw [elapse, h]

end Sys2Proof.Machine
end

