-- ==== Sys2Proof/Laws/Verb.lean ====
section
/-!
SUPPORT. A verb's clause that takes effect at the boundary that falls now (07): what `runVerb` answers where the verb's own
checks pass, with an answer now or with one that comes later, and where they fail.
-/
namespace Sys2Proof.Machine

/-- The boundary data of a clause served now (R190, R192). -/
def bdNow (q : Req) (s pre : State) : Bd := bdOf q (renderNow s) { id := s.cl.nextId, idx := 0 } pre

/-- The clause of a verb, opened: it has its number and waits. -/
abbrev opened (q : Req) (i : Instr) (s : State) : State := openClause q [i] stOk s

/-- What waits for a verb's result. -/
def waitingOf (q : Req) (op : Byte) (s : State) : Waiting :=
  { id := s.cl.nextId, req := q, entries := [{ op := op, res := none }], late := stOk }

theorem emptyEntries_one {i : Instr} {v : Verb} (hv : verbOf i = some v) :
    emptyEntries [i] = [{ op := v.op, res := none }] := by
  simp [emptyEntries, hv]

/-- A clause that has just been given its number is the only one with it. -/
theorem find_opened {l : List Waiting} {w : Waiting} (h : ∀ x ∈ l, x.id < w.id) :
    ((l ++ [w]).find? fun x => x.id == w.id) = some w := by
  have hn : (l.find? fun x => x.id == w.id) = none := by
    rw [List.find?_eq_none]
    intro x hx
    have := h x hx
    simp only [beq_iff_eq]
    omega
  rw [List.find?_append, hn]
  simp

/-- Closing it leaves those that waited before. -/
theorem filter_opened {l : List Waiting} {w : Waiting} (h : ∀ x ∈ l, x.id < w.id) :
    ((l ++ [w]).filter fun x => x.id != w.id) = l := by
  rw [List.filter_append]
  have h1 : (l.filter fun x => x.id != w.id) = l := by
    rw [List.filter_eq_self]
    intro x hx
    have := h x hx
    simp only [bne_iff_ne, ne_eq]
    omega
  rw [h1]
  simp

/-- A boundary that serves a new clause falls while the NP is not blocked. -/
theorem boundaryFree_blocked {s : State} (h : boundaryFree s = true) : npBlocked s = false := by
  simp only [boundaryFree, Bool.and_eq_true, Bool.not_eq_true'] at h
  exact h.1.1.1.1.2

/-- At such a boundary an untimed verb is served now. -/
theorem runVerb_now {q : Req} {i : Instr} {s : State} (hm : s.pw.mode = .run) (hb : boundaryFree s = true)
    (hq : q.applyAt = none) (hc : checkFrom false q (expectedT s) s.cl.nextId s 0 [i] s = none) :
    runVerb q i s = runNow q i s := by
  have h1 : inRun s = true := by simp [inRun, hm]
  simp only [runVerb, takeVerb, takeUntimed, h1, hq, hb, hc, boundaryFree_blocked hb, Bool.not_true, Bool.false_eq_true,
    if_false, if_true]

/-- The clause of a verb whose checks pass takes effect; its answer, if it has one now, is taken after it. -/
theorem runVerb_serves {q : Req} {i : Instr} {v : Verb} {s : State} (hm : s.pw.mode = .run) (hb : boundaryFree s = true)
    (hq : q.applyAt = none) (hv : verbOf i = some v) (hl : i.lengthOk = true) (hc : ∀ d, checkVerb d v q s = stOk) :
    runVerb q i s = answerAll [(v, bdNow q s (opened q i s))] (restartHold (v.eff (bdNow q s (opened q i s)) (opened q i s))) := by
  have h3 : lateStatus (validNow q [i] s) (renderNow s) s = stOk := by simp [lateStatus, validNow, hq]
  have h4 : checkFrom true q (renderNow s) s.cl.nextId s 0 [i] s = none := by
    simp [checkFrom, hv, hl, hc]
  have h0 : checkFrom false q (expectedT s) s.cl.nextId s 0 [i] s = none := by
    simp [checkFrom, hv, hl, hc]
  rw [runVerb_now hm hb hq h0]
  unfold runNow applyClause
  dsimp only [validNow] at h3 ⊢
  rw [h3]
  rw [show checkFrom true q (renderNow s) s.cl.nextId s 0 [i] { s with now := s.now } = none from h4]
  simp only [effectsFrom, hv, List.isEmpty_cons, List.nil_append]
  rfl

/-- A verb with an answer now: its reply, after its effect and the restart of REST_HOLD. -/
theorem runVerb_answers {q : Req} {i : Instr} {v : Verb} {s s' : State} {st : Byte} {r : List Byte}
    (hm : s.pw.mode = .run) (hb : boundaryFree s = true) (hq : q.applyAt = none) (hi : idsOk s.cl.waiting s.cl.nextId)
    (hv : verbOf i = some v) (hl : i.lengthOk = true) (hc : ∀ d, checkVerb d v q s = stOk)
    (ha : v.ans (bdNow q s (opened q i s)) (restartHold (v.eff (bdNow q s (opened q i s)) (opened q i s)))
      = some (s', st, r))
    (hw : s'.cl.waiting = s.cl.waiting ++ [waitingOf q v.op s]) :
    runVerb q i s = finishClause q [(v.op, st, r)] s.cl.nextId (closeClause s.cl.nextId s') := by
  rw [runVerb_serves hm hb hq hv hl hc]
  have hf := find_opened (l := s.cl.waiting) (w := waitingOf q v.op s) hi
  have hst : (if st = stOk then stOk else st) = st := by
    split <;> simp [*]
  simp only [answerAll, List.foldl_cons, List.foldl_nil]
  rw [ha]
  simp only [waitingOf] at hf hw
  simp only [resolveNow, hw, bdNow, bdOf, hf, hst]
  simp [entriesDone, closeClause, hw]

/-- A verb whose answer comes later: its clause waits. -/
theorem runVerb_waits {q : Req} {i : Instr} {v : Verb} {s : State} (hm : s.pw.mode = .run) (hb : boundaryFree s = true)
    (hq : q.applyAt = none) (hv : verbOf i = some v) (hl : i.lengthOk = true) (hc : ∀ d, checkVerb d v q s = stOk)
    (ha : v.ans (bdNow q s (opened q i s)) (restartHold (v.eff (bdNow q s (opened q i s)) (opened q i s))) = none) :
    runVerb q i s = restartHold (v.eff (bdNow q s (opened q i s)) (opened q i s)) := by
  rw [runVerb_serves hm hb hq hv hl hc]
  simp only [answerAll, List.foldl_cons, List.foldl_nil, ha]

/-- A verb whose checks fail at its take-up: one entry with its status, and nothing else changes (R177, R181). -/
theorem runVerb_rejects {q : Req} {i : Instr} {v : Verb} {s : State} {st : Byte} (hm : s.pw.mode = .run)
    (hn : s.nv.running = none) (hq : q.applyAt = none) (hv : verbOf i = some v) (hl : i.lengthOk = true)
    (hc : checkVerb false v q s = st) (hst : st ≠ stOk) (hb : burnsInstr i = false) :
    runVerb q i s = rejectVerb q (v.op, st, 0) s := by
  have h1 : inRun s = true := by simp [inRun, hm]
  have h2 : npBlocked s = false := by simp [npBlocked, hn]
  have h4 : checkFrom false q (expectedT s) s.cl.nextId s 0 [i] s = some (v.op, st, 0) := by
    simp [checkFrom, hv, hl, hc, hst]
  simp only [runVerb, takeVerb, takeUntimed, h1, hq, h2, h4, hb, Bool.not_true, Bool.false_eq_true, if_false]

/-- Before its boundary a verb is checked, and waits for it in the queue of untimed clauses (R186). -/
theorem runVerb_queued {q : Req} {i : Instr} {v : Verb} {s : State} (hm : s.pw.mode = .run) (hn : s.nv.running = none)
    (hb : boundaryFree s = false) (hq : q.applyAt = none) (hv : verbOf i = some v) (hl : i.lengthOk = true)
    (hc : checkVerb false v q s = stOk) :
    runVerb q i s = { s with cl.ready := s.cl.ready ++ [validNow q [i] s] } := by
  have h1 : inRun s = true := by simp [inRun, hm]
  have h2 : npBlocked s = false := by simp [npBlocked, hn]
  have h4 : checkFrom false q (expectedT s) s.cl.nextId s 0 [i] s = none := by
    simp [checkFrom, hv, hl, hc]
  simp only [runVerb, takeVerb, takeUntimed, h1, hq, hb, h2, h4, Bool.not_true, Bool.false_eq_true, if_false, queueClause, validNow]

end Sys2Proof.Machine
end

