-- ==== Sys2Proof/Tests/Slice0.lean ====
section
/-!
SUPPORT. Tests: the ill-formed terms each check of WellFormed refuses, worked cases of spec/ (each names its chapter), one step of
some commands, and for every statement with hypotheses a state and operands that meet them, each clause at a bound of its range.
-/
namespace Sys2Proof.Tests

open Sys2Proof Sys2Proof.Machine Sys2Proof.Claims

/-- An untimed, authenticated individual clause from controller 0x2001. -/
def q0 : Req :=
  { mbox := .span, dst := 5, src := 0x2001, seq := 7, kind := .individual, noreply := false, auth := true, applyAt := none,
    stamp := 100, rate := 500000 }

/-- The same from the service mailbox. -/
def qs : Req := { q0 with mbox := .svc, rate := 0 }

/-- A quiet node of address 5 in RUN at a boundary of WT 64 000, no job in its store. -/
def s0 : State :=
  { State.reset with cfg.addr := 5, ka.wt := 64000, ka.lost := false, nv.jobs := [], rd.lastT := 63968, pw.lockAt := 0 }

/-- Whether an outcome is a next state with a property. -/
def nextIs (o : Host.Outcome State Fault Refusal) (p : State → Bool) : Bool :=
  match o with
  | .next t => p t
  | _ => false

theorem boundary_s0 : boundaryFree s0 = true := by decide
theorem ready_s0 : Ready q0 s0 := ⟨rfl, boundary_s0, rfl, nofun⟩
theorem ready_qs : Ready qs s0 := ⟨rfl, boundary_s0, rfl, nofun⟩
theorem unlocked_s0 : Unlocked q0 s0 := .inl rfl
theorem noUserJob_s0 : NoUserJob s0 := nofun

/-! ## WellFormed refuses -/

theorem test_wf_length_scene : (Instr.sceneWrite q0 0 0 0 0 [1]).lengthOk = false := by decide
theorem test_wf_length_deck : (Instr.deckWrite q0 0 []).lengthOk = false := by decide
theorem test_wf_length_key : (Instr.secSetkey q0 0 0 [1] 0).lengthOk = false := by decide
theorem test_wf_length_curve : (Instr.curveWrite q0 16 0 0 (List.replicate 101 0)).lengthOk = false := by decide
theorem test_wf_length_nv : (Instr.nvWrite q0 0 []).lengthOk = false := by decide
theorem test_wf_length_chunk : (Instr.fwChunk q0 0 (List.replicate 225 0)).lengthOk = false := by decide +kernel
theorem test_wf_req : (Instr.idRead { qs with kind := .broadcast }).reqOk = false := by decide

/-- A frame at 500 000 bit/s, its SYNC start edge 400 µs before its closure. -/
def frame (c : List Byte) : RxFrame := { sync := 500000, rate := 500000, ago := 400000000, chars := c, broken := false }

theorem test_wf_frame : (Instr.spanlineFrameClose 0 (frame (List.replicate 250 0))).frameOk = false := by decide +kernel
theorem test_wf_register : (Instr.collision 0 128 1).registerOk = false := by decide
theorem test_wf_good : (Instr.levelSet q0 3 15 0x8000).wf = true := by decide

/-! ## Worked cases of spec/ -/

/-- 06, Table 6-2: the CRC after the eight bytes 20 10 00 41 00 01 03 80 is 0x35FF. -/
theorem test_crc16_frame : crc16 [0x20, 0x10, 0x00, 0x41, 0x00, 0x01, 0x03, 0x80] = 0x35FF := by decide +kernel

/-- 08: FF FE 20 50 00 07 01 00 gives 0x2EFA. -/
theorem test_crc16_image : crc16 [0xFF, 0xFE, 0x20, 0x50, 0x00, 0x07, 0x01, 0x00] = 0x2EFA := by decide +kernel

/-- 09: the header of a 4 × 16 DATA frame with FSEQ 0x2A is 0xE9002AB1. -/
theorem test_header : headerOf 1 0xB 0x2A false false = 0xE9002AB1 := by decide +kernel

/-- 09: the CRC-4 of 0x8000 on channel 0 and 0 on the others is 0x9. -/
theorem test_crc4 : crc4 ([0x8000, 0, 0, 0].flatMap (lsbBits 16)) = 9 := by decide +kernel

/-- 09: the side word with the watchdog code 0x20 and nothing else is 0x3100000000000020. -/
theorem test_sideWord : sideWord 0x20 0 0 0 0 = 0x3100000000000020 := by decide +kernel

/-- 03: at 129.5 °C the thermal factor is 50 791. -/
theorem test_thermalFactor : thermalFactor 1036 = 50791 := by decide

/-! ## One step of some commands -/

/-- R373: GROUP.SET with OP 1 sets bits. -/
theorem test_groupSet : nextIs (exec (.groupSet q0 1 6) s0) (fun t => t.cfg.groups == 6) = true := by decide

/-- R382: LEVEL.SET of zone 3 sets the lanes of its mask only. -/
theorem test_levelSet : nextIs (exec (.levelSet q0 3 1 0x1234) s0)
    (fun t => (zoneLane t 3 0).l1 == 0x1234 && (zoneLane t 3 1).l1 == 0) = true := by decide

/-- R196: an error of 300 ticks is a step. -/
theorem test_keystone : nextIs (exec (.timeKeystone q0 400) s0) (fun t => t.ka.corr == some (.step 300)) = true := by decide

/-- R186: between boundaries an untimed verb waits for the next one. -/
theorem test_waits : nextIs (exec (.levelSet q0 3 1 0x1234) { s0 with ka.wt := 64010 })
    (fun t => t.cl.ready.length == 1 && (zoneLane t 3 0).l1 == 0) = true := by decide

/-- The broadcast of no body from 0x2001, with its CRC. -/
def noBody : List Byte := [0, 0, 0x20, 1, 0, 0, 0, 0x8F, 0xCE]

/-- The receiver's FOSC has locked 1 s ago. -/
def sr : State := { s0 with now := 1000000000000 }

/-- R27: with a place in the ring the frame is delivered. -/
theorem test_boundary_ring : nextIs (exec (.spanlineFrameClose 0 (frame noBody)) sr)
    (fun t => t.span.ring.length == 1 && t.span.overrun == 0) = true := by decide +kernel

/-- R215: a data byte joins the image. -/
theorem test_svdata : nextIs (exec (.svdataWrite 0 true 0xFF) { sr with svc.rate := some 9600, svc.idle := false })
    (fun t => t.svc.image == [0xFF]) = true := by decide

/-- 12: NV.WRITE of 200 bytes at 0x10F80 programs the 128 bytes to the page end. -/
theorem test_nvWrite : nextIs (exec (.nvWrite q0 0x10F80 (List.replicate 200 1)) s0)
    (fun t => t.nv.jobs.any fun j => j.ops == [.page 0x10F80 (List.replicate 128 1)]) = true := by decide +kernel

/-- R338: a unit of power-on time. -/
theorem test_powerOnTime : nextIs (exec (.powerOnTimeTick 0) s0) (fun t => t.cnt.pon == 1) = true := by decide

/-- R76: the end of REST_HOLD. -/
theorem test_restHold : nextIs (exec (.restHoldExpiry 250000000000) s0) (fun t => t.pw.restFree) = true := by decide

/-- An empty queue lets one tick pass (log [1]). -/
theorem test_idle : nextIs (step s0) (fun t => t.ka.wt == 64001) = true := by decide

/-! ## Witnesses: the queue, the invariant, time -/

theorem witness_StepKeepsInvariant : s0.Inv ∧ nextIs (step s0) (fun _ => true) = true := by
  refine ⟨⟨?_, ?_, nofun, ?_⟩, ?_⟩
  all_goals first | decide | (simp only [memOk, boundsOk]; decide)

theorem witness_IdleStepPassesOneTick : s0.pending = [] ∧ s0.ka.startIn = 0 ∧ s0.ka.sub < Config.tickPs
    ∧ s0.pw.mode ≠ .darkcut ∧ ({ s0 with pw.mode := .darkcut } : State).pw.mode = .darkcut ∧ s0.ka.slew = 0
    ∧ ({ s0 with ka.slew := 3, ka.slewPhase := 62 } : State).ka.slewPhase < 63
    ∧ 0 < ({ s0 with ka.slew := 3, ka.slewPhase := 63 } : State).ka.slew
    ∧ ({ s0 with ka.slew := -3, ka.slewPhase := 63 } : State).ka.slew < 0 := by decide

/-! ## Witnesses: clauses -/

/-- The row of ID.READ in Table 14-2. -/
def idVerb : Verb :=
  { op := 1, timed := true, prot := false, result := 21, chk := fun _ _ => stOk, eff := fun _ s => s,
    ans := fun _ s => some (ansIdRead s) }

theorem idVerb_is_row (q : Req) : verbOf (.idRead q) = some idVerb := rfl
theorem idVerb_passes (due : Bool) : checkVerb due idVerb q0 s0 = 0 := by cases due <;> decide

theorem witness_VerbsRunOnlyInRun : verbOf (.idRead q0) = some idVerb ∧ (Instr.idRead q0).req? = some q0
    ∧ (Instr.idRead q0).lengthOk = true ∧ Ready q0 s0 ∧ (∀ due, checkVerb due idVerb q0 s0 = 0)
    ∧ ({ s0 with pw.mode := .rest } : State).pw.mode ≠ .run
    ∧ ∃ (b : Bd) (u : State) (r : List Byte), idVerb.ans b s0 = some (u, 0, r) ∧ u.cl.waiting = s0.cl.waiting :=
  ⟨rfl, rfl, rfl, ready_s0, idVerb_passes, nofun, ⟨0, 0, { wt := 0, src := 0, seq := 0 }, q0, { id := 0, idx := 0 }, s0⟩, _, _, rfl,
    rfl⟩

/-- Between boundaries, and during a block. -/
theorem witness_UntimedVerbWaitsDuringBlock :
    let s := { s0 with nv.running := some (.erase 3, true) }
    let u := { s0 with ka.wt := 64010 }
    verbOf (.idRead q0) = some idVerb ∧ (s.pw.mode = .run ∧ s.nv.running ≠ none)
    ∧ u.pw.mode = .run ∧ u.nv.running = none ∧ boundaryFree u = false ∧ checkVerb false idVerb q0 u = 0 := by
  refine ⟨rfl, ?_⟩
  decide

/-- At every bound of R189: one tick past 65 536 back, the last tick ahead and the first beyond; one tick before the boundary's
render time and that tick. -/
theorem witness_TimedClauseIsQueuedOrRejected :
    let s := { s0 with ka.wt := 70016 }
    s.pw.mode = .run ∧ s.nv.running = none ∧ s.ka.lost = false ∧ (4479 : W48).toNat + 65536 < s.ka.wt.toNat
    ∧ s.ka.wt.toNat ≤ (4480 : W48).toNat + 65536 ∧ (16847232 : W48).toNat ≤ s.ka.wt.toNat + 16777216
    ∧ s.ka.wt.toNat + 16777216 < (16847233 : W48).toNat ∧ MaskOk 15
    ∧ 64 ≤ (List.replicate 64 ({ req := q0, verbs := [], held := false, at_ := 0 } : Queued)).length ∧ s.cl.timed.length < 64
    ∧ checkVerb false idVerb { q0 with applyAt := some 70016 } s = 0 ∧ boundaryFree s = true
    ∧ (renderNow s).toNat < (70017 : W48).toNat ∧ (70016 : W48).toNat ≤ (renderNow s).toNat
    ∧ (70016 - 32 : W48).toNat + periodTicks s ≤ (renderNow s).toNat ∧ s.cl.waiting = [] := by
  simp only [MaskOk]
  decide

theorem witness_FailedChecksReject : ¬ MaskOk 0 ∧ ¬ MaskOk 16 ∧ MaskOk 1 ∧ s0.pw.mode = .run ∧ s0.nv.running = none
    ∧ q0.applyAt = none ∧ 12 ≤ (12 : Byte).toNat ∧ (15 : Byte).toNat ≤ 15
    ∧ 47 < (48 : Byte).toNat ∧ 3 < (4 : Byte).toNat ∧ 63 < (64 : Byte).toNat ∧ 0x0FFF < (0x1000 : W16).toNat
    ∧ (1 : W64) ≠ s0.node.uid ∧ ({ s0 with node.member := .hz064 } : State).node.member.ports ≤ (3 : Byte).toNat
    ∧ ({ s0 with sec.locked := true } : State).sec.locked = true ∧ ({ q0 with auth := false } : Req).auth = false
    ∧ (0x0FFF : W16).toNat ≤ 0x0FFF ∧ 1 ≤ (114688 : W32).toNat ∧ (114688 : W32).toNat ≤ 114688 := by
  simp only [MaskOk]
  decide

theorem witness_ReplyIsOneFrame : ({ q0 with noreply := true } : Req).noreply = true ∧ s0.pw.resetReq = none
    ∧ s0.pw.shelfReq = none ∧ (0x10FF : W16).toNat / 256 = 0x10
    ∧ ({ s0 with pw.resetReq := some { waits := some 3, due := none } } : State).pw.resetReq
        = some { waits := some 3, due := none }
    ∧ q0.noreply = false ∧ q0.kind = .individual ∧ q0.mbox = .span ∧ s0.cfg.addr ≠ 0 ∧ q0.src ≠ 0 ∧ q0.src ≠ 0xFFFF
    ∧ q0.src.toNat / 256 ≠ 0x10 ∧ s0.span.outQ.length < 8 ∧ s0.span.overflow = []
    ∧ ({ s0 with span.idle := false } : State).span.idle = false ∧ ({ s0 with span.idle := true } : State).span.idle = true
    ∧ mayTransmit s0 = true ∧ s0.span.lates = [] ∧ s0.span.roll = none ∧ s0.span.outQ = []
    ∧ qs.mbox = .svc ∧ s0.svc.out = none := by decide

/-! ## Witnesses: verbs -/

theorem witness_NodeReadsAnswer : Ready q0 s0 ∧ (254 : Byte) ≠ 0xFF := ⟨ready_s0, by decide⟩

theorem witness_ResetVerbsAsk : Ready qs { s0 with pw.gp3 := false } ∧ qs.mbox = .svc
    ∧ ({ s0 with now := 60000000000000 } : State).now ≤ s0.pw.bootAt + 60000000000000
    ∧ s0.pw.bootAt + 60000000000000 < ({ s0 with now := 60000000000001 } : State).now
    ∧ (0 : Byte) ≠ 0xA5 ∧ q0.mbox = .span :=
  ⟨⟨rfl, by decide, rfl, nofun⟩, by decide⟩

theorem witness_NodeRestStoresSettings : Ready q0 s0 ∧ (2 : Byte).toNat ≤ 2 ∧ (1 : Byte).toNat ≤ 1
    ∧ 50 ≤ (50 : W16).toNat ∧ (60000 : W16).toNat ≤ 60000 ∧ poor s0 = false := ⟨ready_s0, by decide⟩

theorem witness_AddressAndGroupsAreSet : Ready q0 s0 ∧ Unlocked q0 s0 ∧ (0x0FFF : W16).toNat ≤ 0x0FFF :=
  ⟨ready_s0, unlocked_s0, by decide⟩

theorem witness_ClaimWaitsItsHoldoff : Ready q0 s0 ∧ claimAnswers 0 0 q0 s0 = true ∧ claimAnswers 1 1 q0 s0 = false
    ∧ s0.span.claims = [] ∧ s0.pw.resetReq = none ∧ s0.pw.shelfReq = none := ⟨ready_s0, by decide⟩

theorem witness_WinkAndRollcall : Ready q0 s0 ∧ (15 : Byte).toNat < 16 ∧ 16 ≤ (16 : Byte).toNat ∧ (600 : W16).toNat ≤ 600
    ∧ 600 < (601 : W16).toNat ∧ (15 : Byte).toNat < 2 ^ s0.node.member.ports
    ∧ 2 ^ ({ s0 with node.member := .hz064 } : State).node.member.ports ≤ (15 : Byte).toNat
    ∧ (3 : Byte).toNat ≤ 3 ∧ 3 < (4 : Byte).toNat ∧ (1 : W16) ≠ 0 ∧ (0x0FFF - 255 : W16).toNat + (255 : Byte).toNat ≤ 0x0FFF
    ∧ 0x0FFF < (0x0FFF : W16).toNat + (1 : Byte).toNat ∧ s0.cfg.addr ≠ 0 ∧ (5 : W16).toNat ≤ s0.cfg.addr.toNat
    ∧ s0.cfg.addr.toNat ≤ (4 : W16).toNat + (1 : Byte).toNat ∧ ¬ (6 : W16).toNat ≤ s0.cfg.addr.toNat :=
  ⟨ready_s0, by decide⟩

theorem witness_KeystoneCorrectsTime : Ready q0 s0 ∧ q0.mbox = .span ∧ Ready qs s0 ∧ qs.mbox = .svc :=
  ⟨ready_s0, rfl, ready_qs, rfl⟩

theorem witness_FrameClockIsSet : Ready q0 s0 ∧ s0.rd.syncLocked = false ∧ 8 ≤ (8 : W16).toNat ∧ (255 : W16).toNat ≤ 255
    ∧ 16 ≤ (16 : W16).toNat ∧ (512 : W16).toNat ≤ 512 ∧ (1 : Byte).toNat ≤ 1 := ⟨ready_s0, by decide⟩

theorem witness_LanesAreWritten : Ready q0 s0 ∧ MaskOk 15 ∧ (1 : Byte).toNat ≤ 1 ∧ CurveOk 11 ∧ CurveOk 16 ∧ CurveOk 47
    ∧ Names 0xFF 1 255 0 ∧ ¬ Names 3 1 4 0 ∧ laterThan (zoneLane s0 3 0).key (keyNow q0 s0) = false := by
  refine ⟨ready_s0, ?_⟩
  simp only [MaskOk, CurveOk, Names]
  decide

theorem witness_EffectsAndMasterAreWritten : Ready q0 s0 ∧ MaskOk 1 ∧ CurveOk 47 ∧ 8 ≤ (8 : W32).toNat ∧ (1 : Byte).toNat ≤ 1
    ∧ (15 : Byte) ≠ 0 ∧ (15 : Byte).toNat < 16 ∧ laterThan (zoneEffect s0 3).key (keyNow q0 s0) = false := by
  refine ⟨ready_s0, ?_⟩
  simp only [MaskOk, CurveOk]
  decide

/-- Slot 0 of a store whose sector 0x40 holds a valid scene of no record: marks, KIND 3, version 1, GEN 1, CRC, VALID. -/
def sceneMem : Memory :=
  [(262144, 0x5A), (262145, 0xD3), (262146, 3), (262147, 1), (262148, 1), (262149, 0), (262150, 0), (262151, 0), (262152, 0),
   (262153, 0), (262154, 0), (262155, 0), (262156, 0), (262157, 0), (262158, 0), (262159, 0), (262160, 220), (262161, 247),
   (262162, 96), (262163, 59), (262164, 0), (262165, 0), (262166, 0), (262167, 0), (262168, 0), (262169, 0), (262170, 0),
   (262171, 0), (262172, 0xA5), (262173, 0x5A), (262174, 0xC3), (262175, 0x3C)]

theorem test_sceneMem_wf : Memory.wf sceneMem = true := by decide

/-- A job of the user that writes scene slot 63. -/
def sceneJob63 : Job :=
  { kind := .sceneErase 63, user := true, op := 0x34, ops := [.erase 127], tok := none, failed := false }

/-- A store that lists nothing below the second journal sector's end has no journal record. -/
theorem jRecords_above {m : Memory} (h : ∀ e ∈ m, 8192 ≤ e.1) (j : Bool) : jRecords m j = [] := by
  have below : ∀ {l : Memory} {a : Nat}, (∀ e ∈ l, 8192 ≤ e.1) → a < 8192 → tget nvBlank l a = nvBlank a := by
    intro l a
    induction l with
    | nil => exact fun _ _ => rfl
    | cons e t ih =>
      intro hl ha
      obtain ⟨k, v⟩ := e
      have := hl (k, v) (by simp)
      rw [tget, if_neg (by simp only at this; omega)]
      exact ih (fun e he => hl e (by simp [he])) ha
  have : jRecords m j = jRecords [] j := by
    simp only [jRecords]
    rw [List.map_congr_left]
    intro k hk
    refine List.map_congr_left fun i hi => below h ?_
    have : jBase j ≤ 4096 := by cases j <;> decide
    simp at hi hk
    omega
  rw [this]
  cases j <;> decide +kernel

theorem sectorPending_above {m : Memory} (h : ∀ e ∈ m, 8192 ≤ e.1) (sec : Nat) : sectorPending m sec = false := by
  rw [sectorPending, jRecords_above h]
  rfl

theorem sceneUsable_sceneMem : sceneUsable { s0 with nv.mem := sceneMem } 0 = true := by
  rw [sceneUsable, sceneValid, sectorPending_above (by decide : ∀ e ∈ sceneMem, 8192 ≤ e.1)]
  decide +kernel

theorem witness_ScenesAreReadAndRecalled : Ready q0 { s0 with nv.mem := sceneMem } ∧ (63 : Byte).toNat ≤ 63
    ∧ sceneUsable { s0 with nv.mem := sceneMem } 0 = true ∧ sceneBusy s0 0 = false ∧ sceneUsable s0 1 = false
    ∧ sceneBusy { s0 with nv.jobs := [sceneJob63] } 63 = true ∧ (4095 : W16).toNat ≤ 4095
    ∧ 1 ≤ (1 : Byte).toNat ∧ (200 : Byte).toNat ≤ 200 :=
  ⟨⟨rfl, by decide, rfl, nofun⟩, by decide, sceneUsable_sceneMem, by decide +kernel⟩

theorem witness_SceneJobsBegin :
    let f : SceneBuf := { slot := 63, owner := 0x2001, deffade := 0, records := List.replicate 16 0, lastAt := 0 }
    Ready q0 s0 ∧ NoUserJob s0 ∧ (63 : Byte).toNat ≤ 63 ∧ s0.sec.prot ≠ 3
    ∧ (List.replicate 224 (0 : Byte)).length % 16 = 0 ∧ (List.replicate 224 (0 : Byte)).length ≤ 224
    ∧ (∀ r ∈ recordsOf 14 (List.replicate 224 0), recordStatus r = stOk)
    ∧ ({ s0 with nv.sceneBuf := some f } : State).nv.sceneBuf = some f ∧ f.slot = 63 ∧ f.owner = owner q0 ∧ (1 : W16) ≠ 0
    ∧ f.records.length = 16 * (1 : W16).toNat ∧ (240 : W16).toNat + 14 ≤ 254 :=
  ⟨ready_s0, noUserJob_s0, by decide +kernel⟩

theorem witness_DeckIsWrittenAndRead :
    let e : List Byte := List.replicate 24 0
    Ready q0 { s0 with st.owner := some 0x2001 } ∧ (∀ i < 1, ∀ k, 19 ≤ k → k < 24 → e.getD (24 * i + k) 0 = 0)
    ∧ ({ s0 with st.owner := some 0x2001 } : State).st.owner = some (owner q0)
    ∧ e.length = 24 * 1 ∧ (4095 : W16).toNat + 1 ≤ 4096
    ∧ (∀ i < 1, (e.getD (24 * i + 1) 0).toNat < 16 ∧ (e.getD (24 * i + 3) 0).toNat < 16)
    ∧ (∀ i < 1, (4095 + i) % 1024 < s0.node.member.cells ∧ (4095 + i) / 1024 < s0.node.member.ports)
    ∧ s0.st.commit = none ∧ s0.st.loads = [] ∧ s0.rd.stale = none ∧ (1 : Byte).toNat ≤ 1
    ∧ (4087 : W16).toNat + (9 : Byte).toNat ≤ 4096 := by
  refine ⟨⟨rfl, by decide, rfl, nofun⟩, ?_, by decide⟩
  intro i hi k h1 h2
  obtain rfl : i = 0 := by omega
  interval_cases k <;> rfl

theorem witness_StageIsOpenedArmedAborted : Ready q0 s0 ∧ s0.st.owner = none ∧ s0.st.commit = none ∧ s0.st.loads = []
    ∧ ({ s0 with st.owner := some 0x2002 } : State).st.owner = some 0x2002 ∧ (0x2002 : W16) ≠ owner q0 ∧ owner q0 = 0x2001
    ∧ s0.ka.lost = false ∧ s0.ka.wt.toNat ≤ (0 : W48).toNat + 65536
    ∧ (64000 + 16777216 : W48).toNat ≤ s0.ka.wt.toNat + 16777216 := ⟨ready_s0, by decide⟩

theorem witness_DeckIsSavedAndLoaded :
    let l : Load := { first := 0, count := 21, done := 0, failed := false, tok := { id := 0, idx := 0 } }
    Ready q0 s0 ∧ Unlocked q0 s0 ∧ NoUserJob s0 ∧ s0.sec.prot.toNat ≤ 1
    ∧ 1 ≤ (24 : Byte).toNat ∧ (0 : Byte).toNat + (24 : Byte).toNat ≤ 24 ∧ (23 : Byte).toNat + (1 : Byte).toNat ≤ 24
    ∧ ({ s0 with st.owner := some 0x2001 } : State).st.owner = some (owner q0) ∧ s0.st.commit = none ∧ s0.st.loads = []
    ∧ l.first + l.count + 1 ≤ (22 : Byte).toNat :=
  ⟨ready_s0, unlocked_s0, noUserJob_s0, by decide⟩

theorem witness_CurvesAreWrittenAndRead :
    let f : CurveBuf := { id := 16, owner := 0x2001, points := List.replicate 157 0, lastAt := 3 }
    Ready q0 s0 ∧ 16 ≤ (16 : Byte).toNat ∧ (47 : Byte).toNat ≤ 47 ∧ (List.replicate 100 (0 : W16)).length ≤ 100
    ∧ f.points.length = (157 : W16).toNat ∧ ({ s0 with nv.curveBuf := some f } : State).nv.curveBuf = some f
    ∧ f.owner = owner q0 ∧ (157 : W16).toNat + (List.replicate 99 (0 : W16)).length < 257
    ∧ (157 : W16).toNat + (List.replicate 100 (0 : W16)).length = 257 ∧ s0.nv.curveBuf = none ∧ (256 : W16).toNat ≤ 256
    ∧ 1 ≤ (1 : Byte).toNat ∧ (100 : Byte).toNat ≤ 100 ∧ (157 : W16).toNat + (100 : Byte).toNat ≤ 257
    ∧ hasTable s0 47 = false ∧ hasTable { s0 with rd.curves := [(47, List.replicate 257 1)] } 47 = true :=
  ⟨ready_s0, by decide +kernel⟩

theorem witness_PortsAreSetAndRead : Ready q0 s0 ∧ Unlocked q0 s0 ∧ (3 : Byte).toNat < s0.node.member.ports
    ∧ (3 : Byte).toNat < 4 ∧ (2 : Byte).toNat ≤ 2 ∧ (11 : Byte).toNat < 12 ∧ (1 : Byte) ≠ 0 ∧ (1024 : W16) ≠ 0
    ∧ (1024 : W16).toNat ≤ s0.node.member.cells ∧ s0.ports.get 3 = {} := ⟨ready_s0, unlocked_s0, by decide⟩

/-- A node whose port 0 is in OK with 4 cells, and port 1 in BROKEN@2. -/
def sp : State :=
  { s0 with ports := #v[{ state := .ok, cfg := { enable := true, n := 4 } }, { state := .broken 2, cfg := { enable := true, n := 4 } },
                        {}, {}] }

theorem witness_CellVerbsAct : Ready q0 sp
    ∧ (∀ p : Port, (1 : Byte).getLsbD p.val = true → (3 : W16).toNat < (sp.ports.get p).cfg.n
        ∧ ((sp.ports.get p).state = .ok ∨ ∃ k, (sp.ports.get p).state = .broken k ∧ (3 : W16).toNat < k))
    ∧ (1 : Byte) ≠ 0 ∧ (3 : Byte).toNat < 16 ∧ (3 : Byte).toNat < 2 ^ sp.node.member.ports
    ∧ (1 : W16).toNat ≤ (1 : W16).toNat
    ∧ (3 : Port).val < sp.node.member.ports ∧ 1 ≤ (28 : Byte).toNat ∧ (28 : Byte).toNat ≤ 28
    ∧ (0 : W16).toNat + (4 : Byte).toNat ≤ (sp.ports.get 0).cfg.n ∧ (sp.ports.get 0).state = .ok
    ∧ (sp.ports.get 0).cfg.stub = false ∧ (sp.ports.get 0).idents = []
    ∧ (sp.ports.get 1).state = .broken 2 ∧ (0 : W16).toNat + (2 : Byte).toNat ≤ 2
    ∧ (sp.ports.get 1).state ≠ .off ∧ (sp.ports.get 1).state ≠ .relay := by
  refine ⟨⟨rfl, by decide, rfl, nofun⟩, ?_, by decide⟩
  intro p hp
  fin_cases p
  · exact ⟨by decide, .inl rfl⟩
  all_goals exact absurd hp (by decide)

theorem witness_RelayIsSet : Ready q0 s0 ∧ Unlocked q0 s0 ∧ s0.node.member.harvester = true ∧ s0.relay.on = false
    ∧ (3600 : W16).toNat ≤ 3600 ∧ ({ s0 with relay.on := true } : State).relay.on = true
    ∧ ({ s0 with node.member := .hz064 } : State).node.member.harvester = false :=
  ⟨ready_s0, unlocked_s0, by decide⟩

theorem witness_FailuresAreReadAndSet : Ready q0 s0 ∧ (15 : Byte).toNat ≤ 15 ∧ (15 : Byte).toNat / 4 < s0.node.member.ports
    ∧ 256 * ((15 : Byte).toNat % 4) < s0.node.member.cells ∧ 1 ≤ (128 : Byte).toNat ∧ (128 : Byte).toNat ≤ 128
    ∧ (128 : Byte).toNat + (128 : Byte).toNat ≤ 256 ∧ (3 : Byte).toNat < 4 ∧ 0x2000 ≤ (0x2FFF : W16).toNat
    ∧ (0x2FFF : W16).toNat ≤ 0x2FFF ∧ 1 ≤ (15 : Byte).toNat ∧ (15 : Byte).toNat ≤ 15 ∧ (1 : Byte) ≠ 0
    ∧ faultPages s0 = 0 ∧ s0.cfg.notify.push = false ∧ faultPages { s0 with fail.cells := [(4095, { map := 0x01 })] } ≠ 0 := by
  refine ⟨ready_s0, ?_⟩
  decide +kernel

theorem witness_CountersAreReadAndSaved : Ready q0 s0 ∧ NoUserJob s0 ∧ 1 ≤ (56 : Byte).toNat ∧ (56 : Byte).toNat ≤ 56
    ∧ (4040 : W16).toNat + (56 : Byte).toNat ≤ 4096 := ⟨ready_s0, noUserJob_s0, by decide⟩

theorem witness_StoreIsReadAndWritten : Ready q0 s0 ∧ Unlocked q0 s0 ∧ NoUserJob s0 ∧ 1 ≤ (224 : Byte).toNat
    ∧ (224 : Byte).toNat ≤ 224 ∧ (1048352 : W32).toNat + (224 : Byte).toNat ≤ 1024 * s0.node.member.nvKb
    ∧ rawSector s0 16 = true ∧ 4 * (16 : Byte).toNat < s0.node.member.nvKb ∧ 128 ≤ (0xDC : Byte).toNat
    ∧ rawSector s0 0xDC = true ∧ s0.sec.prot = 0 ∧ (69631 : W32).toNat / 4096 = (16 : Byte).toNat
    ∧ (List.replicate 224 (0 : Byte)).length ≤ 224 :=
  ⟨ready_s0, unlocked_s0, noUserJob_s0, by decide +kernel⟩

theorem witness_SecurityIsSet :
    let n : Nonce := { src := 0x2001, value := 9, at_ := 0 }
    let s := { s0 with sec.nonces := [n], now := 59999999999999 }
    Ready q0 s ∧ Unlocked q0 s ∧ (3 : Byte).toNat < 4 ∧ n ∈ s.sec.nonces ∧ n.src = owner q0 ∧ n.value = 9
    ∧ s.now < n.at_ + 60000000000000 ∧ s.sec.locked = false ∧ s.sec.key = none ∧ (List.replicate 16 (0 : Byte)).length = 16
    ∧ nextKeySlot s = some 0 ∧ (∀ j ∈ s.nv.jobs, j.tok = none) ∧ lowReserve s = false
    ∧ ({ s with sec.key := some (List.replicate 16 0) } : State).sec.key.isSome = true ∧ q0.auth = true
    ∧ ({ s with sec.locked := true } : State).sec.locked = true ∧ s.sec.nonces.length ≤ 4 :=
  ⟨⟨rfl, by decide, rfl, nofun⟩, .inl rfl, by decide +kernel⟩

theorem witness_PowerAndPinsAnswer : Ready q0 s0 ∧ (4 : Byte).toNat < 16 ∧ s0.pw.extOn = false
    ∧ (∀ p : Port, (1 : Byte).getLsbD p.val = true →
        (({ s0 with cfg.gpio := Vector.replicate 4 { mode := 3 } } : State).cfg.gpio.get p).mode = 3)
    ∧ (4 : Byte).toNat ≤ 4 ∧ (1 : Byte).toNat ≤ 1 ∧ ((1 : Byte) = 1 → 3 ≤ (4 : Byte).toNat) := ⟨ready_s0, by decide⟩

theorem witness_ReserveAndHarvesterAreSet : Ready q0 s0 ∧ Unlocked q0 s0 ∧ 1 ≤ (1 : Byte).toNat ∧ (2 : Byte).toNat ≤ 2
    ∧ (3 : Byte).toNat ≤ 3 ∧ (10 : Byte).toNat ≤ 10 ∧ (4 : Byte).toNat ≤ 4 ∧ s0.node.member.harvester = true
    ∧ ({ s0 with node.member := .hz064 } : State).node.member.harvester = false :=
  ⟨ready_s0, unlocked_s0, by decide⟩

theorem witness_BusIsSetAndRead : Ready q0 s0 ∧ Unlocked q0 s0 ∧ (3 : Byte).toNat < 4 ∧ 50000 ≤ (50000 : W32).toNat
    ∧ (1050000 : W32).toNat ≤ 1050000 ∧ (1 : Byte).toNat ≤ 1 ∧ 1 < (2 : Byte).toNat :=
  ⟨ready_s0, unlocked_s0, by decide⟩

theorem witness_FirmwareVerbsRun :
    let f : FwSession := { slot := 1, owner := 0x2001, size := 300, held := 0, buf := [], lastAt := 0 }
    Ready q0 s0 ∧ Unlocked q0 s0 ∧ NoUserJob s0 ∧ 1 ≤ (1 : W32).toNat ∧ (114688 : W32).toNat ≤ 114688 ∧ s0.fw.trial = false
    ∧ ({ s0 with fw.session := some f } : State).fw.session = some f ∧ f.owner = owner q0 ∧ (0 : W32).toNat = f.held
    ∧ 1 ≤ (List.replicate 224 (0 : Byte)).length ∧ f.held + 224 < f.size ∧ f.buf.length + 224 < 256 ∧ s0.nv.jobs = []
    ∧ 256 ≤ ({ f with held := 32, buf := List.replicate 32 0 } : FwSession).buf.length + 224
    ∧ ({ f with held := 76 } : FwSession).held + 224 = f.size
    ∧ ({ f with held := 300 } : FwSession).held = f.size ∧ fwPageRuns s0 = false
    ∧ activateSlot { s0 with sec.verified := 3 } ≠ 0 ∧ lowReserve s0 = false
    ∧ ({ s0 with sec.pending := 1 } : State).sec.pending ≠ 0 :=
  ⟨ready_s0, unlocked_s0, noUserJob_s0, by decide +kernel⟩

/-! ## Witnesses: Spanline -/

/-- The broadcast of no body good, its last character wrong, cut short, and too long; an address that is another's; and no more
than one character. -/
theorem witness_FramesAreReceived :
    let f := frame noBody
    let t := elapse 0 sr
    let bad := noBody.take 8 ++ [0xCF]
    (t.pw.mode = .run ∧ t.pw.fosc = true ∧ t.pw.lockAt + f.ago ≤ t.now) ∧ t.span.roll = none ∧ 50000 ≤ 50000 ∧ 1050000 ≤ 1050000
    ∧ f.broken = false ∧ ([0] : List Byte).length < 2 ∧ 2 ≤ noBody.length ∧ matchOf 0 6 t = none
    ∧ matchOf (noBody.getD 0 0) (noBody.getD 1 0) t = some .broadcast ∧ (noBody.take 6).length < 7
    ∧ 7 ≤ (noBody.take 8).length ∧ (noBody.take 8).length < 9 + (noBody.getD 6 0).toNat
    ∧ 240 < (([0, 0, 0x20, 1, 0, 0, 241] : List Byte).getD 6 0).toNat ∧ 9 + (noBody.getD 6 0).toNat ≤ noBody.length
    ∧ crc16 (noBody.take 9) = 0 ∧ crc16 (bad.take 9) ≠ 0 ∧ t.span.ring.length < 16 ∧ (noBody.getD 6 0).toNat < 7
    ∧ 16 ≤ (List.replicate 16 ({ dst := 0, src := 0, seq := 0, body := [], stamp := 0, rate := 0, kind := .broadcast, closed := 0 } :
        RingSlot)).length
    ∧ 18800 ≤ 18800 ∧ 19600 ≤ 19600 ∧ 18799 < 18800 ∧ 19600 < 19601 ∧ 19601 < 50000 ∧ 1050000 < 1050001
    ∧ sr.pw.mode ≠ .darkcut ∧ sr.ka.startIn = 0 ∧ sr.ka.sub < 244140625 ∧ sr.ka.slew = 0 ∧ sr.ka.jumps = [] := by decide +kernel

theorem witness_AddressesMatchByTable : s0.cfg.addr ≠ 0 ∧ ({ s0 with cfg.addr := 0 } : State).cfg.addr = 0
    ∧ 1 ≤ 256 * (0 : Byte).toNat + (1 : Byte).toNat ∧ 256 * (15 : Byte).toNat + (255 : Byte).toNat ≤ 0x0FFF := by decide

theorem witness_ClausesAreTakenUp :
    let body : List Byte := [0x00, 0x20, 0x04, 3, 15, 0x34, 0x12]
    let x : RingSlot := { dst := 5, src := 0x2001, seq := 0, body := body, stamp := 0, rate := 250000, kind := .individual,
                          closed := 8 }
    let k : Track := { src := 0x2001, last := 9, reply := none }
    let t := elapse 0 { s0 with span.ring := [x], cl.track := [k] }
    let img : List Byte := [0xFF, 0xFE, 0x20, 0x50, 0, 0, 7] ++ body ++ [0, 0]
    MaskOk 15 ∧ ({ t with nv.running := some (.erase 3, true) } : State).nv.running ≠ none
    ∧ t.pw.mode = .run ∧ t.nv.running = none ∧ t.span.outQ.length < 8 ∧ t.span.overflow = [] ∧ t.fw.verify = none
    ∧ t.span.ring = x :: [] ∧ t.span.roll = none ∧ t.svc.submitted = false ∧ x.body = body ∧ x.seq = 0
    ∧ ({ x with body := [] } : RingSlot).body = [] ∧ (3 : W16) ≠ 0 ∧ s0.cl.track = []
    ∧ t.cl.track.find? (fun e => e.src == x.src) = some k ∧ (8 : W16) ≠ k.last ∧ 32767 < ((8 : W16) - k.last).toNat
    ∧ ({ s0 with svc.submitted := true } : State).svc.submitted = true ∧ s0.svc.out = none ∧ s0.svc.backlog = []
    ∧ (img.drop 7).take 7 = body ∧ img.getD 6 0 = 7 ∧ be16 img 4 = 0 ∧ s0.span.ring = [] ∧ 7 < x.closed ∧ x.closed ≤ 8 := by
  simp only [MaskOk]
  decide

/-- A frame at the head of the outbound queue. -/
def f0 : OutFrame :=
  { dst := 0x2001, src := 5, seq := 1, body := [0x80, 0, 0], rate := 0, op := 0xFE, attempts := 0, clause := none }

/-- The bit time at 500 000 bit/s is 2 µs, a quarter of it 500 000 ps. -/
theorem witness_FramesAreSent :
    let t := elapse 0 { sr with span.outQ := [f0] }
    MayStart t ∧ t.span.outQ = f0 :: [] ∧ f0.op = 0xFE ∧ f0.clause = none ∧ t.span.overflow = [] ∧ t.ev.marks = []
    ∧ t.svc.backlog = [] ∧ t.span.lates = [] ∧ t.span.roll = none
    ∧ t.span.quietFrom + 33 * 1000000000000 / (t.span.busRate.getD (heldRate t)) ≤ t.now
    ∧ ¬ 1000000000000 / 500000 < 4 * 500000 ∧ 1000000000000 / 500000 < 4 * 500001
    ∧ (let u := { t with span.quietFrom := t.now }
       u.now < u.span.quietFrom + 33 * 1000000000000 / (u.span.busRate.getD (heldRate u)))
    ∧ ({ sr with span.tx := some .queue } : State).span.tx = some .queue ∧ f0.attempts < 16 ∧ t.cfg.addr ≠ 0
    ∧ 16 ≤ ({ f0 with attempts := 16 } : OutFrame).attempts ∧ 54 < 55 ∧ 18800 ≤ 18800 ∧ 19600 ≤ 19600
    ∧ ({ sr with span.wakeHold := some 998250000000 } : State).span.wakeHold = some 998250000000
    ∧ 998250000000 + 1750000000 ≤ sr.now ∧ sr.now < 998250000001 + 1750000000
    ∧ MayStart { t with span.wakeHold := none } := by
  simp only [MayStart]
  decide +kernel

/-- A roll-call of eight slots from address 3, node 5's slot 2, its reply ready. -/
def r0 : RollCall :=
  { src := 0x2010, seq := 0, base := 3, count := 8, kind := 0, rate := 500000, t0 := 77, anchor := 77, anchorSlot := none,
    readyAt := some 80, slot := some 2, frame := some f0, phase := .window }

/-- At the start of slot 2. -/
def rw : State := { sr with now := (slotStart r0 2).1, span.roll := some r0 }

theorem witness_RollCallRuns_query :
    let c : List Byte := [0, 0, 0x20, 1, 0, 0, 7, 0x00, 0x09, 0x04, 1, 0, 255, 3, 92, 87]
    let t := elapse 0 sr
    t.pw.mode = .run ∧ t.pw.fosc = true ∧ t.pw.lockAt + (frame c).ago ≤ t.now ∧ 50000 ≤ (frame c).sync ∧ t.span.roll = none
    ∧ t.span.ring.length < 16 ∧ (frame c).broken = false ∧ (3 : Byte).toNat ≤ 3 ∧ crc16 c = 0
    ∧ 1 ≤ (1 : Byte).toNat + 256 * (0 : Byte).toNat ∧ (0 : Byte).toNat + 256 * (15 : Byte).toNat + (255 : Byte).toNat ≤ 0x0FFF := by
  decide +kernel

theorem witness_RollCallRuns_takeUp :
    let x : RingSlot := { dst := 0, src := 0x2010, seq := 0, body := [0x00, 0x09, 0x04, 3, 0, 7, 0], stamp := 0, rate := 500000,
                          kind := .broadcast, closed := 77 }
    let r := { r0 with readyAt := none, frame := none }
    let t := elapse 0 { sr with span.roll := some r, span.ring := [x] }
    t.span.roll = some r ∧ t.span.ring = x :: [] ∧ x.src = r.src ∧ x.seq = r.seq ∧ x.closed = r.t0 ∧ r.readyAt = none
    ∧ r.slot = some 2 ∧ t.cfg.addr ≠ 0 ∧ x.seq = 0 ∧ 0x2000 ≤ x.src.toNat ∧ x.src.toNat ≤ 0x2FFF
    ∧ x.body = [0x00, 0x09, 0x04, 3, 0, 7, 0] ∧ (0 : Byte).toNat ≤ 3 ∧ t.pw.mode = .run ∧ t.nv.running = none
    ∧ t.span.outQ.length < 8 ∧ t.span.overflow = [] ∧ t.fw.verify = none ∧ t.svc.submitted = false := by decide +kernel

theorem witness_RollCallRuns_slot :
    let t := elapse 0 rw
    MayStart t ∧ t.span.roll = some r0 ∧ r0.slot = some 2 ∧ r0.phase = .window ∧ (slotStart r0 2).1 ≤ t.now
    ∧ r0.frame = some f0 ∧ r0.readyAt = some 80 ∧ 80 + 11 * 1000000000000 / r0.rate ≤ (slotStart r0 2).1
    ∧ (slotStart r0 2).2 ≤ 20000 ∧ t.nv.running = none ∧ t.now ≤ (slotStart r0 2).1 + 1000000000000 / (2 * r0.rate) / 2
    ∧ ({ t with span.tx := some .slot } : State).span.tx = some .slot ∧ 54 < 55 := by
  simp only [MayStart]
  decide +kernel

theorem witness_RollCallRuns_window :
    let t := elapse 0 { sr with now := rollTl r0, span.roll := some r0 }
    rollTl r0 ≤ t.now ∧ t.span.tx = none ∧ ({ t with span.idle := false } : State).span.idle = false
    ∧ ({ r0 with slot := none } : RollCall).slot = none ∧ ({ r0 with phase := .slotSent } : RollCall).phase = .slotSent
    ∧ r0.slot.isSome = true ∧ r0.phase ≠ .slotSent ∧ r0.frame = some f0 ∧ t.nv.running = none
    ∧ ({ t with nv.running := some (.erase 3, true) } : State).nv.running ≠ none := by decide +kernel

/-- A late reply whose limit is 1 s, its attempt begun just after it: before the commit point, and at it. -/
theorem witness_RollCallRuns_late :
    let l : LateReply := { frame := f0, due := 9, offered := false, limit := 1000000000000, begunAt := none, cancelled := false }
    let t := elapse 0 { sr with span.lates := [l] }
    let b := { l with begunAt := some 1000000000001 }
    let u := elapse 0 { sr with now := 1000000000001, span.lates := [b], span.tx := some .late, span.txAt := 1000000000001 }
    let commit := 1000000000001 + 11 * (8 + f0.body.length) * 1000000000000 / heldRate u
    MayStart t ∧ MayStart { t with span.idle := true } ∧ t.span.lates = [l] ∧ t.span.roll = none ∧ l.due ≤ t.now
    ∧ t.nv.running = none ∧ ({ t with span.idle := false } : State).span.idle = false
    ∧ l.limit ≤ t.now ∧ l.begunAt = none ∧ l.frame.op = 0xFE ∧ t.span.tx = none
    ∧ u.span.tx = some .late ∧ u.span.lates = [b] ∧ l.limit < 1000000000001 ∧ l.limit ≤ u.now ∧ 1000000000000 ≤ l.limit
    ∧ u.now / 6250 < commit / 6250 ∧ commit / 6250 ≤ (elapse (commit - 1000000000001) u).now / 6250
    ∧ ({ b with cancelled := true } : LateReply).cancelled = true := by
  simp only [MayStart]
  decide +kernel

theorem witness_RollCallRuns_claim :
    let c : ClaimWait := { due := 0, req := q0, body := [0x80], id := 0 }
    let t := elapse 0 { sr with span.claims := [c] }
    t.span.claims = c :: [] ∧ c.due ≤ t.now ∧ c.body ≠ [] ∧ (∀ x ∈ ([] : List ClaimWait), x.id ≠ c.id) ∧ t.pw.mode = .run
    ∧ t.nv.running = none := by decide

/-! ## Witnesses: boundaries -/

/-- A quiet node at a boundary of WT 64 000, a multiple of 32. -/
def sq : State := { sr with rd.bootScene := false, rd.lastNow := 998100000000 }

theorem quiet_sq : Quiet (elapse 0 sq) := by
  simp only [Quiet]
  decide +kernel

theorem witness_Placed_wt : Placed 64000 (elapse 0 sq) := by
  refine .inl ⟨?_, rfl⟩
  simp only [WtBoundary]
  decide

theorem witness_Placed_slew : Placed 64000 (elapse 0 { sq with
    ka.wt := 64001, ka.jumps := [{ at_ := 1000000000000, size := 1, step := false }] }) := by
  simp only [Placed]
  exact .inr (.inl ⟨rfl, rfl, rfl, by decide, by decide, by decide, by decide, _, _, rfl, by decide⟩)

theorem witness_Placed_free : Placed 64001 (elapse 0 { sq with ka.wt := 64001, cfg.freeRun := true, rd.lastNow := 0 }) := by
  simp only [Placed]
  exact .inr (.inr (.inl (by decide)))

theorem witness_Placed_hold : Placed 64001 (elapse 0 { sq with
    ka.wt := 64001, rd.syncLocked := true, rd.syncHold := true, rd.intervals := [1900000000] }) := by
  simp only [Placed]
  exact .inr (.inr (.inr (by decide)))

theorem witness_BoundaryServesClauses :
    let t := elapse 0 sq
    Quiet t ∧ WtBoundary t ∧ MaskOk 15 ∧ idsOk t.cl.waiting t.cl.nextId ∧ t.cl.timed = [] ∧ t.cl.ready = [] ∧ t.nv.running = none
    ∧ ({ t with nv.running := some (.erase 3, true) } : State).nv.running ≠ none
    ∧ q0.applyAt = none ∧ ({ q0 with applyAt := some 64000 } : Req).applyAt = some 64000
    ∧ (64000 : W48).toNat ≤ t.ka.wt.toNat ∧ (63968 : W48).toNat + t.cfg.frameValue ≤ t.ka.wt.toNat := by
  refine ⟨quiet_sq, ?_, ?_, nofun, ?_⟩
  all_goals try simp only [WtBoundary, MaskOk]
  all_goals decide

theorem witness_BanksFlipAtBoundary :
    let c : Commit := { c := 64000, asap := false, tok := { id := 0, idx := 0 }, missed := false }
    let t := elapse 0 { sq with st.commit := some c }
    WtBoundary t ∧ t.pw.mode = .run ∧ t.relay.on = false ∧ t.st.commit = some c ∧ c.c.toNat ≤ t.ka.wt.toNat ∧ t.st.loads = []
    ∧ t.cl.timed = [] ∧ t.cl.ready = [] := by
  simp only [WtBoundary]
  decide

theorem witness_EdgesPlaceBoundaries :
    let u := elapse 0 { sq with rd.syncLocked := true }
    let t := elapse 0 { sq with rd.syncLocked := true, rd.edgeAt := some 960000000000, rd.intervals := [5] }
    Quiet u ∧ u.rd.syncLocked = true ∧ u.rd.lastNow + 1900000000 ≤ u.now ∧ u.cl.timed = [] ∧ u.cl.ready = []
    ∧ u.rd.edgeAt = none ∧ t.rd.edgeAt = some 960000000000 ∧ t.rd.intervals ≠ [] ∧ 960000000000 + 40000000000 ≤ t.now
    ∧ (elapse 0 { sq with rd.lastNow := 998100000001 }).now < 998100000001 + 1900000000
    ∧ ({ sq with ka.ksAt := some 0 } : State).ka.ksAt = some 0 ∧ t.now < 244140625 * 268436
    ∧ 244140625 * 268436 ≤ (elapse 66000000000000 sq).now := by
  simp only [Quiet]
  decide +kernel

/-! ## Witnesses: service port -/

/-- The service port is heard. -/
def sv : State := { sr with svc.rate := some 115200, svc.idle := false }

/-- The image of 08's worked case is good; one byte short of it is not. -/
theorem witness_ImagesAreSubmitted :
    let i : List Byte := [0xFF, 0xFE, 0x20, 0x50, 0x00, 0x07, 0x01, 0x00, 0x2E, 0xFA]
    let t := elapse 0 { sv with svc.image := i }
    SvcHears t ∧ t.nv.running = none ∧ t.svc.submitted = false ∧ t.svc.image.length < 249
    ∧ 249 ≤ (List.replicate 249 (0 : Byte)).length ∧ ({ sv with svc.submitted := true } : State).svc.submitted = true
    ∧ ({ t with svc.sel := some (false, 3) } : State).svc.sel = some (false, 3) ∧ t.svc.sel = none
    ∧ (be16 i 0 = 0xFFFE ∧ 0x2000 ≤ (be16 i 2).toNat ∧ (be16 i 2).toNat ≤ 0x2FFF ∧ (i.getD 6 0).toNat ≤ 240
        ∧ i.length = 9 + (i.getD 6 0).toNat ∧ crc16 i = 0)
    ∧ ¬ (i.take 9).length = 9 + ((i.take 9).getD 6 0).toNat := by
  simp only [SvcHears]
  decide +kernel

theorem witness_RegistersAreWrittenAndRead :
    let t := elapse 0 { sv with svc.ctl := 5 }
    let idle := elapse 0 { sr with svc.idle := true, svc.edgeAt := 980000000000 }
    let im : SvcImage := { bytes := [1], event := false, op := 0xFE, begun := false, clause := none }
    SvcHears t ∧ t.nv.running = none ∧ ({ t with nv.running := some (.erase 3, true) } : State).nv.running ≠ none
    ∧ (127 : Byte).toNat < 128 ∧ (127 : Byte) ≠ 2 ∧ (127 : Byte) ≠ 3 ∧ (127 : Byte) ≠ 7
    ∧ idle.pw.mode = .run ∧ idle.pw.fosc = true ∧ idle.pw.lockAt ≤ idle.now ∧ idle.svc.idle = true
    ∧ idle.svc.ctl.getLsbD 1 = false ∧ 9600 ≤ 9600 ∧ 921600 ≤ 921600 ∧ 9599 < 9600 ∧ 921600 < 921601
    ∧ idle.svc.edgeAt + 20000000000 ≤ idle.now ∧ idle.now < idle.svc.edgeAt + 20000000001
    ∧ t.sec.factory = false ∧ ({ t with sec.factory := true } : State).sec.factory = true ∧ 8 ≤ (8 : Byte).toNat
    ∧ ({ t with svc.out := some im } : State).svc.out = some im ∧ im.bytes = [1] ∧ im.op = 0xFE ∧ im.clause = none
    ∧ ({ im with bytes := [1, 2] } : SvcImage).bytes = 1 :: [2] ∧ ([2] : List Byte) ≠ []
    ∧ t.span.overflow = [] ∧ t.svc.backlog = [] ∧ t.ev.marks = [] ∧ ({ t with span.idle := false } : State).span.idle = false := by
  simp only [SvcHears]
  decide +kernel

/-! ## Witnesses: strings -/

/-- A loop port of four cells in OK. -/
def loopPort : PortState := { state := .ok, cfg := { enable := true, n := 4 } }

/-- The node with `x` for port 0. -/
def sport (x : PortState) : State := { sr with ports := #v[x, {}, {}, {}] }

/-- A return of type 1 that echoes FSEQ 0 of format 0, with a word for each of the four cells. -/
def return4 : Return :=
  { header := 536870913, words := [0, 0, 0, 0], idents := [], count := 0, countCrc := 0, tol := 8, clean := true,
    began := 8000000, headed := 4000000 }

theorem witness_ReturnsAreTaken :
    let r := return4
    let w : Await := { type := 1, fmt := 0, fseq := 0, due := 1000000000000 }
    let x := { loopPort with awaits := [w], firstAt := some 0, last := some { header := 0, slots := [] } }
    let t := elapse 0 (sport x)
    let y := t.ports.get 0
    t.pw.mode = .run ∧ y.cfg.enable = true ∧ y.cfg.stub = false ∧ y.stopped = false ∧ y.state = .ok ∧ y.awaits = [w]
    ∧ headerOk r.header = true ∧ w.type = hdrType r.header ∧ w.fmt = hdrFmt r.header ∧ w.fseq = hdrFseq r.header ∧ t.now ≤ w.due
    ∧ r.clean = true ∧ r.tol ≤ 8 ∧ w.type = 1 ∧ y.cfg.n ≤ r.words.length ∧ 8 < ({ r with tol := 9 } : Return).tol ∧ y.evidence < 2
    ∧ w.due ≤ t.now ∧ 2 ≤ ({ x with evidence := 2 } : PortState).evidence ∧ y.last.isSome = true ∧ y.eofAt ≤ t.now
    ∧ y.configs = [] ∧ y.firstAt = some 0 ∧ 0 + 1000000000000 ≤ t.now ∧ y.ready = false ∧ t.cfg.notify.addr = 0
    ∧ t.pw.vioLow = false ∧ (∀ k : Port, (s0.ports.get k).cfg.enable = true → (s0.ports.get k).ready = true) := by decide +kernel

theorem witness_MaintenanceRuns :
    let x := { loopPort with items := [(.census, 0)] }
    let t := elapse 0 (sport x)
    let y := t.ports.get 0
    let l : Pulse := { at_ := 999920000000, width := 60000000 }
    let z := { x with cur := some .reset, pulse := some l, items := [] }
    let u := elapse 0 (sport z)
    y.items = (.census, 0) :: [] ∧ t.pw.mode = .run ∧ t.pw.vioLow = false ∧ y.stopped = false ∧ y.state ≠ .relay
    ∧ y.cfg.enable = true ∧ itemGap y t.now = true ∧ y.fresh = false ∧ canFinish t y .census = true ∧ 0 + 1000000000000 ≤ t.now
    ∧ (u.ports.get 0).cur = some .reset ∧ (u.ports.get 0).pulse = some l ∧ z.why = .boot ∧ z.due = none ∧ z.keepDue = false
    ∧ z.configs = [] ∧ l.at_ + l.width + 20000000 ≤ u.now ∧ sr.now < l.at_ + 1 + l.width + 20000000 := by decide +kernel

/-- A census answer of COUNT 5 that began 8 µs after the release of a pulse, on a port in BROKEN@5, and one of fewer. -/
theorem witness_AnswersAreTaken :
    let r : Return := { return4 with header := 2650800314, words := [], count := 5, countCrc := 207 }
    let l : Pulse := { at_ := 999976000000, width := 8000000 }
    let x : PortState := { state := .broken 5, cfg := { enable := true, n := 6 }, cur := some .census, pulse := some l }
    let t := elapse 0 { sport x with ka.wt := 8192 }
    let y := t.ports.get 0
    y.due = none ∧ y.keepDue = false ∧ y.cur = some .census ∧ Maint.census ≠ .reset ∧ y.discarded = false ∧ y.pulse = some l
    ∧ l.at_ + l.width ≤ t.now - r.began ∧ t.now - r.began ≤ l.at_ + l.width + 8000000
    ∧ t.now - r.headed ≤ l.at_ + l.width + y.cfg.n * 500000 + y.cfg.n * 8 * bitPs y.cfg.rate + 20000000
    ∧ answerOk y .census r = true ∧ countOk r = true ∧ 0 < r.count.toNat ∧ y.state = .broken 5 ∧ r.count.toNat ≤ 5
    ∧ ({ x with state := .broken 4 } : PortState).state = .broken 4 ∧ 4 < r.count.toNat ∧ y.second = false
    ∧ l.at_ + l.width + 8000000 ≤ t.now ∧ t.now < 999984000001 + l.width + 8000000 ∧ y.tries ≠ 0
    ∧ l.at_ + l.width + y.cfg.n * 500000 + y.cfg.n * 8 * bitPs y.cfg.rate + 20000000 ≤ (elapse 20000000000 t).now
    ∧ ({ x with discarded := true } : PortState).discarded = true
    ∧ t.pw.mode = .run ∧ t.ka.wt.toNat % 4096 = 0 ∧ t.pw.vioLow = false ∧ y.cfg.enable = true ∧ y.stopped = false
    ∧ ({ x with state := .nochain, cur := none } : PortState).state = .nochain := by decide +kernel

/-- A DATA header with FSEQ 0 of format 0, and one with a wrong HCRC; lows of 299 ns, 300 ns and each class. -/
theorem witness_RelayFollowsItsInput :
    let t := elapse 0 { sr with relay.on := true, relay.input := .receiving }
    let u := elapse 0 { sr with relay.on := true, relay.input := .lost, cfg.relayHold := 1 }
    t.relay.on = true ∧ t.pw.mode = .run ∧ t.pw.vioLow = false ∧ ({ t with pw.vioLow := true } : State).pw.vioLow = true
    ∧ inputValid 536870913 = true ∧ hdrType 536870913 = 1 ∧ inputValid 536870914 = false
    ∧ t.cl.timed = [] ∧ t.cl.ready = [] ∧ t.relay.input ≠ .lost
    ∧ t.relay.headerAt + 100000000000 ≤ t.now ∧ t.cfg.notify.addr = 0 ∧ u.relay.input = .lost ∧ u.relay.keepStop = false
    ∧ u.relay.keepAt + 100000000000 ≤ u.now ∧ u.cfg.relayHold ≠ 0
    ∧ u.relay.lossAt + 1000000000000 * u.cfg.relayHold ≤ u.now ∧ 299 < 300 ∧ 1600 ≤ 1600 ∧ 3200 ≤ 4800 ∧ 9600 ≤ 9600 := by
  decide +kernel

/-! ## Witnesses: power states and resets -/

/-- A wake frame for broadcast, its gaps one character long. -/
def wake : List WakeChar :=
  let c := fun (v : Byte) (m : Bool) => ({ value := v, mark := m, framed := true, gap := 11 * 1000000000000 / 19200 } : WakeChar)
  [c 0x55 false, c 0 true, c 0 true, c 0xA5 false]

theorem witness_RestAndShelfPass :
    let t := elapse 0 { sr with pw.mode := .rest, pw.keepRest := true, ka.wt := 8192, svc.ctl := 5 }
    let u := elapse 0 { sr with pw.mode := .shelf, pw.wrc := true, svc.edgeAt := 980000000000 }
    sr.pw.mode = .run ∧ sr.pw.restDue ≤ (elapse 250000000000 sr).now ∧ t.pw.mode = .rest
    ∧ ((wake.map WakeChar.value) = [0x55, 0, 0, 0xA5] ∧ ∀ c ∈ wake, c.framed = true ∧ c.gap ≤ 11 * 1000000000000 / 19200)
    ∧ (matchOf 0 0 t).isSome = true ∧ matchOf 0 6 t = none ∧ (wake.take 3).length < 4
    ∧ t.svc.ctl.getLsbD 2 = true ∧ ({ t with svc.ctl := 1 } : State).svc.ctl.getLsbD 2 = false ∧ t.svc.idle = true
    ∧ 9600 ≤ 9600 ∧ 19200 ≤ 19200 ∧ ¬ 19201 ≤ 19200 ∧ t.pw.keepRest = true ∧ t.ka.wt.toNat % 4096 = 0 ∧ t.pw.vioDown = false
    ∧ ({ t with pw.vioDown := true } : State).pw.vioDown = true
    ∧ ({ sr with pw.shelfReq := some none } : State).pw.shelfReq = some none ∧ sr.span.outQ = [] ∧ sr.span.overflow = []
    ∧ sr.span.tx = none ∧ sr.nv.running = none ∧ u.pw.mode = .shelf ∧ u.pw.wrc = true
    ∧ u.svc.edgeAt + 20000000000 ≤ u.now := by decide +kernel

/-- A reset with good supplies. -/
def b0 : BootIn :=
  { took := 0, vin := 3300, vio := 3300, vres := 0, test := false, gp2 := true, gp3 := true, lfxoOk := true, vinMin := 2550,
    chains := 0 }

theorem witness_SaveHoldoverAndDarkcut :
    let t := elapse 10000000000000 { s0 with pw.mode := .holdover, ka.belowSince := some 0 }
    let d := elapse 0 { sr with pw.mode := .darkcut, pw.vin := 2449, ka.window := some 999000000000 }
    sr.pw.mode = .run ∧ sr.nv.running = none ∧ ({ sr with pw.mode := .save } : State).pw.mode = .save
    ∧ ({ b0 with vin := 2649 } : BootIn).vin < 2650 ∧ t.pw.mode = .holdover ∧ t.ka.belowSince = some 0
    ∧ 0 + 10000000000000 ≤ t.now ∧ d.pw.mode = .darkcut ∧ (d.pw.vin < 2450 ∧ 2450 ≤ 2450) ∧ 2650 ≤ b0.vin
    ∧ ¬ (d.pw.vin < 2450 ∧ 2450 ≤ 2449) ∧ d.ka.window = some 999000000000 ∧ d.now ≤ 999000000000 + 1000000000
    ∧ 998999999999 + 1000000000 < d.now ∧ s0.ka.window = none ∧ 3599 < 3600 ∧ 3600 ≤ 3600 ∧ 999 < 1000 ∧ 1000 ≤ 1000 := by
  decide +kernel

theorem witness_ReserveIsProtected :
    let t := elapse 0 { sr with ka.present := true, ka.chg := .constantCurrent, ka.window := some 999000000000 }
    let due := elapse 0 { sr with ka.window := some 936000000000 }
    reserveUp t = true ∧ reserveUp sr = false ∧ (t.ka.window = some 999000000000 ∧ t.now ≤ 999000000000 + 1000000000)
    ∧ sr.ka.window = none ∧ t.ka.present = true ∧ t.ka.hardDisc = false ∧ 2749 < 2750 ∧ 2750 ≤ 2750
    ∧ ({ t with ka.hardDisc := true } : State).ka.hardDisc = true ∧ 3000 ≤ 3000 ∧ charging t = true ∧ 2999 < 3000
    ∧ sr.ka.present = false ∧ 1900 ≤ t.pw.vin ∧ ({ t with pw.vin := 1899 } : State).pw.vin < 1900
    ∧ t.ka.tempStop = false ∧ t.ka.reserve.ichg ≠ 3 ∧ t.ka.chg = .constantCurrent
    ∧ ({ t with ka.chg := .constantVoltage } : State).ka.chg = .constantVoltage
    ∧ (4100 : Nat) = (if t.ka.reserve.vchg = 0 then 4100 else 4200)
    ∧ ({ t with ka.chg := .terminated } : State).ka.chg = .terminated
    ∧ t.pw.mode = .run ∧ (-1 : Int) < 0 ∧ (360 : Int) < 361 ∧ (0 : Int) ≤ 0 ∧ (360 : Int) ≤ 360 ∧ t.cfg.notify.addr = 0
    ∧ (due.ka.window = some 936000000000 ∧ 936000000000 + 64000000000 ≤ due.now) ∧ ¬ 936000000001 + 64000000000 ≤ due.now
    ∧ ({ due with pw.mode := .holdover } : State).pw.mode = .holdover ∧ due.ka.hardDisc = false
    ∧ ({ due with pw.mode := .darkcut } : State).pw.mode = .darkcut ∧ 3599 < 3600 ∧ 3600 ≤ 3600 := by decide +kernel

theorem witness_RailsClocksAndHarvester :
    let t := elapse 0 { sr with ka.hst := .boost, ka.vocAt := 0 }
    sr.pw.mode = .run ∧ sr.pw.vioLow = false ∧ sr.pw.vioDown = false ∧ 1599 < 1600 ∧ 1600 ≤ 1600
    ∧ ({ sr with pw.vioLow := true } : State).pw.vioLow = true ∧ ({ sr with pw.vioDown := true } : State).pw.vioDown = true
    ∧ 1699 < 1700 ∧ 1700 ≤ 1700 ∧ ({ sr with pw.mode := .rest } : State).pw.mode = .rest ∧ sr.ka.rc = false ∧ sr.ka.startIn = 0
    ∧ (let u := { sr with ka.startIn := 9, now := 2000000000000 }
       0 < u.ka.startIn ∧ u.ka.poweredAt + 2000000000000 ≤ u.now)
    ∧ sr.now < sr.ka.poweredAt + 2000000000000 ∧ sr.cfg.notify.addr = 0 ∧ sr.node.member.harvester = true ∧ 1499 < 1500
    ∧ ({ sr with ka.hst := .coldStart } : State).ka.hst = .coldStart ∧ 1900 ≤ 1900 ∧ 1899 < 1900
    ∧ t.ka.hst = .boost ∧ t.ka.vocAt + 1000000000000 * (if t.ka.harvest.period = 0 then 4
        else if t.ka.harvest.period = 1 then 16 else 64) ≤ (elapse 64000000000000 t).now
    ∧ ({ t with ka.hst := .sampling } : State).ka.hst = .sampling ∧ t.ka.vocAt + 2000000000 ≤ t.now := by decide +kernel

/-! ## Witnesses: counters, the store, reports -/

/-- The alternate bank of a store that lists nothing is ready; with a programmed byte it is not. -/
theorem bankReady_empty : bankReady s0 (altBank s0) = true := by
  have h : sectorPending s0.nv.mem = fun _ => false := funext (sectorPending_above nofun)
  simp only [bankReady, h]
  decide +kernel

theorem witness_CountersCount :
    let x : PortState := { state := .ok, cfg := { enable := true, n := 1, fmt := 0 }, rendered := [[5]], renderedFmt := 0 }
    let t := elapse 0 { sport x with ka.wt := 8192, cnt.pon := 21600, nv.bankDue := some 0, cfg.period := 1 }
    bankErased [(4096 * bankSector (altBank s0), 0)] (altBank s0) = false
    ∧ t.pw.mode = .run ∧ 0 < t.pw.vin ∧ t.ka.wt.toNat % 4096 = 0 ∧ (∀ p : Port, p ≠ 0 → (t.ports.get p).state = .off)
    ∧ (t.ports.get 0).state = .ok ∧ (t.ports.get 0).cfg.n = 1
    ∧ (∃ v ∈ (t.ports.get 0).rendered.getD 0 [], 655 < widen (fmtWidth (t.ports.get 0).renderedFmt.toNat) v)
    ∧ unreach (mapByte t 0) = false ∧ t.cfg.period ≠ 0 ∧ t.cnt.ponSaved + t.cfg.period.toNat * 900 ≤ t.cnt.pon ∧ t.nv.jobs = []
    ∧ t.nv.bankDue = some 0 ∧ t.nv.running = none
    ∧ ({ t with cnt.pon := 899 } : State).cnt.pon < t.cnt.ponSaved + t.cfg.period.toNat * 900 := by decide +kernel

theorem jFree_empty : 8 ≤ jFree [] (liveJ []) := by decide +kernel

theorem witness_StoreOperationsRun :
    let j : Job := { kind := .nvErase 16, user := true, op := 0x72, ops := [.erase 16, .done 16], tok := none, failed := false }
    let t := elapse 0 { sr with nv.jobs := [j], nv.running := some (.erase 16, true), nv.curveDirty := [(12, 0)] }
    let l : Load := { first := 0, count := 1, done := 1, failed := false, tok := { id := 0, idx := 0 } }
    sr.pw.mode = .run ∧ sr.nv.running = none ∧ sr.nv.mem = [] ∧ sr.nv.lastEnd = none ∧ t.nv.jobs = [j] ∧ t.cl.blocked = []
    ∧ j.ops = .erase 16 :: [.done 16] ∧ t.nv.running = some (.erase 16, j.user)
    ∧ ({ sr with nv.lastEnd := some 999000000000 } : State).nv.lastEnd = some 999000000000 ∧ 999000000000 + 1000000000 ≤ sr.now
    ∧ sr.now < 999000000001 + 1000000000
    ∧ ({ j with ops := [.page 65536 [1], .done 16] } : Job).ops = .page 65536 [1] :: .done 16 :: []
    ∧ ({ t with nv.running := some (.page 65536 [1], true) } : State).nv.running = some (.page 65536 [1], j.user)
    ∧ t.nv.curveDirty = (12, 0) :: [] ∧ ({ sr with st.loads := [l] } : State).st.loads = [l] ∧ l.failed = false
    ∧ l.done = l.count := by decide +kernel

theorem witness_ReportsEnterTheQueue :
    let e : PEvent := { op := 0xF3, port := 0, fields := [1], stamp := 0, due := 0, at_ := 0 }
    let t := elapse 0 { sr with
      cfg.notify := { addr := 0x2FFF, push := true }, fail.due := some 0, fail.mask := 1, ev.held := [e] }
    MayStart t ∧ t.pw.mode = .run ∧ t.nv.running = none ∧ t.fail.due = some 0 ∧ 0 ≤ t.now ∧ t.fail.mask ≠ 0
    ∧ t.cfg.notify.addr ≠ 0xFFFE ∧ t.span.overflow = [] ∧ t.span.outQ = [] ∧ t.svc.out = none ∧ t.fail.lastEnd = none
    ∧ t.cfg.notify.push = true ∧ t.cfg.addr ≠ 0 ∧ t.cfg.notify.addr ≠ 0 ∧ t.span.lates = [] ∧ t.span.roll = none
    ∧ ({ t with cfg.notify.push := false } : State).cfg.notify.push = false ∧ 8 ≤ (List.replicate 8 f0).length ∧ t.ev.marks = []
    ∧ (∀ f ∈ List.replicate 8 f0, f.op ≠ 0xF0) ∧ ({ t with span.idle := true } : State).span.idle = true
    ∧ ({ t with span.idle := false } : State).span.idle = false ∧ t.ev.held = e :: [] ∧ e.due ≤ t.now
    ∧ sr.cfg.notify.addr = 0 ∧ ({ t with cfg.notify.addr := 0xFFFE } : State).cfg.notify.addr = 0xFFFE ∧ t.svc.backlog = []
    ∧ 0x2000 ≤ t.cfg.notify.addr.toNat ∧ t.cfg.notify.addr.toNat ≤ 0x2FFF := by
  simp only [MayStart]
  decide +kernel

theorem witness_TimeoutsAndVerdicts :
    let t := elapse 60000000000000 { s0 with
      st.owner := some 0x2001
      nv.sceneBuf := some { slot := 0, owner := 0x2001, deffade := 0, records := [], lastAt := 0 }
      nv.curveBuf := some { id := 16, owner := 0x2001, points := [], lastAt := 0 }
      fw.session := some { slot := 1, owner := 0x2001, size := 1, held := 0, buf := [], lastAt := 0 }
      fw.verify := some { slot := 2, size := 1, tok := { id := 0, idx := 0 } }
      fw.trial := true, fw.sawKey := true, fw.sawPort := true }
    t.st.owner.isSome = true ∧ t.st.commit = none ∧ t.st.loads = [] ∧ t.st.lastAt + 60000000000000 ≤ t.now
    ∧ t.nv.sceneBuf.isSome = true ∧ t.nv.curveBuf.isSome = true ∧ t.fw.session.isSome = true ∧ t.fw.verify.isSome = true
    ∧ t.pw.mode = .run ∧ t.fw.trial = true ∧ t.fw.sawKey = true ∧ t.fw.sawPort = true ∧ t.nv.jobs = [] := by decide

/-! ## Resets -/

/-- A store with a security copy that confirms slot A, and in slot A an image of release 4.0. -/
def store40 : Memory :=
  programAt (programAt [] 786432 [90, 80, 73, 1, 0, 0, 4, 0, 0, 0, 0, 0, 16, 0, 0, 0]) 1024000
    ([90, 211, 6, 1, 1, 0, 0, 0, 32, 0, 1, 0, 0, 0, 0, 0, 239, 20, 204, 144, 255, 255, 255, 255, 255, 255, 255, 255] ++ validBytes
     ++ [0, 0, 0, 0, 0, 0, 0, 0, 0, 0, 255, 0, 1, 0, 0, 0, 254, 251, 67, 53, 0, 0, 0, 0, 0, 0, 0, 0, 0, 0, 0, 0])

/-- The state that image selection starts from. -/
def s40 : State := bootStart 1 b0 (elapse 0 { s0 with nv.mem := store40 })

/-- With no journal record nothing is repaired. -/
theorem bootRepair_above {s : State} (h : ∀ e ∈ s.nv.mem, 8192 ≤ e.1) : bootRepair s = ({ s with nv.jseq := 0 }, []) := by
  have hj := jRecords_above h
  simp [bootRepair, repairJournal, hj, maxSeq, pendingOf]

theorem otherRelease_s40 : otherRelease (bootImage (bootStore (bootInputs b0 s40))) = true := by
  have h : ∀ e ∈ (bootInputs b0 s40).nv.mem, 8192 ≤ e.1 := by decide +kernel
  rw [bootStore, bootRepair_above h]
  decide +kernel

theorem powerOn_boots {b : BootIn} {s : State} (hm : (elapse 0 s).pw.mode = .run) (ht : b.test = false) (hv : ¬ b.vin < 2650) :
    exec (.powerOn 0 b) s = bootOn b (bootStart 1 b (elapse 0 s)) := by
  simp only [exec, execPowerOn, powerReset, resetFrom, bootFrom, hm, ht, hv, Config.vinGood, reduceCtorEq, Bool.false_eq_true,
    if_false]

theorem bootOn_refused {b : BootIn} {s : State} (hb : ¬ b.vinMin < Config.vpdn)
    (h : otherRelease (bootImage (bootStore (bootInputs b s))) = true) : bootOn b s = .refused .otherRelease :=
  (if_neg hb).trans (if_pos h)

theorem witness_OnlyResetsRefuse : exec (.powerOn 0 b0) { s0 with nv.mem := store40 } = .refused .otherRelease :=
  (powerOn_boots rfl rfl (by decide)).trans (bootOn_refused (by decide) otherRelease_s40)

theorem witness_ResetsBoot :
    let t := elapse 0 s0
    let trial : State := elapse 60000000000000 { s0 with fw.trial := true, pw.resetReq := some { waits := none, due := some 0 } }
    t.pw.mode = .run ∧ ({ b0 with vin := 2649 } : BootIn).vin < 2650 ∧ 2650 ≤ b0.vin ∧ b0.test = false
    ∧ ({ b0 with test := true } : BootIn).test = true ∧ 2550 ≤ b0.vinMin ∧ ({ b0 with vinMin := 2549 } : BootIn).vinMin < 2550
    ∧ ({ s0 with pw.mode := .darkcut } : State).pw.mode = .darkcut ∧ ({ b0 with vin := 2449 } : BootIn).vin < 2450
    ∧ ({ s0 with pw.mode := .holdover } : State).pw.mode = .holdover ∧ 2450 ≤ b0.vin
    ∧ 10000 ≤ 10000 ∧ 9999 < 10000 ∧ 1000 ≤ 1000 ∧ 999 < 1000 ∧ 1999 < 2000 ∧ 2000 ≤ 2000 ∧ t.nv.running = none
    ∧ ({ s0 with nv.running := some (.erase 3, true) } : State).nv.running ≠ none ∧ trial.pw.mode = .run ∧ trial.nv.jobs = []
    ∧ trial.pw.resetReq = some { waits := none, due := some 0 } ∧ trial.nv.running = none ∧ 0 ≤ trial.now ∧ t.now < t.now + 1
    ∧ trial.fw.trial = true ∧ trial.pw.bootAt + 60000000000000 ≤ trial.now
    ∧ ({ s0 with pw.mode := .save } : State).pw.saving = 0
    ∧ ({ s0 with pw.mode := .bootWait } : State).pw.mode = .bootWait := by decide

/-- A boot from a store that lists nothing selects the ROM. -/
theorem witness_ResetsBoot_rom : RomSelected b0 (bootStart 1 b0 s0) := by
  have h : ∀ e ∈ (bootInputs b0 (bootStart 1 b0 s0)).nv.mem, 8192 ≤ e.1 := by decide +kernel
  rw [RomSelected, bootStore, bootRepair_above h]
  decide +kernel

end Sys2Proof.Tests
end

section
/-!
PROOFS. Timed clauses on arrival (07, R187 to R191): what a verb's command does while the NP is free, what a clause served at
the boundary that falls now brings about, timed or not, and what the lane writes of a level verb leave.
-/
namespace Sys2Proof.Machine

open Sys2Proof.Claims

/-! ## A verb's command -/

/-- Every row that carries a clause header is the take-up of that clause. -/
theorem exec_eq_runVerb {q : Req} {i : Instr} {s : State} (h : i.req? = some q) : exec i s = .next (runVerb q i s) := by
  cases i <;> cases h <;> rfl

/-- While no program or erase runs, the clause is looked at now (R23). -/
theorem runVerb_free {q : Req} {i : Instr} {s : State} (hm : s.pw.mode = .run) (hn : s.nv.running = none) :
    runVerb q i s = takeVerb q i s := by
  have hr : inRun s = true := by simp [inRun, hm]
  have hf : npBlocked s = false := by simp [npBlocked, hn]
  simp only [runVerb, hr, hf, Bool.not_true, Bool.false_eq_true, if_false]

theorem takeVerb_timed {q : Req} {a : W48} {i : Instr} {s : State} (hq : q.applyAt = some a) :
    takeVerb q i s = takeTimed q a i s := by
  simp only [takeVerb, hq]

/-- The validation of a clause of one verb is the verb's own (R181). -/
theorem checkFrom_one {due : Bool} {q : Req} {t : W48} {id : Nat} {pre s : State} {i : Instr} {v : Verb}
    (hv : verbOf i = some v) (hl : i.lengthOk = true) (hc : checkVerb due v q s = stOk) :
    checkFrom due q t id pre 0 [i] s = none := by
  simp [checkFrom, hv, hl, hc]

/-! ## The times of a timed clause (R188, R189) -/

theorem timedStatus_stale {a : W48} {s : State} (h : s.ka.lost = true ∨ a.toNat + 65536 < s.ka.wt.toNat) :
    timedStatus a s = stStaleTime := by
  have ht : timeStatus s.ka.lost (wtN s) a.toNat = stStaleTime := by
    rcases h with h | h
    · simp [timeStatus, firstBad, h]
    · simp [timeStatus, firstBad, wtN, Config.lateLimit, h]
  rw [timedStatus, ht]
  rfl

theorem timedStatus_beyond {a : W48} {s : State} (hl : s.ka.lost = false) (h : s.ka.wt.toNat + 16777216 < a.toNat) :
    timedStatus a s = stRange := by
  have ht : timeStatus s.ka.lost (wtN s) a.toNat = stRange := by
    have hs : ¬ a.toNat + 65536 < s.ka.wt.toNat := by omega
    simp [timeStatus, firstBad, wtN, Config.lateLimit, Config.horizon, hl, hs, h]
  rw [timedStatus, ht]
  rfl

/-- Within its times a clause's status is that of the queue's room. -/
theorem timedStatus_inTime {a : W48} {s : State} (hl : s.ka.lost = false) (hs : s.ka.wt.toNat ≤ a.toNat + 65536)
    (hr : a.toNat ≤ s.ka.wt.toNat + 16777216) :
    timedStatus a s = if 64 ≤ s.cl.timed.length then stRange else stOk := by
  have ht : timeStatus s.ka.lost (wtN s) a.toNat = stOk := by
    have hs' : ¬ a.toNat + 65536 < s.ka.wt.toNat := by omega
    have hr' : ¬ s.ka.wt.toNat + 16777216 < a.toNat := by omega
    simp [timeStatus, firstBad, wtN, Config.lateLimit, Config.horizon, hl, hs', hr']
  rw [timedStatus, ht]
  by_cases hf : 64 ≤ s.cl.timed.length
  · simp only [firstStatus, firstBad, Config.timedSlots, ge_iff_le, hf, decide_true, if_true]
    rfl
  · simp only [firstStatus, firstBad, Config.timedSlots, ge_iff_le, hf, decide_false, Bool.false_eq_true, if_false, if_true]

/-- A full queue is RANGE, whether or not the apply-at WT lies beyond the horizon. -/
theorem timedStatus_full {a : W48} {s : State} (hl : s.ka.lost = false) (hs : s.ka.wt.toNat ≤ a.toNat + 65536)
    (hf : 64 ≤ s.cl.timed.length) : timedStatus a s = stRange := by
  by_cases hr : a.toNat ≤ s.ka.wt.toNat + 16777216
  · rw [timedStatus_inTime hl hs hr, if_pos hf]
  · exact timedStatus_beyond hl (by omega)

theorem timedStatus_ok {a : W48} {s : State} (hl : s.ka.lost = false) (hs : s.ka.wt.toNat ≤ a.toNat + 65536)
    (hr : a.toNat ≤ s.ka.wt.toNat + 16777216) (hf : s.cl.timed.length < 64) : timedStatus a s = stOk := by
  rw [timedStatus_inTime hl hs hr, if_neg (by omega)]

/-! ## What becomes of a timed clause on arrival -/

/-- A clause whose times or room fail is rejected as a whole (R177, R189). -/
theorem takeTimed_rejects {q : Req} {a : W48} {i : Instr} {s : State} {st : Byte} (h : timedStatus a s = st)
    (hst : st ≠ stOk) : takeTimed q a i s = rejectClause q st s := by
  subst h
  exact if_pos hst

/-- Past its checks a timed clause is served now where a boundary at or after its apply-at WT falls now, and else queued. -/
theorem takeTimed_accepts {q : Req} {a : W48} {i : Instr} {v : Verb} {s : State} (ht : timedStatus a s = stOk)
    (hv : verbOf i = some v) (hl : i.lengthOk = true) (hc : checkVerb false v q s = stOk) :
    takeTimed q a i s = if boundaryFree s = true ∧ a.toNat ≤ (renderNow s).toNat then runNow q i s
      else queueClause (validNow q [i] s) s := by
  have hk : checkFrom false q (expectedT s) s.cl.nextId s 0 [i] s = none := checkFrom_one hv hl hc
  simp only [takeTimed, ht, hk, ne_eq, not_true_eq_false, if_false, Bool.and_eq_true, decide_eq_true_eq]

theorem queueClause_timed {w : Queued} {a : W48} {s : State} (h : w.req.applyAt = some a) :
    queueClause w s = { s with cl.timed := s.cl.timed ++ [w] } := by
  simp only [queueClause, h]

/-! ## A clause served at the boundary that falls now -/

/-- What the OK of a clause served now reads as (R191). -/
def servedStatus (q : Req) (i : Instr) (s : State) : Byte := lateStatus (validNow q [i] s) (renderNow s) s

theorem servedStatus_timed {q : Req} {a : W48} {i : Instr} {s : State} (hq : q.applyAt = some a) :
    servedStatus q i s = if a.toNat + periodTicks s ≤ (renderNow s).toNat then 0x01 else 0 := by
  simp only [servedStatus, lateStatus, validNow, hq, Bool.false_or, decide_eq_true_eq]
  rfl

/-- The clause is opened, its verb takes effect, and its answer, if it has one now, is taken after it (R19, R391). -/
theorem runNow_serves {q : Req} {i : Instr} {v : Verb} {s : State} (hv : verbOf i = some v) (hl : i.lengthOk = true)
    (hc : checkVerb true v q s = stOk) :
    let o := openClause q [i] (servedStatus q i s) s
    runNow q i s = answerAll [(v, bdNow q s o)] (restartHold (v.eff (bdNow q s o) o)) := by
  have hk : checkFrom true q (renderNow s) s.cl.nextId s 0 [i] { s with now := s.now } = none := checkFrom_one hv hl hc
  simp only [runNow, applyClause, validNow, hk, effectsFrom, hv, List.isEmpty_cons, List.nil_append]
  rfl

/-- The result of a clause of one verb that has just been opened is its last: OK reads as the clause's own status, and the
clause waits no longer (R179, R191). -/
theorem resolveNow_last {w : Waiting} {l : List Waiting} {op st : Byte} {r : List Byte} {u : State}
    (hw : u.cl.waiting = l ++ [w]) (hl : ∀ x ∈ l, x.id < w.id) (he : w.entries = [{ op := op, res := none }]) :
    resolveNow { id := w.id, idx := 0 } st r u =
      finishClause w.req [(op, if st = stOk then w.late else st, r)] w.id (closeClause w.id u) := by
  have hfind : (u.cl.waiting.find? fun x => x.id == w.id) = some w := by
    rw [hw]
    exact find_opened hl
  simp only [resolveNow, hfind, he, List.modify_zero_cons, entriesDone]
  rfl

/-- A verb with an answer now: its reply, after its effect and the restart of REST_HOLD. -/
theorem runNow_answers {q : Req} {i : Instr} {v : Verb} {s u : State} {st : Byte} {r : List Byte} (hv : verbOf i = some v)
    (hl : i.lengthOk = true) (hc : checkVerb true v q s = stOk) (hi : idsOk s.cl.waiting s.cl.nextId)
    (ha : let o := openClause q [i] (servedStatus q i s) s
      v.ans (bdNow q s o) (restartHold (v.eff (bdNow q s o) o)) = some (u, st, r))
    (hw : u.cl.waiting = (openClause q [i] (servedStatus q i s) s).cl.waiting) :
    runNow q i s = finishClause q [(v.op, if st = stOk then servedStatus q i s else st, r)] s.cl.nextId
      (closeClause s.cl.nextId u) := by
  rw [runNow_serves hv hl hc]
  simp only [answerAll, List.foldl_cons, List.foldl_nil]
  rw [ha]
  exact resolveNow_last (w := { id := s.cl.nextId, req := q, entries := emptyEntries [i], late := servedStatus q i s }) hw hi
    (emptyEntries_one hv)

/-- A clause opened and closed again leaves the number used, and those that waited before. -/
theorem closeClause_openClause {q : Req} {l : List Instr} {late : Byte} {s : State} (hi : idsOk s.cl.waiting s.cl.nextId) :
    closeClause s.cl.nextId (openClause q l late s) = { s with cl.nextId := s.cl.nextId + 1 } := by
  have h := filter_opened (w := { id := s.cl.nextId, req := q, entries := emptyEntries l, late := late }) hi
  simp only [closeClause, openClause, h]

/-- A verb other than ADDR.SET and ADDR.CLAIM is replied to by the general rule (R177, R178). -/
theorem finishClause_one {q : Req} {op st : Byte} {r : List Byte} {id : Nat} {s : State} (hs : op ≠ opAddrSet)
    (hc : op ≠ opAddrClaim) :
    finishClause q [(op, st, r)] id s = replyOr q false (replyBody q.seq [(op, st, r)]) id s := by
  have hs' : (op == opAddrSet) = false := beq_eq_false_iff_ne.2 hs
  have hc' : (op == opAddrClaim) = false := beq_eq_false_iff_ne.2 hc
  simp [finishClause, addrSetAnswered, hs', hc']

/-! ## Lane writes (R192, R295) -/

/-- The lanes of a list, as zone and channel, each set by `f` of its place unless last written with a later key. -/
def laneWrites (k : Key) (f : Nat → Nat → Lane → Lane) (l : List (Nat × Nat)) (s : State) : State :=
  l.foldl (fun s p => setLane p.1 p.2 k (f p.1 p.2) s) s

/-- The lanes that a zone selector and a channel mask name. -/
def namedLanes (zone mask : Byte) : List (Nat × Nat) := zonesOf zone ×ˢ chansOf mask

theorem foldl_setLane_eq_laneWrites (k : Key) (f : Nat → Nat → Lane → Lane) (zs cs : List Nat) (s : State) :
    zs.foldl (fun s z => cs.foldl (fun s c => setLane z c k (f z c) s) s) s = laneWrites k f (zs ×ˢ cs) s := by
  simp only [laneWrites, SProd.sprod, List.product, List.foldl_flatMap, List.foldl_map]

theorem setLane_frame (z c : Nat) (k : Key) (f : Lane → Lane) (s : State) :
    ∃ L, setLane z c k f s = { s with rd.lanes := L } := by
  unfold setLane
  dsimp only
  split
  · exact ⟨_, rfl⟩
  · exact ⟨_, rfl⟩

/-- Lane writes change the lane table only. -/
theorem laneWrites_frame (k : Key) (f : Nat → Nat → Lane → Lane) (l : List (Nat × Nat)) (s : State) :
    ∃ L, laneWrites k f l s = { s with rd.lanes := L } := by
  induction l generalizing s with
  | nil => exact ⟨_, rfl⟩
  | cons p l ih =>
    obtain ⟨L, hL⟩ := setLane_frame p.1 p.2 k (f p.1 p.2) s
    obtain ⟨M, hM⟩ := ih (setLane p.1 p.2 k (f p.1 p.2) s)
    exact ⟨M, by rw [laneWrites, List.foldl_cons, ← laneWrites, hM, hL]⟩

theorem zoneLane_setLane_same (z c : Nat) (k : Key) (f : Lane → Lane) (s : State) :
    zoneLane (setLane z c k f s) z c =
      if laterThan (zoneLane s z c).key k = false then { f (zoneLane s z c) with key := some k } else zoneLane s z c := by
  cases h : laterThan (zoneLane s z c).key k with
  | true => simp only [setLane, h, if_true, Bool.true_eq_false, if_false]
  | false =>
    simp only [setLane, h, Bool.false_eq_true, if_false, if_true]
    exact tget_tset_same laneBlank _ _ _

/-- Lanes of different places have different entries of the table, as a zone has four channels. -/
theorem zoneLane_setLane_other {z c y d : Nat} {k : Key} {f : Lane → Lane} {s : State} (hd : d < 4) (hc : c < 4)
    (h : (z, c) ≠ (y, d)) : zoneLane (setLane y d k f s) z c = zoneLane s z c := by
  unfold setLane
  dsimp only
  split
  · rfl
  · refine tget_tset_other laneBlank fun e => h ?_
    rw [Prod.mk.injEq]
    omega

/-- Lane by lane: a lane of the list is set once, unless its key is later, and every other lane stays. -/
theorem zoneLane_laneWrites {k : Key} {f : Nat → Nat → Lane → Lane} {l : List (Nat × Nat)} {s : State} {z c : Nat}
    (hn : l.Nodup) (hl : ∀ p ∈ l, p.2 < 4) (hc : c < 4) :
    zoneLane (laneWrites k f l s) z c =
      if (z, c) ∈ l ∧ laterThan (zoneLane s z c).key k = false then { f z c (zoneLane s z c) with key := some k }
      else zoneLane s z c := by
  induction l generalizing s with
  | nil => simp [laneWrites]
  | cons p l ih =>
    obtain ⟨y, d⟩ := p
    obtain ⟨hp, hn⟩ := List.nodup_cons.1 hn
    have hd : d < 4 := hl (y, d) List.mem_cons_self
    have hs : laneWrites k f ((y, d) :: l) s = laneWrites k f l (setLane y d k (f y d) s) := rfl
    rw [hs, ih hn fun p hp => hl p (List.mem_cons_of_mem _ hp)]
    by_cases h : (z, c) = (y, d)
    · obtain ⟨rfl, rfl⟩ := Prod.mk.inj h
      rw [if_neg fun h => hp h.1, zoneLane_setLane_same]
      simp only [List.mem_cons_self, true_and]
    · rw [zoneLane_setLane_other hd hc h]
      simp only [List.mem_cons, h, false_or]

theorem namedLanes_nodup (zone mask : Byte) : (namedLanes zone mask).Nodup := by
  refine List.Nodup.product ?_ (List.nodup_range.filter _)
  unfold zonesOf
  split
  · exact List.nodup_range
  · exact List.nodup_singleton _

theorem mem_namedLanes (zone mask : Byte) {z c : Nat} (hz : z < 256) (hc : c < 4) :
    (z, c) ∈ namedLanes zone mask ↔ Names zone mask z c := by
  have hzone : z ∈ zonesOf zone ↔ zone = 0xFF ∨ zone.toNat = z := by
    by_cases h : zone = 0xFF
    · simp only [zonesOf, h, if_true, List.mem_range, hz, true_or]
    · simp only [zonesOf, h, if_false, List.mem_singleton, false_or, eq_comm]
  simp only [namedLanes, List.mem_product, hzone, chansOf, List.mem_filter, List.mem_range, hc, true_and, Names]

theorem channel_lt_of_mem_namedLanes {zone mask : Byte} {p : Nat × Nat} (h : p ∈ namedLanes zone mask) : p.2 < 4 := by
  have hc := (List.mem_product.1 h).2
  exact List.mem_range.1 (List.mem_filter.1 hc).1

/-- A verb that sets the lanes it names, each with origin `o`, does what `LanesSet` says and changes nothing else. -/
theorem laneWrites_lanesSet (zone mask : Byte) (k : Key) (o : W48) (f : Nat → Nat → Lane → Lane) (s : State) :
    ∃ L, laneWrites k (fun z c l => { f z c l with t0 := o }) (namedLanes zone mask) s = { s with rd.lanes := L }
      ∧ LanesSet zone mask k o f s L := by
  obtain ⟨L, hL⟩ := laneWrites_frame k (fun z c l => { f z c l with t0 := o }) (namedLanes zone mask) s
  refine ⟨L, hL, fun z hz c hc => ?_⟩
  have h := zoneLane_laneWrites (k := k) (f := fun z c l => { f z c l with t0 := o }) (s := s) (z := z)
    (namedLanes_nodup zone mask) (fun _ => channel_lt_of_mem_namedLanes) hc
  rw [hL] at h
  have hmem := mem_namedLanes zone mask hz hc
  exact ⟨fun ⟨hn, hk⟩ => h.trans (if_pos ⟨hmem.2 hn, hk⟩), fun hn => h.trans (if_neg fun ⟨hp, hk⟩ => hn ⟨hmem.1 hp, hk⟩)⟩

/-! ## LEVEL.SET -/

/-- LEVEL.SET's row of the verb table. -/
def levelSetVerb (zone mask : Byte) (level : W16) : Verb :=
  { op := 0x20, timed := true, prot := false, result := 0,
    chk := fun _ _ => chkLevelSet mask,
    eff := fun b s => effLevelSet zone mask level b s,
    ans := fun _ s => some (okAns s []) }

theorem verbOf_levelSet {q : Req} {zone mask : Byte} {level : W16} :
    verbOf (.levelSet q zone mask level) = some (levelSetVerb zone mask level) := rfl

theorem maskStatus_of_maskOk {mask : Byte} (h : MaskOk mask) : maskStatus mask = stOk := by
  obtain ⟨h0, hlt⟩ := h
  have hh : highZero 4 mask = true := decide_eq_true hlt
  have hz : (mask == 0) = false := beq_eq_false_iff_ne.2 h0
  rw [maskStatus, hh, hz]
  rfl

/-- LEVEL.SET's one check is that of its mask, timed or not, on arrival and as it falls due. -/
theorem checkVerb_levelSet {due : Bool} {q : Req} {zone mask : Byte} {level : W16} {s : State} (h : MaskOk mask) :
    checkVerb due (levelSetVerb zone mask level) q s = stOk := by
  cases due <;> simp [checkVerb, levelSetVerb, chkLevelSet, maskStatus_of_maskOk h, firstStatus, firstBad]

theorem effLevelSet_lanesSet (zone mask : Byte) (level : W16) (b : Bd) (s : State) :
    ∃ L, effLevelSet zone mask level b s = { s with rd.lanes := L }
      ∧ LanesSet zone mask b.key b.org (fun _ _ l => { l with l0 := level, l1 := level, d := 0 }) s L := by
  have h : effLevelSet zone mask level b s = laneWrites b.key
      (fun _ _ l => { ({ l with l0 := level, l1 := level, d := 0 } : Lane) with t0 := b.org }) (namedLanes zone mask) s :=
    foldl_setLane_eq_laneWrites b.key (fun _ _ l => { l with l0 := level, l1 := level, t0 := b.org, d := 0 }) _ _ s
  rw [h]
  exact laneWrites_lanesSet zone mask b.key b.org (fun _ _ l => { l with l0 := level, l1 := level, d := 0 }) s

/-- A LEVEL.SET served now: its lanes with the clause's origin and key (R190, R192), REST_HOLD restarted, and its reply. -/
theorem runNow_levelSet {q : Req} {zone mask : Byte} {level : W16} {s : State} (hk : MaskOk mask)
    (hi : idsOk s.cl.waiting s.cl.nextId) :
    let i := Instr.levelSet q zone mask level
    let o := q.applyAt.getD (renderNow s)
    ∃ L : Tab Lane, runNow q i s = replied q 0x20 (servedStatus q i s) [] s { counted s with rd.lanes := L }
      ∧ LanesSet zone mask { wt := o, src := q.src, seq := q.seq } o
          (fun _ _ l => { l with l0 := level, l1 := level, d := 0 }) s L := by
  intro i o
  let op := openClause q [i] (servedStatus q i s) s
  obtain ⟨L, heff, hL⟩ := effLevelSet_lanesSet zone mask level (bdNow q s op) op
  refine ⟨L, ?_, hL⟩
  have hclose : closeClause s.cl.nextId (restartHold { op with rd.lanes := L }) = { counted s with rd.lanes := L } :=
    congrArg (fun t : State => restartHold { t with rd.lanes := L }) (closeClause_openClause hi)
  have hrun := runNow_answers (i := i) (u := restartHold { op with rd.lanes := L }) (r := []) verbOf_levelSet rfl
    (checkVerb_levelSet (level := level) hk) hi (congrArg (fun t => some (okAns (restartHold t) [])) heff) rfl
  rw [hrun, hclose]
  exact finishClause_one (op := 0x20) (by decide) (by decide)

/-! ## O8 -/

/-- A timed clause whose times or room fail on arrival. -/
theorem exec_timed_rejects {q : Req} {a : W48} {i : Instr} {s : State} {st : Byte} (hm : s.pw.mode = .run)
    (hn : s.nv.running = none) (hq : q.applyAt = some a) (hi : i.req? = some q) (ht : timedStatus a s = st)
    (hst : st ≠ stOk) : exec i s = .next (rejectClause q st s) := by
  rw [exec_eq_runVerb hi, runVerb_free hm hn, takeVerb_timed hq, takeTimed_rejects ht hst]

/-- A timed clause whose times, room and verb pass on arrival. -/
theorem exec_timed_accepts {q : Req} {a : W48} {i : Instr} {v : Verb} {s : State} (hm : s.pw.mode = .run)
    (hn : s.nv.running = none) (hq : q.applyAt = some a) (hi : i.req? = some q) (ht : timedStatus a s = stOk)
    (hv : verbOf i = some v) (hl : i.lengthOk = true) (hc : checkVerb false v q s = stOk) :
    exec i s = .next (if boundaryFree s = true ∧ a.toNat ≤ (renderNow s).toNat then runNow q i s
      else { s with cl.timed := s.cl.timed ++ [validNow q [i] s] }) := by
  rw [exec_eq_runVerb hi, runVerb_free hm hn, takeVerb_timed hq, takeTimed_accepts ht hv hl hc,
    queueClause_timed (w := validNow q [i] s) hq]

/-- Settles O8, by the status that the arrival gives the clause's times and the queue's room, and, past it, by whether a
boundary at or after the apply-at WT falls now. -/
theorem timedClauseIsQueuedOrRejected : Obligations.TimedClauseIsQueuedOrRejected := by
  intro q a s hm hn hq
  refine ⟨fun i hi => ⟨fun ht => ?_, fun hl hr => ?_, fun hl hs hf => ?_, fun v hv hlen hc hl hf hs hr hb => ?_⟩,
    fun zone mask level hk hl hf hr hs hb ha hi => ?_⟩
  · exact exec_timed_rejects hm hn hq hi (timedStatus_stale ht) (by decide)
  · exact exec_timed_rejects hm hn hq hi (timedStatus_beyond hl hr) (by decide)
  · exact exec_timed_rejects hm hn hq hi (timedStatus_full hl hs hf) (by decide)
  · have hwait : ¬ (boundaryFree s = true ∧ a.toNat ≤ (renderNow s).toNat) := by
      rintro ⟨hfree, hdue⟩
      rcases hb with hb | hb
      · exact absurd hfree (by simp [hb])
      · omega
    rw [exec_timed_accepts hm hn hq hi (timedStatus_ok hl hs hr hf) hv hlen hc, if_neg hwait]
    rfl
  · obtain ⟨L, hrun, hL⟩ := runNow_levelSet (q := q) (zone := zone) (level := level) hk hi
    rw [servedStatus_timed hq] at hrun
    rw [hq] at hL
    refine ⟨L, ?_, hL⟩
    rw [exec_timed_accepts hm hn hq rfl (timedStatus_ok hl hs hr hf) verbOf_levelSet rfl (checkVerb_levelSet hk),
      if_pos ⟨hb, ha⟩, hrun]

end Sys2Proof.Machine
end

section
/-!
PROOFS. Service images (08, R211, R214, R215, R218): what a character does on a line that is heard, and what the write of a
register comes to, in the selection that its address character makes or in the one that stands.
-/
namespace Sys2Proof.Machine

open Sys2Proof.Claims

/-! ## Characters on a line that is heard -/

theorem svcHears_of_claim {t : State} (h : SvcHears t) : svcHears t = true := by
  obtain ⟨hm, hf, hl, hr, hi⟩ := h
  simp [svcHears, svcReady, inRun, foscLocked, hm, hf, hl, hr, hi]

/-- With no NV block a character that is heard is acted on at once. -/
theorem svcChar_heard {c : SvcChar} {t : State} (h : SvcHears t) (hn : t.nv.running = none) :
    svcChar c t = svcTake c (svcEdge t) := by
  have hb : npBlocked t = false := by simp [npBlocked, hn]
  simp only [svcChar, svcHears_of_claim h, hb, if_true, Bool.false_eq_true, if_false]

/-- A data character acts on the register selected for writing (R211). -/
theorem svcTake_data {r b : Byte} {t : State} (h : t.svc.sel = some (false, r)) : svcTake (.data b) t = svcActs r b t := by
  simp only [svcTake, h]

/-- Without a selection a data character is ignored (R214). -/
theorem svcTake_data_unselected {b : Byte} {t : State} (h : t.svc.sel = none) : svcTake (.data b) t = t := by
  simp only [svcTake, h]

/-! ## The write of a register -/

/-- Register `r` is selected for writing and a character is over. An address character for it ends the arming of R216. -/
def svcSelected (addressed : Bool) (r : Byte) (t : State) : State :=
  { t with svc.idle := false, svc.edgeAt := t.now, svc.armed := t.svc.armed && !addressed, svc.sel := some (false, r) }

/-- A register number has b7 clear, and so its address character is that of a write (R211). -/
theorem register_b7_clear {r : Byte} (h : r.toNat < 128) : r.getLsbD 7 = false :=
  Nat.testBit_lt_two_pow h

theorem register_masked {r : Byte} (h : r.toNat < 128) : r &&& 0x7F = r := by
  apply BitVec.eq_of_toNat_eq
  have hm : r.toNat &&& 127 = r.toNat % 128 := Nat.and_two_pow_sub_one_eq_mod r.toNat 7
  exact (BitVec.toNat_and r 0x7F).trans (hm.trans (Nat.mod_eq_of_lt h))

/-- The address character of a write selects its register; it is not the one that reads SVDATA (R211, R216). -/
theorem svcTake_addr {r : Byte} {t : State} (h : r.toNat < 128) :
    svcTake (.addr r) (svcEdge t) = svcSelected true r t := by
  have hd : (r == 0x82) = false := by
    rw [beq_eq_false_iff_ne]
    rintro rfl
    exact absurd h (by decide)
  simp only [svcTake, svcEdge, svcSelected, register_b7_clear h, register_masked h, hd, Bool.and_false, Bool.not_true]

/-- A byte for register `r` acts on it, after its address character or in the selection that stands (R211). -/
theorem svcAccess_writes {addressed : Bool} {r b : Byte} {t : State} (h : SvcHears t) (hn : t.nv.running = none)
    (hr : r.toNat < 128) (hs : addressed = true ∨ t.svc.sel = some (false, r)) :
    svcAccess (addrIf addressed r) b t = svcActs r b (svcSelected addressed r t) := by
  cases addressed with
  | true =>
    have hsel : svcChar (.addr r) t = svcSelected true r t := by rw [svcChar_heard h hn, svcTake_addr hr]
    have hh : SvcHears (svcSelected true r t) := by
      obtain ⟨hm, hf, hl, hrate, -⟩ := h
      exact ⟨hm, hf, hl, hrate, rfl⟩
    calc svcAccess (addrIf true r) b t = svcChar (.data b) (svcSelected true r t) := by rw [← hsel]; rfl
      _ = svcTake (.data b) (svcSelected true r t) := svcChar_heard hh hn
      _ = svcActs r b (svcSelected true r t) := svcTake_data rfl
  | false =>
    have hsel : t.svc.sel = some (false, r) := hs.resolve_left Bool.false_ne_true
    have he : svcEdge t = svcSelected false r t := by simp only [svcEdge, svcSelected, Bool.not_false, Bool.and_true, ← hsel]
    calc svcAccess (addrIf false r) b t = svcTake (.data b) (svcEdge t) := svcChar_heard h hn
      _ = svcActs r b (svcSelected false r t) := by rw [he]; exact svcTake_data rfl

/-- Without a selection and without an address character nothing but the edge is noticed (R214). -/
theorem svcAccess_unselected {a b : Byte} {t : State} (h : SvcHears t) (hn : t.nv.running = none)
    (hs : t.svc.sel = none) : svcAccess (addrIf false a) b t = svcEdge t :=
  (svcChar_heard h hn).trans (svcTake_data_unselected hs)

/-! ## What the registers of the inbound image do -/

theorem svcData_joins {b : Byte} {s : State} (hs : s.svc.submitted = false) (hl : s.svc.image.length < 249) :
    svcData b s = { s with svc.image := s.svc.image ++ [b] } := by
  have hl : ¬ s.svc.image.length ≥ 249 := by omega
  simp [svcData, hs, hl]

theorem svcData_overruns {b : Byte} {s : State} (h : 249 ≤ s.svc.image.length ∨ s.svc.submitted = true) :
    svcData b s = { s with svc.oe := true } :=
  if_pos (by simpa [or_comm] using h)

/-- The image passes the checks of R218. -/
theorem imageOk_iff {l : List Byte} : imageOk l = true ↔
    be16 l 0 = 0xFFFE ∧ 0x2000 ≤ (be16 l 2).toNat ∧ (be16 l 2).toNat ≤ 0x2FFF
      ∧ (l.getD 6 0).toNat ≤ 240 ∧ l.length = 9 + (l.getD 6 0).toNat ∧ crc16 l = 0 := by
  simp only [imageOk, localSrc, Bool.and_eq_true, beq_iff_eq, decide_eq_true_eq, and_assoc]

theorem svcSubmit_overruns {s : State} (h : s.svc.submitted = true) : svcSubmit s = { s with svc.oe := true } :=
  if_pos h

theorem svcSubmit_accepts {s : State} (hs : s.svc.submitted = false) (hi : imageOk s.svc.image = true) :
    svcSubmit s = { s with svc.submitted := true, svc.submittedAt := s.now } := by
  simp only [svcSubmit, hs, hi, Bool.false_eq_true, if_false, if_true]

theorem svcSubmit_discards {s : State} (hs : s.svc.submitted = false) (hi : ¬ imageOk s.svc.image = true) :
    svcSubmit s = { s with svc.image := [], svc.cause := s.svc.cause ||| 0x04 } := by
  simp only [svcSubmit, hs, hi, Bool.false_eq_true, if_false]

/-- RXRDY, b6 of SVSTAT, reads 0 while a submission is pending (Table 8-3). -/
theorem svstat_rxrdy {s : State} : (svstat s).getLsbD 6 = !s.svc.submitted := by
  simp only [svstat]
  generalize s.svc.oe = oe, s.svc.pe = pe, s.svc.fe = fe, s.svc.col = col, attn s = at_, s.svc.out.isSome = tx,
    s.svc.submitted = rx, nvBusy s = nv
  revert oe pe fe col at_ tx rx nv
  decide

/-! ## O46 -/

section

variable {dt : Nat} {addressed : Bool} {b : Byte} {s : State}

theorem exec_svdataWrite :
    exec (.svdataWrite dt addressed b) s = .next (svcAccess (addrIf addressed 2) b (elapse dt s)) := rfl

theorem exec_svdoorSubmit :
    exec (.svdoorSubmit dt addressed) s = .next (svcAccess (addrIf addressed 3) 0xA5 (elapse dt s)) := rfl

theorem exec_svdoorDiscard :
    exec (.svdoorDiscard dt addressed) s = .next (svcAccess (addrIf addressed 3) 0x5A (elapse dt s)) := rfl

theorem exec_svctlWrite :
    exec (.svctlWrite dt addressed b) s = .next (svcAccess (addrIf addressed 7) b (elapse dt s)) := rfl

end

/-- Settles O46: each write is one byte for its register in the selection that the line holds by then, and the cases are those
of the register. -/
theorem imagesAreSubmitted : Obligations.ImagesAreSubmitted := by
  intro dt addressed b s
  rw [exec_svdataWrite, exec_svdoorSubmit, exec_svdoorDiscard, exec_svctlWrite]
  generalize elapse dt s = u
  intro t x sel hears hn
  refine ⟨fun hs => ?_, fun hs => ?_, fun ha hs => ?_⟩
  · have hw := svcAccess_writes (r := 2) (b := b) hears hn (by decide) hs
    rw [hw]
    exact ⟨fun hp hl => congrArg Host.Outcome.next (svcData_joins hp hl),
      fun ho => congrArg Host.Outcome.next (svcData_overruns ho)⟩
  · have hw := fun c : Byte => svcAccess_writes (r := 3) (b := c) hears hn (by decide) hs
    rw [hw, hw]
    refine ⟨fun hp => congrArg Host.Outcome.next (svcSubmit_overruns hp), fun hp => ?_, rfl⟩
    intro good waiting
    refine ⟨fun hg => ⟨?_, svstat_rxrdy⟩, fun hb => ?_⟩
    · exact congrArg Host.Outcome.next (svcSubmit_accepts hp (imageOk_iff.2 hg))
    · exact congrArg Host.Outcome.next (svcSubmit_discards hp fun hi => hb (imageOk_iff.1 hi))
  · subst ha
    have hw := fun a c : Byte => svcAccess_unselected (a := a) (b := c) hears hn hs
    exact ⟨congrArg _ (hw 2 b), congrArg _ (hw 3 0xA5), congrArg _ (hw 3 0x5A), congrArg _ (hw 7 b)⟩

end Sys2Proof.Machine
end

section
/-!
PROOFS. SPAN.CFG and SPAN.STATUS (16, R439, R440): the reply to a verb served at the boundary that falls now, a rejection there,
and for each of the two verbs its checks, its effect and its result.
-/
namespace Sys2Proof.Machine

open Sys2Proof.Claims

/-! ## A command at a boundary that serves it -/

/-- A verb with an answer now, other than ADDR.SET and ADDR.CLAIM: the reply follows the state `t` that its effect and its
answer leave of the opened clause, with the clause closed (R19, R177). -/
theorem exec_answers_of_ready {q : Req} {i : Instr} {v : Verb} {s u t : State} {op st : Byte} {r : List Byte}
    (h : Ready q s) (hq : i.req? = some q) (hv : verbOf i = some v) (hl : i.lengthOk = true) (ho : v.op = op)
    (hs : op ≠ opAddrSet) (hc : op ≠ opAddrClaim) (hk : ∀ due, checkVerb due v q s = stOk)
    (ha : v.ans (bdNow q s (opened q i s)) (restartHold (v.eff (bdNow q s (opened q i s)) (opened q i s))) = some (u, st, r))
    (hw : u.cl.waiting = (opened q i s).cl.waiting) (hu : closeClause s.cl.nextId u = t) :
    exec i s = .next (replied q op st r s t) := by
  subst ho
  obtain ⟨hm, hb, hn, hi⟩ := h
  have hwait : u.cl.waiting = s.cl.waiting ++ [waitingOf q v.op s] := by
    rw [hw, waitingOf, ← emptyEntries_one hv]
    rfl
  rw [exec_eq_runVerb hq, runVerb_answers hm hb hn hi hv hl hk ha hwait, finishClause_one hs hc, hu, replied]

/-- A verb that consumes no nonce and whose checks fail (R177, R181). -/
theorem exec_rejects_of_ready {q : Req} {i : Instr} {v : Verb} {s : State} {st : Byte} (h : Ready q s)
    (hq : i.req? = some q) (hv : verbOf i = some v) (hl : i.lengthOk = true) (hn : burnsInstr i = false)
    (hk : checkVerb false v q s = st) (hst : st ≠ stOk) :
    exec i s = .next (rejected q v.op st s) := by
  obtain ⟨hm, hb, ht, -⟩ := h
  have hrun : s.nv.running = none := by simpa [npBlocked] using boundaryFree_blocked hb
  rw [exec_eq_runVerb hq, runVerb_rejects hm hrun ht hv hl hk hst hn]
  rfl

/-- The checks of an untimed clause's verb are those of its row, on arrival and, where the row names no others, as it falls due
(R181). -/
theorem checkVerb_untimed {due : Bool} {q : Req} {v : Verb} {s : State} (hq : q.applyAt = none) (ha : v.again = v.chk) :
    checkVerb due v q s = v.chk (lockStatus v.prot q s) s := by
  have hst : ∀ st : Byte, firstStatus [stOk, st] = st := fun st => by
    simp only [firstStatus, if_true]
    split <;> simp [*]
  simp only [checkVerb, hq, ha, Option.isSome_none, Bool.false_and, firstBad, Bool.false_eq_true, if_false, ite_self, hst]

theorem lockStatus_unlocked {prot : Bool} {q : Req} {s : State} (h : Unlocked q s) : lockStatus prot q s = stOk := by
  rcases h with h | h <;> simp [lockStatus, h]

/-- Opening and closing a command's clause leaves the number used and the restart of REST_HOLD between the two. -/
theorem closeClause_restartHold_opened {q : Req} {i : Instr} {s : State} (hi : idsOk s.cl.waiting s.cl.nextId) :
    closeClause s.cl.nextId (restartHold (opened q i s)) = counted s :=
  congrArg restartHold (closeClause_openClause hi)

/-! ## SPAN.CFG -/

/-- SPAN.CFG's row of the verb table. -/
def spanCfgVerb (mode flags : Byte) (defrate : W32) : Verb :=
  { op := 0xA0, timed := false, prot := true, result := 6,
    chk := fun lk _ => chkSpanCfg mode flags defrate lk,
    eff := fun _ s => effSpanCfg mode flags defrate s,
    ans := fun _ s => some (ansSpanCfg s) }

theorem verbOf_spanCfg {q : Req} {mode flags : Byte} {defrate : W32} :
    verbOf (.spanCfg q mode flags defrate) = some (spanCfgVerb mode flags defrate) := rfl

/-- Storing passes with the two defined flags and a rate of the arbitrated band. -/
theorem chkSpanCfg_stores {flags : Byte} {defrate : W32} (hf : flags.toNat < 4) (hlo : 50000 ≤ defrate.toNat)
    (hhi : defrate.toNat ≤ 1050000) : chkSpanCfg 1 flags defrate stOk = stOk := by
  have hz : highZero 2 flags = true := decide_eq_true hf
  have hlo' : ¬ defrate.toNat < 50000 := by omega
  have hhi' : ¬ defrate.toNat > 1050000 := by omega
  simp [chkSpanCfg, firstStatus, firstBad, hz, hlo', hhi']

theorem chkSpanCfg_reads : chkSpanCfg 0 0 0 stOk = stOk := by decide

theorem checkVerb_spanCfg {due : Bool} {q : Req} {mode flags : Byte} {defrate : W32} {s : State} (hq : q.applyAt = none)
    (hu : Unlocked q s) (hc : chkSpanCfg mode flags defrate stOk = stOk) :
    checkVerb due (spanCfgVerb mode flags defrate) q s = stOk := by
  rw [checkVerb_untimed hq rfl, lockStatus_unlocked hu]
  exact hc

/-- Whether a stored termination flag connects the termination in RUN (R57, R59). -/
def termStored (flags : Byte) (s : State) : Bool := flags.getLsbD 0 && !s.pw.extOn && decide (s.pw.vin > 0)

/-- The bus settings stored, with the termination they connect. -/
def spanStored (flags : Byte) (defrate : W32) (s : State) : State :=
  { persist { s with cfg.term := flags.getLsbD 0, cfg.ext := flags.getLsbD 1, cfg.defRate := defrate.toNat } with
    pw.termOn := termStored flags s }

/-- Storing moves the termination and nothing else of the line (R439). -/
theorem effSpanCfg_stores {flags : Byte} {defrate : W32} {s : State} (hm : s.pw.mode = .run) :
    effSpanCfg 1 flags defrate s = spanStored flags defrate s := by
  simp [effSpanCfg, spanStored, termNow, termStored, persist, svcAlive, hm]

theorem flagBits_pair {a b : Bool} : flagBits [a, b] = (if a then 1 else 0) + (if b then 2 else 0) := by
  cases a <;> cases b <;> rfl

/-- The two stored flags read back as they were given. -/
theorem flagBits_low_pair {b : Byte} (h : b.toNat < 4) : BitVec.ofNat 8 (flagBits [b.getLsbD 0, b.getLsbD 1]) = b := by
  revert b
  decide

theorem lineByte_eq_lineOf {s : State} : lineByte s = lineOf s.pw.termOn s := by
  have hsum : ∀ a b c : Bool, flagBits [a, b, c] = (if a then 1 else 0) + (if b then 2 else 0) + (if c then 4 else 0) := by
    decide
  rw [lineByte, hsum]
  rfl

/-- SPAN.CFG of mode 1 served now (R57, R59, R439). -/
theorem exec_spanCfg_stores {q : Req} {flags : Byte} {defrate : W32} {s : State} (h : Ready q s) (hu : Unlocked q s)
    (hf : flags.toNat < 4) (hlo : 50000 ≤ defrate.toNat) (hhi : defrate.toNat ≤ 1050000) :
    exec (.spanCfg q 1 flags defrate) s = .next (replied q 0xA0 0
      ([flags] ++ leBytes 4 defrate.toNat ++ [lineOf (termStored flags s) s]) s (spanStored flags defrate (counted s))) := by
  let op := opened q (.spanCfg q 1 flags defrate) s
  have ⟨hm, _, ht, hi⟩ := h
  have heff : effSpanCfg 1 flags defrate op = spanStored flags defrate op := effSpanCfg_stores hm
  have hans : ansSpanCfg (restartHold (spanStored flags defrate op)) = okAns (restartHold (spanStored flags defrate op))
      ([flags] ++ leBytes 4 defrate.toNat ++ [lineOf (termStored flags s) s]) := by
    rw [ansSpanCfg, lineByte_eq_lineOf]
    exact congrArg (fun b => okAns _ ([b] ++ _ ++ _)) (flagBits_low_pair hf)
  have hclose : closeClause s.cl.nextId (restartHold (spanStored flags defrate op)) = spanStored flags defrate (counted s) :=
    congrArg (spanStored flags defrate) (closeClause_restartHold_opened hi)
  exact exec_answers_of_ready (v := spanCfgVerb 1 flags defrate) h rfl verbOf_spanCfg rfl rfl (by decide) (by decide)
    (fun _ => checkVerb_spanCfg ht hu (chkSpanCfg_stores hf hlo hhi))
    (congrArg some ((congrArg (fun u => ansSpanCfg (restartHold u)) heff).trans hans)) rfl hclose

/-- SPAN.CFG of mode 0 served now. -/
theorem exec_spanCfg_reads {q : Req} {s : State} (h : Ready q s) (hu : Unlocked q s) :
    exec (.spanCfg q 0 0 0) s = .next (replied q 0xA0 0
      ([BitVec.ofNat 8 ((if s.cfg.term then 1 else 0) + (if s.cfg.ext then 2 else 0))] ++ leBytes 4 s.cfg.defRate
        ++ [lineOf s.pw.termOn s]) s (counted s)) := by
  have ⟨_, _, ht, hi⟩ := h
  rw [← flagBits_pair, ← lineByte_eq_lineOf]
  exact exec_answers_of_ready (v := spanCfgVerb 0 0 0) h rfl verbOf_spanCfg rfl rfl (by decide) (by decide)
    (fun _ => checkVerb_spanCfg ht hu chkSpanCfg_reads) rfl rfl (closeClause_restartHold_opened hi)

/-! ## SPAN.STATUS -/

/-- SPAN.STATUS's row of the verb table. -/
def spanStatusVerb (mode : Byte) : Verb :=
  { op := 0xA1, timed := true, prot := false, result := 15,
    chk := fun _ _ => chkSpanStatus mode,
    eff := fun _ s => s,
    ans := fun _ s => some (ansSpanStatus mode s) }

theorem verbOf_spanStatus {q : Req} {mode : Byte} : verbOf (.spanStatus q mode) = some (spanStatusVerb mode) := rfl

/-- SPAN.STATUS's one check is that of its mode (R440). -/
theorem checkVerb_spanStatus {due : Bool} {q : Req} {mode : Byte} {s : State} (hq : q.applyAt = none) :
    checkVerb due (spanStatusVerb mode) q s = if 1 < mode.toNat then 0x12 else stOk := by
  rw [checkVerb_untimed hq rfl]
  simp only [spanStatusVerb, chkSpanStatus, firstBad, gt_iff_lt, decide_eq_true_eq, stBadArg]

/-- TX_DROPPED after a SPAN.STATUS. -/
def dropsRead (mode : Byte) (s : State) : State :=
  { s with span.txDropped := if mode = 1 then 0 else s.span.txDropped }

theorem ansSpanStatus_state {mode : Byte} {s : State} : (ansSpanStatus mode s).1 = dropsRead mode s := by
  unfold ansSpanStatus dropsRead
  split <;> rfl

/-- SPAN.STATUS of a mode that is defined, served now: the result is read before the counter is cleared. -/
theorem exec_spanStatus_answers {q : Req} {mode : Byte} {s : State} (h : Ready q s) (hk : mode.toNat ≤ 1) :
    exec (.spanStatus q mode) s = .next (replied q 0xA1 0
      (leBytes 4 (heldRate s) ++ leBytes 4 s.span.lastRate ++ leBytes 4 s.span.txDropped
        ++ [BitVec.ofNat 8 s.span.ring.length, BitVec.ofNat 8 s.span.outQ.length, s.span.lastDrop]) s
      (dropsRead mode (counted s))) := by
  let op := opened q (.spanStatus q mode) s
  have ⟨_, _, ht, hi⟩ := h
  have hans : ansSpanStatus mode (restartHold op)
      = (dropsRead mode (restartHold op), (ansSpanStatus mode (restartHold op)).2) :=
    Prod.ext ansSpanStatus_state rfl
  have hclose : closeClause s.cl.nextId (dropsRead mode (restartHold op)) = dropsRead mode (counted s) :=
    congrArg (dropsRead mode) (closeClause_restartHold_opened hi)
  exact exec_answers_of_ready (v := spanStatusVerb mode) h rfl verbOf_spanStatus rfl rfl (by decide) (by decide)
    (fun _ => (checkVerb_spanStatus ht).trans (if_neg (by omega))) (congrArg some hans) rfl hclose

theorem exec_spanStatus_rejects {q : Req} {mode : Byte} {s : State} (h : Ready q s) (hk : 1 < mode.toNat) :
    exec (.spanStatus q mode) s = .next (rejected q 0xA1 0x12 s) := by
  have ⟨_, _, ht, _⟩ := h
  exact exec_rejects_of_ready (v := spanStatusVerb mode) h rfl verbOf_spanStatus rfl rfl
    ((checkVerb_spanStatus ht).trans (if_pos hk)) (by decide)

/-! ## O36 -/

/-- Settles O36: each clause is one of the two verbs, served or rejected at the boundary that falls now. -/
theorem busIsSetAndRead : Obligations.BusIsSetAndRead := by
  intro q s h
  exact ⟨fun _ _ hu hf hlo hhi => exec_spanCfg_stores h hu hf hlo hhi, exec_spanCfg_reads h,
    fun _ hk => exec_spanStatus_answers h hk, fun _ hk => exec_spanStatus_rejects h hk⟩

end Sys2Proof.Machine
end

section
/-!
PROOFS. Steps (00, 01, 03): what every command answers, that each keeps the invariant, and that a refusal is a boot's.
-/
namespace Sys2Proof.Machine

open Sys2Proof.Claims

-- Proofs in parallel hold one thread each, and a text this long would have more of them than the check has room for.
set_option Elab.async false

/-! ## The queue and the reset state -/

/-- Settles O1: it is the second equation of `step`. -/
theorem stepRunsFrontCommand : Obligations.StepRunsFrontCommand := fun _ _ _ => rfl

/-- Settles O2: memory is empty, every queue is, and no tick has begun. -/
theorem resetMeetsInvariant : Obligations.ResetMeetsInvariant := by
  have hmem : memOk State.reset.nv.mem State.reset.rd.active State.reset.rd.staging := ⟨by decide, by decide, by decide⟩
  have hlen : ∀ {α : Type} {n : Nat}, ([] : List α).length ≤ n := Nat.zero_le _
  exact ⟨hmem, ⟨hlen, hlen, hlen, hlen, hlen, hlen⟩, fun _ hw => absurd hw List.not_mem_nil, by decide⟩

/-! ## The invariant along a step -/

/-- Every event keeps the invariant, each by the lemma of its row. -/
theorem exec_event_keeps {i : Instr} {s : State} (h : s.Inv) (hi : i.req? = none) : Keeps (exec i s) := by
  unfold exec
  cases i
  case spanlineFrameClose => exact execSpanlineFrameClose_keeps h
  case receiveTimeout => exact execReceiveTimeout_keeps h
  case clauseTakeUp => exact execClauseTakeUp_keeps h
  case timedClauseDue => exact execTimedClauseDue_keeps h
  case frameBoundary => exact execFrameBoundary_keeps h
  case syncEdge => exact execSyncEdge_keeps h
  case syncHold => exact execSyncHold_keeps h
  case keystoneWindowExpiry => exact execKeystoneWindowExpiry_keeps h
  case busIdle => exact execBusIdle_keeps h
  case arbitrationLoss => exact execArbitrationLoss_keeps h
  case transmitFault => exact execTransmitFault_keeps (bit := 0) h
  case frameSent => exact execFrameSent_keeps h
  case wakeBandTraffic => exact execWakeBandTraffic_keeps h
  case wakeHoldoffExpiry => exact execWakeHoldoffExpiry_keeps h
  case slotReplyStart => exact execSlotReplyStart_keeps h
  case lateWindowOpen => exact execLateWindowOpen_keeps h
  case lateReplyHoldoff => exact execLateReplyHoldoff_keeps h
  case lateReplyCancel => exact execLateReplyCancel_keeps h
  case claimHoldoff => exact execClaimHoldoff_keeps h
  case restHoldExpiry => exact execRestHoldExpiry_keeps h
  case wakeFrame => exact execWakeFrame_keeps h
  case svcWake => exact execSvcWake_keeps h
  case keepBurst => exact execKeepBurst_keeps h
  case shelfEntry => exact execShelfEntry_keeps h
  case wrcStop => exact execWrcStop_keeps h
  case powerOn => exact execPowerOn_keeps h
  case resetPin => exact execResetPin_keeps h
  case brownOut => exact execBrownOut_keeps h
  case watchdog => exact execWatchdog_keeps h
  case resetAfterReply => exact execResetAfterReply_keeps h
  case vinGood => exact execVinGood_keeps h
  case save => exact execSave_keeps h
  case saveComplete => exact execSaveComplete_keeps h
  case holdoverVinGood => exact execHoldoverVinGood_keeps h
  case darkcutEntry => exact execDarkcutEntry_keeps h
  case darkcutExit => exact execDarkcutExit_keeps h
  case keepalivePowerOnReset => exact execKeepalivePowerOnReset_keeps h
  case overcurrent => exact execOvercurrent_keeps h
  case hardDisconnect => exact execHardDisconnect_keeps h
  case chargeStateChange => exact execChargeStateChange_keeps h
  case chargeTemperatureCheck => exact execChargeTemperatureCheck_keeps h
  case reserveTest => exact execReserveTest_keeps h
  case vioLow => exact execVioLow_keeps h
  case vioGood => exact execVioGood_keeps h
  case lfxoFailure => exact execLfxoFailure_keeps h
  case thermalUpdate => exact execThermalUpdate_keeps h
  case bandgapWindow => exact execBandgapWindow_keeps h
  case coldStart => exact execColdStart_keeps h
  case coldStartEnd => exact execColdStartEnd_keeps h
  case vocSample => exact execVocSample_keeps h
  case vocSampleEnd => exact execVocSampleEnd_keeps h
  case loopReturn => exact execLoopReturn_keeps h
  case returnDeadline => exact execReturnDeadline_keeps h
  case maintenanceStart => exact execMaintenanceStart_keeps h
  case maintenanceForced => exact execMaintenanceForced_keeps h
  case presenceSample => exact execPresenceSample_keeps h
  case backwardAnswer => exact execBackwardAnswer_keeps h
  case answerTimeout => exact execAnswerTimeout_keeps h
  case periodicProbe => exact execPeriodicProbe_keeps h
  case readinessTimeout => exact execReadinessTimeout_keeps h
  case lampenAssert => exact execLampenAssert_keeps h
  case relayInputFrame => exact execRelayInputFrame_keeps h
  case relayInputLoss => exact execRelayInputLoss_keeps h
  case relayKeep => exact execRelayKeep_keeps h
  case relayHoldLimit => exact execRelayHoldLimit_keeps h
  case onTimeTick => exact execOnTimeTick_keeps h
  case powerOnTimeTick => exact execPowerOnTimeTick_keeps h
  case periodicSave => exact execPeriodicSave_keeps h
  case counterBankErase => exact execCounterBankErase_keeps h
  case nvOperationStart => exact execNvOperationStart_keeps h
  case nvOperationComplete => exact execNvOperationComplete_keeps h
  case curveSectorRewrite => exact execCurveSectorRewrite_keeps h
  case deckLoadComplete => exact execDeckLoadComplete_keeps h
  case evtFail => exact execEvtFail_keeps h
  case eventHoldoffExpiry => exact execEventHoldoffExpiry_keeps h
  case stageTimeout => exact execStageTimeout_keeps h
  case sceneBufferTimeout => exact execSceneBufferTimeout_keeps h
  case curveBufferTimeout => exact execCurveBufferTimeout_keeps h
  case fwSessionTimeout => exact execFwSessionTimeout_keeps h
  case fwVerificationEnd => exact execFwVerificationEnd_keeps h
  case nonceExpiry => exact execNonceExpiry_keeps h
  case fwConfirmation => exact execFwConfirmation_keeps h
  case fwConfirmTimeout => exact execFwConfirmTimeout_keeps h
  case svsync => exact execSvsync_keeps h
  case svcIdle => exact execSvcIdle_keeps h
  case svdataWrite => exact execSvdataWrite_keeps h
  case svdoorSubmit => exact execSvdoorSubmit_keeps h
  case svdoorDiscard => exact execSvdoorDiscard_keeps h
  case svctlWrite => exact execSvctlWrite_keeps h
  case svstatRead => exact execSvstatRead_keeps h
  case svdataRead => exact execSvdataRead_keeps h
  case svcauseRead => exact execSvcauseRead_keeps h
  case registerWrite => exact execRegisterWrite_keeps h
  case svcCharacterError => exact execSvcCharacterError_keeps h
  case collision => exact execCollision_keeps h
  case submissionTakeUp => exact execSubmissionTakeUp_keeps h
  case vkaSourceHandover => exact execVkaSourceHandover_keeps h
  case hardDisconnectEnd => exact execHardDisconnectEnd_keeps h
  case stringFrameEof => exact execStringFrameEof_keeps h
  case shelfSvcEdge => exact execShelfSvcEdge_keeps h
  case relayInputLow => exact execRelayInputLow_keeps h
  all_goals cases hi

/-- A command is a verb's, which `runVerb` runs, or an event's. -/
theorem exec_keeps {i : Instr} {s : State} (h : s.Inv) : Keeps (exec i s) := by
  cases hq : i.req? with
  | some q =>
    rw [exec_eq_runVerb hq]
    exact keeps_go (runVerb_inv h)
  | none => exact exec_event_keeps h hq

/-- What a step answers: with no command waiting one tick later, and else what the command at the front answers. -/
theorem step_cases {s : State} {o : Host.Outcome State Fault Refusal} (h : step s = o) :
    (s.pending = [] ∧ o = .next (elapse Config.tickPs s))
      ∨ ∃ c rest, s.pending = c :: rest ∧ o = exec c { s with pending := rest } := by
  subst h
  unfold step
  split
  · exact .inl ⟨‹_›, rfl⟩
  · exact .inr ⟨_, _, ‹_›, rfl⟩

/-- Settles O3: time that passes keeps the invariant, and so does every command, whatever waits behind it. -/
theorem stepKeepsInvariant : Obligations.StepKeepsInvariant := by
  intro s t h ht
  obtain ⟨-, hnext⟩ | ⟨c, rest, -, hexec⟩ := step_cases ht
  · cases hnext
    exact elapse_inv h
  · have hrest : State.Inv { s with pending := rest } := h
    exact exec_keeps hrest t hexec.symm

/-! ## Refusals -/

/-- The commands that can end in a boot (R83, R87). -/
def boots : Instr → Bool
  | .powerOn _ _ | .resetPin _ _ _ | .brownOut _ _ _ _ | .darkcutExit _ _ _ | .watchdog _ _ | .resetAfterReply _ _
  | .vinGood _ _ | .saveComplete _ _ | .holdoverVinGood _ _ | .fwConfirmTimeout _ _ => true
  | _ => false

/-- An event that is no reset answers a next state. -/
theorem exec_event_runs {i : Instr} {s : State} (hi : i.req? = none) (hb : boots i = false) : ∃ t, exec i s = .next t := by
  unfold exec
  cases i
  -- What is left once the verbs and the resets are gone.
  all_goals try cases hi
  all_goals try cases hb
  all_goals exact ⟨_, rfl⟩

/-- Every command that is no reset answers a next state. -/
theorem exec_runs {i : Instr} {s : State} (hb : boots i = false) : ∃ t, exec i s = .next t := by
  cases hq : i.req? with
  | some q => exact ⟨_, exec_eq_runVerb hq⟩
  | none => exact exec_event_runs hq hb

/-- An outcome that is a refusal names another release (R2). -/
def RefusesRelease (o : Host.Outcome State Fault Refusal) : Prop := ∀ r, o = .refused r → r = .otherRelease

theorem refusesRelease_go {s : State} : RefusesRelease (go s) := fun _ h => nomatch h

theorem refusesRelease_ite {c : Prop} [Decidable c] {o p : Host.Outcome State Fault Refusal} (ho : RefusesRelease o)
    (hp : RefusesRelease p) : RefusesRelease (if c then o else p) := by
  split
  · exact ho
  · exact hp

/-- The boot refuses an image whose header names another release (R2, R460). -/
theorem bootOn_refusesRelease {b : BootIn} {s : State} : RefusesRelease (bootOn b s) :=
  refusesRelease_ite refusesRelease_go (refusesRelease_ite (fun r h => by cases h; rfl) refusesRelease_go)

theorem bootFrom_refusesRelease {cause : Byte} {b : BootIn} {s : State} : RefusesRelease (bootFrom cause b s) :=
  refusesRelease_ite refusesRelease_go (refusesRelease_ite refusesRelease_go bootOn_refusesRelease)

theorem resetAny_refusesRelease {cause : Byte} {b : BootIn} {s : State} : RefusesRelease (resetAny cause b s) :=
  refusesRelease_ite bootFrom_refusesRelease refusesRelease_go

/-- A refusal names another release, whatever the command. -/
theorem exec_refusesRelease {i : Instr} {s : State} : RefusesRelease (exec i s) := by
  cases hb : boots i with
  | false =>
    obtain ⟨t, ht⟩ := exec_runs (s := s) hb
    rw [ht]
    exact refusesRelease_go
  | true =>
    have hor : ∀ {c : Prop} [Decidable c] {t : State} {o : Host.Outcome State Fault Refusal}, RefusesRelease o →
        RefusesRelease (if c then o else go t) := fun ho => refusesRelease_ite ho refusesRelease_go
    cases i
    case powerOn => exact bootFrom_refusesRelease
    case resetPin => exact refusesRelease_ite resetAny_refusesRelease (refusesRelease_ite refusesRelease_go
      (hor resetAny_refusesRelease))
    case brownOut => exact hor resetAny_refusesRelease
    case darkcutExit => exact refusesRelease_ite refusesRelease_go (hor bootFrom_refusesRelease)
    case watchdog => exact hor bootFrom_refusesRelease
    case resetAfterReply => exact hor bootFrom_refusesRelease
    case vinGood => exact hor bootOn_refusesRelease
    case saveComplete => exact hor (refusesRelease_ite refusesRelease_go bootFrom_refusesRelease)
    case holdoverVinGood => exact refusesRelease_ite refusesRelease_go (hor bootFrom_refusesRelease)
    case fwConfirmTimeout => exact hor bootFrom_refusesRelease
    all_goals cases hb

/-- The commands that can end in a boot, with the time and the boot's inputs that each carries. -/
theorem boots_cases {c : Instr} (h : boots c = true) : ∃ (dt : Nat) (b : BootIn), c = .powerOn dt b
    ∨ (∃ w, c = .resetPin dt w b) ∨ (∃ vin vres, c = .brownOut dt vin vres b) ∨ (∃ vres, c = .darkcutExit dt vres b)
    ∨ c = .watchdog dt b ∨ c = .resetAfterReply dt b ∨ c = .vinGood dt b ∨ c = .saveComplete dt b
    ∨ c = .holdoverVinGood dt b ∨ c = .fwConfirmTimeout dt b := by
  cases c
  case powerOn dt b => exact ⟨dt, b, by simp⟩
  case resetPin dt w b => exact ⟨dt, b, by simp⟩
  case brownOut dt vin vres b => exact ⟨dt, b, by simp⟩
  case darkcutExit dt vres b => exact ⟨dt, b, by simp⟩
  case watchdog dt b => exact ⟨dt, b, by simp⟩
  case resetAfterReply dt b => exact ⟨dt, b, by simp⟩
  case vinGood dt b => exact ⟨dt, b, by simp⟩
  case saveComplete dt b => exact ⟨dt, b, by simp⟩
  case holdoverVinGood dt b => exact ⟨dt, b, by simp⟩
  case fwConfirmTimeout dt b => exact ⟨dt, b, by simp⟩
  all_goals cases h

/-- Settles O5: a command that is no reset answers a next state, and a boot's refusal names another release. -/
theorem onlyResetsRefuse : Obligations.OnlyResetsRefuse := by
  intro c s r h
  refine ⟨exec_refusesRelease r h, boots_cases ?_⟩
  by_contra hb
  obtain ⟨t, ht⟩ := exec_runs (s := s) (Bool.eq_false_of_not_eq_true hb)
  cases ht.symm.trans h

/-! ## A verb's command -/

/-- Every verb is a command with a clause header. -/
theorem req_of_verbOf {i : Instr} (h : verbOf i ≠ none) : ∃ q, i.req? = some q := by
  cases i
  -- What is left once the events are gone.
  all_goals try exact absurd rfl h
  all_goals exact ⟨_, rfl⟩

theorem runVerb_outside_run {q : Req} {i : Instr} {s : State} (hm : s.pw.mode ≠ .run) : runVerb q i s = s := by
  have hr : inRun s = false := by simpa [inRun] using hm
  simp only [runVerb, hr, Bool.not_false, if_true]

/-- A verb whose answer comes later leaves its clause waiting (R179). -/
theorem openClause_waits {q : Req} {i : Instr} {v : Verb} {s : State} (hv : verbOf i = some v) :
    opened q i s = waits q v.op s { s with cl.nextId := s.cl.nextId + 1 } := by
  simp only [openClause, emptyEntries_one hv]
  rfl

/-- Settles O6: outside RUN `runVerb` does nothing; at the boundary that falls now it opens the clause, applies the verb and
takes its answer. -/
theorem verbsRunOnlyInRun : Obligations.VerbsRunOnlyInRun := by
  refine ⟨fun i s hv hm => ?_, fun i v q s hv hq hl h hc => ?_⟩
  · obtain ⟨q, hq⟩ := req_of_verbOf hv
    rw [exec_eq_runVerb hq, runVerb_outside_run hm]
  · obtain ⟨hm, hb, ht, hi⟩ := h
    intro op b done
    have ho : opened q i s = op := openClause_waits hv
    have hbd : bdNow q s op = b := by simp only [bdNow, bdOf, ht]; rfl
    rw [exec_eq_runVerb hq]
    refine ⟨fun ha => ?_, fun u st r ha hw => ?_⟩
    · rw [runVerb_waits hm hb ht hv hl hc (by rw [ho, hbd]; exact ha), ho, hbd]
    · have hclose : closeClause s.cl.nextId u = { u with cl.waiting := s.cl.waiting } := by
        have hf := filter_opened (w := waitingOf q v.op s) hi
        simp only [closeClause, hw]
        exact congrArg (fun l => ({ u with cl.waiting := l } : State)) hf
      rw [runVerb_answers hm hb ht hi hv hl hc (by rw [ho, hbd]; exact ha) hw, hclose]

/-- Settles O7: an NV block is looked at before the clause, and with the NP free its checks are. -/
theorem untimedVerbWaitsDuringBlock : Obligations.UntimedVerbWaitsDuringBlock := by
  intro i v q s hv hq hm w
  rw [exec_eq_runVerb hq]
  refine ⟨fun hn => ?_, fun hn hb ht hl hc => ?_⟩
  · have hr : inRun s = true := by simp [inRun, hm]
    have hblk : npBlocked s = true := by simpa [npBlocked, Option.isSome_iff_ne_none] using hn
    simp only [runVerb, hr, hblk, Bool.not_true, Bool.false_eq_true, if_false, if_true]
    rfl
  · rw [runVerb_queued hm hn hb ht hv hl hc]
    rfl

/-! ## The address match (R135, Table 5-6) -/

/-- Settles O39: by the rows of Table 5-6, in the order in which the match looks at them. -/
theorem addressesMatchByTable : Obligations.AddressesMatchByTable := by
  intro h l s
  refine ⟨rfl, ?_, fun ha => ?_, fun hlo hhi => ?_⟩
  · have hb : ¬ ((0x10 : Byte) = 0 ∧ l = 0) := fun e => absurd e.1 (by decide)
    rw [matchOf, if_neg hb, if_pos rfl]
  · have hu : unaddressed s = true := by simp [unaddressed, ha]
    simp [matchOf, hu]
  · have hb : ¬ (h = 0 ∧ l = 0) := by
      rintro ⟨rfl, rfl⟩
      exact absurd hlo (by decide)
    have hg : h ≠ 0x10 := by
      rintro rfl
      exact absurd hhi (by simp; omega)
    have hff : ¬ (h = 0xFF ∧ l = 0xFF) := by
      rintro ⟨rfl, rfl⟩
      exact absurd hhi (by decide)
    rw [matchOf, if_neg hb, if_neg hg]
    by_cases ha : s.cfg.addr = 0
    · have hu : unaddressed s = true := by simp [unaddressed, ha]
      have hz : ¬ s.cfg.addr.toNat = 256 * h.toNat + l.toNat := by rw [ha]; simp; omega
      rw [if_pos hu, if_neg hff, if_neg hz]
    · have hu : ¬ unaddressed s = true := by simpa [unaddressed] using ha
      rw [if_neg hu]
      simp only [eq_comm, Nat.mul_comm]

end Sys2Proof.Machine
end

section
/-!
PROOFS. Verbs served at the boundary that falls now (07, 14 to 17): what a verb's command answers, from what its effect and its
answer make of the opened clause.
-/
namespace Sys2Proof.Machine

open Sys2Proof.Claims

-- Proofs in parallel hold one thread each, and a text this long would have more of them than the check has room for.
set_option Elab.async false

/-- The state `s` with a clause's number given out: what a verb's effect starts from, without its clause. -/
abbrev numbered (s : State) : State := { s with cl.nextId := s.cl.nextId + 1 }

/-- The checks of an untimed clause's verb, on arrival and as it falls due (R181). -/
theorem checkVerb_passes {q : Req} {v : Verb} {s : State} (hq : q.applyAt = none)
    (hc : v.chk (lockStatus v.prot q s) s = stOk) (hg : v.again (lockStatus v.prot q s) s = stOk) (due : Bool) :
    checkVerb due v q s = stOk := by
  cases due <;> simp [checkVerb, hq, firstStatus, firstBad, hc, hg]

/-- One status stands for itself. -/
theorem firstStatus_one (st : Byte) : firstStatus [st] = st := by
  simp only [firstStatus]
  split <;> simp [*]

theorem checkVerb_fails {q : Req} {v : Verb} {s : State} {st : Byte} (hq : q.applyAt = none)
    (hc : v.chk (lockStatus v.prot q s) s = st) : checkVerb false v q s = st := by
  have hst := firstStatus_one st
  simp [checkVerb, hq, hc, firstBad, firstStatus] at hst ⊢
  exact hst

/-- A clause that has been opened closes to the state beside it. -/
theorem closeClause_waits {q : Req} {op : Byte} {s t : State} (hi : idsOk s.cl.waiting s.cl.nextId)
    (hw : t.cl.waiting = s.cl.waiting) : closeClause s.cl.nextId (waits q op s t) = t := by
  have hf := filter_opened (w := waitingOf q op s) hi
  simp only [closeClause, waits, hw]
  exact (congrArg (fun l => ({ t with cl.waiting := l } : State)) hf).trans (by rw [← hw])

section

variable {q : Req} {i : Instr} {v : Verb} {s t : State} {op st : Byte} {r : List Byte}

/-- A verb served now, with an answer now, whatever way its clause is answered (R177). -/
theorem exec_finishes (h : Ready q s) (hq : i.req? = some q) (hv : verbOf i = some v) (ho : v.op = op)
    (hc : v.chk (lockStatus v.prot q s) s = stOk) (hg : v.again (lockStatus v.prot q s) s = stOk)
    (ha : v.ans (bdNow q s (waits q op s (numbered s)))
      (restartHold (v.eff (bdNow q s (waits q op s (numbered s))) (waits q op s (numbered s)))) = some (waits q op s t, st, r))
    (hl : i.lengthOk = true := by rfl) (hw : t.cl.waiting = s.cl.waiting := by rfl) :
    exec i s = .next (finishClause q [(op, st, r)] s.cl.nextId t) := by
  subst ho
  obtain ⟨hm, hb, ht, hi⟩ := h
  rw [← openClause_waits hv] at ha
  have hwait : (waits q v.op s t).cl.waiting = s.cl.waiting ++ [waitingOf q v.op s] := by
    simp only [waits, hw]
    rfl
  rw [exec_eq_runVerb hq, runVerb_answers hm hb ht hi hv hl (checkVerb_passes ht hc hg) ha hwait, closeClause_waits hi hw]

/-- A verb served now, with an answer now: the reply follows the state `t` that its effect and its answer leave beside its
clause (R19, R177). -/
theorem exec_answers (h : Ready q s) (hq : i.req? = some q) (hv : verbOf i = some v) (ho : v.op = op)
    (hc : v.chk (lockStatus v.prot q s) s = stOk) (hg : v.again (lockStatus v.prot q s) s = stOk)
    (ha : v.ans (bdNow q s (waits q op s (numbered s)))
      (restartHold (v.eff (bdNow q s (waits q op s (numbered s))) (waits q op s (numbered s)))) = some (waits q op s t, st, r))
    (hl : i.lengthOk = true := by rfl) (hw : t.cl.waiting = s.cl.waiting := by rfl)
    (hs : op ≠ opAddrSet := by decide) (hn : op ≠ opAddrClaim := by decide) :
    exec i s = .next (replied q op st r s t) := by
  rw [exec_finishes h hq hv ho hc hg ha hl hw, finishClause_one hs hn, replied]

/-- A verb served now whose answer comes later: its clause waits for it (R179). -/
theorem exec_waits (h : Ready q s) (hq : i.req? = some q) (hv : verbOf i = some v) (ho : v.op = op)
    (hc : v.chk (lockStatus v.prot q s) s = stOk) (hg : v.again (lockStatus v.prot q s) s = stOk)
    (ha : ∀ b u, v.ans b u = none)
    (he : restartHold (v.eff (bdNow q s (waits q op s (numbered s))) (waits q op s (numbered s))) = waits q op s t)
    (hl : i.lengthOk = true := by rfl) :
    exec i s = .next (waits q op s t) := by
  subst ho
  obtain ⟨hm, hb, ht, -⟩ := h
  rw [exec_eq_runVerb hq, runVerb_waits hm hb ht hv hl (checkVerb_passes ht hc hg) (ha _ _), openClause_waits hv, he]

/-- A verb that consumes no nonce and whose checks fail, wherever the boundary lies (R177, R181). -/
theorem exec_rejects (hm : s.pw.mode = .run) (hr : s.nv.running = none) (ht : q.applyAt = none) (hq : i.req? = some q)
    (hv : verbOf i = some v) (ho : v.op = op) (hc : v.chk (lockStatus v.prot q s) s = st) (hst : st ≠ stOk := by decide)
    (hl : i.lengthOk = true := by rfl) (hn : burnsInstr i = false := by rfl) :
    exec i s = .next (rejected q op st s) := by
  subst ho
  rw [exec_eq_runVerb hq, runVerb_rejects hm hr ht hv hl (checkVerb_fails ht hc) hst hn]
  rfl

/-- The same at a boundary that would serve it. -/
theorem exec_rejects_now (h : Ready q s) (hq : i.req? = some q) (hv : verbOf i = some v) (ho : v.op = op)
    (hc : v.chk (lockStatus v.prot q s) s = st) (hst : st ≠ stOk := by decide)
    (hl : i.lengthOk = true := by rfl) (hn : burnsInstr i = false := by rfl) :
    exec i s = .next (rejected q op st s) := by
  obtain ⟨hm, hb, ht, -⟩ := h
  have hr : s.nv.running = none := by simpa [npBlocked] using boundaryFree_blocked hb
  exact exec_rejects hm hr ht hq hv ho hc hst hl hn

end

/-- At the boundary that falls now the clause's origin and key are those of an untimed clause. -/
theorem bdNow_of_ready {q : Req} {s pre : State} (h : Ready q s) :
    bdNow q s pre = { t := renderNow s, org := renderNow s, key := keyNow q s, q := q, tok := tokOf s, pre := pre } := by
  simp only [bdNow, bdOf, h.2.2.1]
  rfl

/-! ## O11 -/

/-- LEVEL.READ of a zone (Table 14-5). -/
theorem ansLevelRead_zone {zone : Byte} (hz : zone ≠ 0xFF) (b : Bd) (s : State) :
    let level := fun c => leBytes 2 (laneAt s (zoneLane s zone.toNat c) b.t.toNat)
    let e := zoneEffect s zone.toNat
    ansLevelRead zone b s = okAns s (level 0 ++ level 1 ++ level 2 ++ level 3
      ++ (leBytes 2 (laneAt s s.rd.master b.t.toNat) ++ leBytes 2 (masterPrime s b.t.toNat) ++ s.rd.outc.toList.map (·.1))
      ++ [e.curve, BitVec.ofNat 8 e.mask.toNat] ++ leBytes 2 e.depth.toNat ++ leBytes 4 e.period.toNat) := by
  simp [ansLevelRead, List.range_succ, show zone ≠ 255#8 from hz]

/-- LEVEL.READ of the node alone: the zone's fields are 0. -/
theorem ansLevelRead_node (b : Bd) (s : State) :
    ansLevelRead 0xFF b s = okAns s (List.replicate 8 0
      ++ (leBytes 2 (laneAt s s.rd.master b.t.toNat) ++ leBytes 2 (masterPrime s b.t.toNat) ++ s.rd.outc.toList.map (·.1))
      ++ List.replicate 8 0) := by
  simp only [ansLevelRead, beq_self_eq_true, if_true, List.append_assoc]
  rfl

/-- Settles O11. -/
theorem nodeReadsAnswer : Obligations.NodeReadsAnswer := by
  intro q s h
  refine ⟨exec_answers h rfl rfl rfl rfl rfl rfl, exec_answers h rfl rfl rfl rfl rfl rfl,
    exec_answers h rfl rfl rfl rfl rfl rfl, fun zone => ⟨fun hz => ?_, fun hz => ?_⟩⟩
  · exact exec_answers h rfl rfl rfl rfl rfl (congrArg some (ansLevelRead_zone hz _ _))
  · subst hz
    exact exec_answers h rfl rfl rfl rfl rfl (congrArg some (ansLevelRead_node _ _))

/-! ## O9 -/

theorem maskStatus_bad {mask : Byte} (h : ¬ MaskOk mask) : maskStatus mask = stBadArg := by
  have hb : (!highZero 4 mask || mask == 0) = true := by
    simp only [MaskOk, not_and_or] at h
    simpa [highZero, or_comm] using h
  rw [maskStatus, hb]
  rfl

/-- Without an accepted tag a LOCKED node turns a protected verb down (R446). -/
theorem lockStatus_locked {q : Req} {s : State} (hl : s.sec.locked = true) (ha : q.auth = false) :
    lockStatus true q s = stAuthRequired := by
  simp [lockStatus, hl, ha]

/-- The failed checks of arguments. -/
theorem badArguments_reject {q : Req} {s : State} (hm : s.pw.mode = .run) (hr : s.nv.running = none) (ht : q.applyAt = none) :
    (∀ zone mask level, ¬ MaskOk mask → exec (.levelSet q zone mask level) s = .next (rejected q 0x20 0x12 s))
    ∧ (∀ zone mask curve depth period, MaskOk mask → 12 ≤ curve.toNat → curve.toNat ≤ 15 →
      exec (.effectSet q zone mask curve depth period) s = .next (rejected q 0x23 0x12 s))
    ∧ (∀ zone mask curve depth period, MaskOk mask → 47 < curve.toNat →
      exec (.effectSet q zone mask curve depth period) s = .next (rejected q 0x23 0x13 s))
    ∧ (∀ port, 3 < port.toNat → exec (.portStatus q port) s = .next (rejected q 0x51 0x13 s))
    ∧ (∀ port, port.toNat ≤ 3 → s.node.member.ports ≤ port.toNat → exec (.portStatus q port) s = .next (rejected q 0x51 0x60 s))
    ∧ (∀ slot : Byte, 63 < slot.toNat → exec (.sceneErase q slot) s = .next (rejected q 0x34 0x13 s))
    ∧ (∀ addr uid, 0x0FFF < addr.toNat → exec (.addrSet q addr uid) s = .next (rejected q 0x05 0x13 s))
    ∧ (∀ addr uid, addr.toNat ≤ 0x0FFF → uid ≠ s.node.uid →
      exec (.addrSet q addr uid) s = .next (rejected q 0x05 0x12 s)) := by
  refine ⟨fun zone mask level h => ?_, fun zone mask curve depth period h h1 h2 => ?_,
    fun zone mask curve depth period h h1 => ?_, fun port h => ?_, fun port h h1 => ?_, fun slot h => ?_,
    fun addr uid h => ?_, fun addr uid h h1 => ?_⟩
  all_goals refine exec_rejects hm hr ht rfl rfl rfl ?_
  · exact maskStatus_bad h
  · simp [chkEffectSet, maskStatus_of_maskOk h, curveStatus, h1, h2, firstStatus, firstBad, stBadArg, stOk]
  · simp [chkEffectSet, maskStatus_of_maskOk h, curveStatus, h1, show ¬ curve.toNat ≤ 15 by omega, firstStatus, firstBad,
      stRange, stOk]
  · simp [chkPortStatus, portStatusOf, h, firstBad, stRange]
  · simp [chkPortStatus, portStatusOf, h1, show ¬ 3 < port.toNat by omega, firstBad, stNotSupported]
  · simp [chkSceneErase, slotStatus, h, firstStatus, firstBad, stRange, stOk]
  · simp [chkAddrSet, h, firstStatus, firstBad, stRange, stOk]
  · simp [chkAddrSet, h1, show ¬ 0x0FFF < addr.toNat by omega, firstStatus, firstBad, stBadArg, stOk]

/-- A protected verb whose arguments are right and whose lock status is asked next. -/
theorem protected_rejects {q : Req} {i : Instr} {v : Verb} {s : State} {op : Byte} (hm : s.pw.mode = .run)
    (hr : s.nv.running = none) (ht : q.applyAt = none) (hk : s.sec.locked = true) (ha : q.auth = false)
    (hq : i.req? = some q) (hv : verbOf i = some v) (ho : v.op = op) (hp : v.prot = true)
    (hc : v.chk stAuthRequired s = stAuthRequired) (hl : i.lengthOk = true := by rfl) (hn : burnsInstr i = false := by rfl) :
    exec i s = .next (rejected q op 0x30 s) :=
  exec_rejects hm hr ht hq hv ho (by rw [hp, lockStatus_locked hk ha]; exact hc) (by decide) hl hn

/-- Settles O9. -/
theorem failedChecksReject : Obligations.FailedChecksReject := by
  refine ⟨fun q s hm hr ht => badArguments_reject hm hr ht, fun q s hm hr ht hk ha => ?_⟩
  refine ⟨?_, ?_, ?_, ?_, fun offset data h1 h2 => ?_, fun addr h => ?_, fun op map h => ?_, fun v h => ?_, fun mode h => ?_,
    fun size h1 h2 => ?_⟩
  case refine_5 =>
    refine protected_rejects hm hr ht hk ha rfl rfl rfl rfl rfl ?_
    simp [Instr.lengthOk, unitsOk, h1, h2, Nat.mod_one]
  all_goals refine protected_rejects hm hr ht hk ha rfl rfl rfl rfl ?_
  case refine_6 => simp [chkAddrSet, show ¬ 0x0FFF < addr.toNat by omega, firstStatus, firstBad, stAuthRequired, stOk]
  case refine_7 => simp [chkGroupSet, show ¬ 2 < op.toNat by omega, firstStatus, firstBad, stAuthRequired, stOk]
  case refine_8 =>
    have hv : (!highZero 2 v && v != 0xFF) = false := by
      rcases h with h | rfl
      · rw [highZero, decide_eq_true (by omega)]
        rfl
      · rfl
    simp only [chkNvProtect, hv]
    rfl
  case refine_9 =>
    have hv : (decide (mode.toNat > 2) && mode != 0xFF) = false := by
      rcases h with h | rfl
      · simp [show ¬ 2 < mode.toNat by omega]
      · rfl
    simp only [chkFwActivate, hv]
    rfl
  case refine_10 =>
    have hz : (size == 0) = false := by
      rw [beq_eq_false_iff_ne]
      rintro rfl
      exact absurd h1 (by decide)
    simp only [chkFwBegin, hz, decide_eq_false (show ¬ size.toNat > 114688 by omega)]
    rfl
  all_goals rfl

end Sys2Proof.Machine
end

section
/-!
PROOFS. Node, address and time verbs (14).
-/
namespace Sys2Proof.Machine

open Sys2Proof.Claims

-- Proofs in parallel hold one thread each, and a text this long would have more of them than the check has room for.
set_option Elab.async false

/-! ## O12 -/

/-- A confirm byte other than 0xA5. -/
theorem chkFactoryReset_unconfirmed {confirm : Byte} {q : Req} {s : State} (h : confirm ≠ 0xA5) :
    chkFactoryReset confirm q s = stBadArg := by
  simp [chkFactoryReset, firstBad, show confirm ≠ 165#8 from h]

theorem chkNodeReset_unconfirmed {mode confirm : Byte} {q : Req} {s : State} (h : confirm ≠ 0xA5) :
    chkNodeReset mode confirm q s = stBadArg := by
  simp [chkNodeReset, firstStatus, firstBad, show confirm ≠ 165#8 from h, stBadArg, stOk]

/-- NODE.RESET mode 1 asks what FACTORY_RESET asks (R367). -/
theorem chkNodeReset_factory (q : Req) (s : State) : chkNodeReset 1 0xA5 q s = chkFactoryReset 0xA5 q s :=
  firstStatus_one _

/-- Where and when a factory reset may be asked for (R225). -/
theorem chkFactoryReset_here {q : Req} {s : State} (hq : q.mbox = .svc) (hg : s.pw.gp3 = false)
    (ht : s.now ≤ s.pw.bootAt + 60000000000000) : chkFactoryReset 0xA5 q s = stOk := by
  have h60 : ¬ s.now > s.pw.bootAt + 60 * Config.secPs := by simp only [Config.secPs]; omega
  simp [chkFactoryReset, firstBad, hq, hg, h60]

theorem chkFactoryReset_elsewhere {q : Req} {s : State}
    (h : q.mbox = .span ∨ s.pw.gp3 = true ∨ s.pw.bootAt + 60000000000000 < s.now) :
    chkFactoryReset 0xA5 q s = stNotSupported := by
  have hb : (q.mbox != .svc || s.pw.gp3 || decide (s.now > s.pw.bootAt + 60 * Config.secPs)) = true := by
    rcases h with h | h | h
    · rw [h]; rfl
    · simp [h]
    · simp [Config.secPs, h]
  rw [chkFactoryReset, hb]
  rfl

/-- What falls due is checked again without its 60 s. -/
theorem dueFactoryReset_here {q : Req} {s : State} (hq : q.mbox = .svc) (hg : s.pw.gp3 = false) :
    dueFactoryReset 0xA5 q s = stOk := by
  simp [dueFactoryReset, firstBad, hq, hg]

theorem dueNodeReset_factory (q : Req) (s : State) : dueNodeReset 1 0xA5 q s = dueFactoryReset 0xA5 q s :=
  firstStatus_one _

/-- Settles O12. -/
theorem resetVerbsAsk : Obligations.ResetVerbsAsk := by
  intro q s h
  refine ⟨exec_answers h rfl rfl rfl rfl rfl rfl, fun hq hg ht => ⟨?_, ?_⟩, fun mode confirm hc => ⟨?_, ?_⟩, fun hn => ⟨?_, ?_⟩⟩
  · exact exec_waits h rfl rfl rfl ((chkNodeReset_factory q s).trans (chkFactoryReset_here hq hg ht))
      ((dueNodeReset_factory q s).trans (dueFactoryReset_here hq hg)) (fun _ _ => rfl) rfl
  · exact exec_waits h rfl rfl rfl (chkFactoryReset_here hq hg ht) (dueFactoryReset_here hq hg) (fun _ _ => rfl) rfl
  · exact exec_rejects_now h rfl rfl rfl (chkNodeReset_unconfirmed hc)
  · exact exec_rejects_now h rfl rfl rfl (chkFactoryReset_unconfirmed hc)
  · exact exec_rejects_now h rfl rfl rfl ((chkNodeReset_factory q s).trans (chkFactoryReset_elsewhere hn))
  · exact exec_rejects_now h rfl rfl rfl (chkFactoryReset_elsewhere hn)

/-! ## O13 -/

/-- Settings NODE.REST takes (R368). -/
theorem chkNodeRest_fine {mode keep : Byte} {hold : W16} {s : State} (hm : mode.toNat ≤ 2 ∨ mode = 0xFF)
    (hk : keep.toNat ≤ 1 ∨ keep = 0xFF) (hh : hold = 0 ∨ (50 ≤ hold.toNat ∧ hold.toNat ≤ 60000)) (hp : poor s = false) :
    chkNodeRest mode keep hold s = stOk := by
  have h1 : (decide (mode.toNat > 2) && mode != 0xFF) = false := by
    rcases hm with h | rfl
    · rw [decide_eq_false (by omega), Bool.false_and]
    · rfl
  have h2 : (decide (keep.toNat > 1) && keep != 0xFF) = false := by
    rcases hk with h | rfl
    · rw [decide_eq_false (by omega), Bool.false_and]
    · rfl
  have h3 : (hold != 0 && (decide (hold.toNat < 50) || decide (hold.toNat > 60000))) = false := by
    rcases hh with rfl | ⟨h, h'⟩
    · rfl
    · rw [decide_eq_false (by omega), decide_eq_false (by omega), Bool.or_self, Bool.and_false]
  rw [chkNodeRest, h1, h2, h3, hp]
  rfl

/-- Settles O13. -/
theorem nodeRestStoresSettings : Obligations.NodeRestStoresSettings := by
  intro q mode keep hold s h hm hk hh hp
  have hc := chkNodeRest_fine hm hk hh hp
  refine exec_answers h rfl rfl rfl hc hc ?_
  change some (ansNodeRest (restartHold (effNodeRest mode keep hold _ _))) = _
  unfold effNodeRest
  by_cases h0 : hold = 0 <;> by_cases h2 : mode = 2 <;> simp only [h0, h2, if_true, if_false] <;> rfl

/-! ## O14 -/

/-- A reply that is given up touches neither REST_HOLD nor the clauses that wait. -/
theorem replyGone_restartHold (c : Option Nat) (s : State) : replyGone c (restartHold s) = restartHold (replyGone c s) := by
  cases c with
  | none => rfl
  | some id =>
    cases hr : s.pw.resetReq <;> simp only [replyGone, restartHold, hr] <;> split_ifs <;> simp only [hr]

theorem replyGone_waits (c : Option Nat) (q : Req) (op : Byte) (s t : State) :
    replyGone c (waits q op s t) = waits q op s (replyGone c t) := by
  cases c with
  | none => rfl
  | some id =>
    cases hr : t.pw.resetReq <;> simp only [replyGone, waits, hr] <;> split_ifs <;> simp only [hr]

theorem replyGone_cl (c : Option Nat) (s : State) : (replyGone c s).cl = s.cl := by
  cases c with
  | none => rfl
  | some id =>
    cases hr : s.pw.resetReq <;> simp only [replyGone, hr] <;> split_ifs <;> rfl

/-- A waiting frame is given up: `dropUnsent`'s step. -/
abbrev dropReply (s : State) (f : OutFrame) : State := replyGone f.clause s

theorem foldl_dropReply_cl (l : List OutFrame) (s : State) : (l.foldl dropReply s).cl = s.cl := by
  induction l generalizing s with
  | nil => rfl
  | cons f l ih => rw [List.foldl_cons, ih, dropReply, replyGone_cl]

/-- The frames that a node without its address gives up (R147), but for one in its attempt. -/
def unsentFrames (s : State) : List OutFrame :=
  (s.span.outQ.drop (if s.span.tx = some .queue then 1 else 0) ++ s.span.overflow).filter fun f => !sendable s f

/-- The queues without them. -/
def withoutUnsent (s : State) : State :=
  let n := if s.span.tx = some .queue then 1 else 0
  { s with
    span.outQ := s.span.outQ.take n ++ (s.span.outQ.drop n).filter (sendable s)
    span.overflow := s.span.overflow.filter (sendable s)
    span.lates := if s.span.tx = some .late then s.span.lates else s.span.lates.filter fun l => sendable s l.frame
    span.roll := if unaddressed s then s.span.roll.map fun r => { r with slot := none, frame := none } else s.span.roll }

theorem dropUnsent_eq (s : State) : dropUnsent s = (unsentFrames s).foldl dropReply (withoutUnsent s) := rfl

theorem dropUnsent_cl (s : State) : (dropUnsent s).cl = s.cl := by
  rw [dropUnsent_eq, foldl_dropReply_cl]
  rfl

theorem dropUnsent_restartHold (s : State) : dropUnsent (restartHold s) = restartHold (dropUnsent s) := by
  rw [dropUnsent_eq, dropUnsent_eq, ← List.foldl_hom restartHold (g₂ := dropReply) (fun u f => replyGone_restartHold f.clause u)]
  rfl

theorem dropUnsent_waits (q : Req) (op : Byte) (s t : State) :
    dropUnsent (waits q op s t) = waits q op s (dropUnsent t) := by
  rw [dropUnsent_eq, dropUnsent_eq, ← List.foldl_hom (waits q op s) (g₂ := dropReply)
    (fun u f => replyGone_waits f.clause q op s u)]
  rfl

/-- The answer to an ADDR.SET (R370). -/
theorem finishClause_addrSet (q : Req) (st : Byte) (r : List Byte) (id : Nat) (s : State) :
    finishClause q [(0x05, st, r)] id s =
      replyOr q (q.kind == .broadcast || q.kind == .unaddressed) (replyBody q.seq [(0x05, st, r)]) id s := by
  simp [finishClause, addrSetAnswered, opAddrSet, opAddrClaim]

/-- Settles O14. -/
theorem addressAndGroupsAreSet : Obligations.AddressAndGroupsAreSet := by
  intro q s h hu
  have hl : ∀ {p}, lockStatus p q s = stOk := lockStatus_unlocked hu
  refine ⟨fun addr ha => ?_, fun map => ?_, fun map => ?_, fun map => ?_⟩
  · have hc : chkAddrSet addr s.node.uid (lockStatus true q s) s = stOk := by
      simp [chkAddrSet, show ¬ 0x0FFF < addr.toNat by omega, firstBad, firstStatus, hl]
    have hd : restartHold (effAddrSet addr (waits q 0x05 s (numbered s)))
        = waits q 0x05 s (dropUnsent (persist { counted s with cfg.addr := addr })) := by
      unfold effAddrSet
      rw [← dropUnsent_restartHold, ← dropUnsent_waits]
      rfl
    have hw : (dropUnsent (persist { counted s with cfg.addr := addr })).cl.waiting = s.cl.waiting := by
      rw [dropUnsent_cl]
      rfl
    rw [exec_finishes h rfl rfl rfl hc hc (congrArg (fun u => some (okAns u [1])) hd) rfl hw]
    exact congrArg _ (finishClause_addrSet q _ _ _ _)
  · exact exec_answers h rfl rfl rfl (by simp [chkGroupSet, firstBad, firstStatus, hl]) (by simp [chkGroupSet, firstBad, firstStatus, hl]) rfl
  · exact exec_answers h rfl rfl rfl (by simp [chkGroupSet, firstBad, firstStatus, hl]) (by simp [chkGroupSet, firstBad, firstStatus, hl]) rfl
  · exact exec_answers h rfl rfl rfl (by simp [chkGroupSet, firstBad, firstStatus, hl]) (by simp [chkGroupSet, firstBad, firstStatus, hl]) rfl

/-! ## O15 -/

/-- A claim reply that waits for its holdoff takes its body when its clause is answered (R371). -/
theorem finishClause_claim {q : Req} {st : Byte} {r : List Byte} {id : Nat} {s : State}
    (h : (s.span.claims.any fun c => c.id == id) = true) :
    finishClause q [(0x06, st, r)] id s = { s with span.claims := s.span.claims.map fun c =>
      if c.id = id then { c with body := replyBody q.seq [(0x06, st, r)] } else c } := by
  simp [finishClause, opAddrClaim, h]

/-- Without a claim reply the clause gives none, and what waited for it goes on. -/
theorem finishClause_noClaim {q : Req} {st : Byte} {r : List Byte} {id : Nat} {s : State}
    (h : (s.span.claims.any fun c => c.id == id) = false) :
    finishClause q [(0x06, st, r)] id s = replyGone (some id) s := by
  simp [finishClause, opAddrClaim, h]

/-- Where nothing waits for a reply it is missed by nothing. -/
theorem replyGone_idle {c : Option Nat} {s : State} (hr : s.pw.resetReq = none) (hs : s.pw.shelfReq = none) :
    replyGone c s = s := by
  cases c <;> simp [replyGone, hr, hs]

/-- The state in which a claim reply with its drawn holdoff waits for its body (R371). -/
def claimDrawn (q : Req) (spread : Byte) (s : State) : State :=
  { counted s with
    draws := s.draws + 1
    span.claims := s.span.claims ++ [{ due := s.now + 100000000 * (Config.draw s.draws % (100 * spread.toNat + 1)), req := q,
                                       body := [], id := s.cl.nextId }] }

/-- Its answer gives it its body. -/
theorem finishClause_claimDrawn (q : Req) (spread st : Byte) (r : List Byte) (s : State) :
    finishClause q [(0x06, st, r)] s.cl.nextId (claimDrawn q spread s) = { counted s with
      draws := s.draws + 1
      span.claims := (s.span.claims.map fun c => if c.id = s.cl.nextId then
          { c with body := replyBody q.seq [(0x06, st, r)] } else c)
        ++ [{ due := s.now + 100000000 * (Config.draw s.draws % (100 * spread.toNat + 1)), req := q, id := s.cl.nextId,
              body := replyBody q.seq [(0x06, st, r)] }] } := by
  rw [finishClause_claim (by simp [claimDrawn])]
  simp [claimDrawn]

/-- Settles O15. -/
theorem claimWaitsItsHoldoff : Obligations.ClaimWaitsItsHoldoff := by
  intro q value mask spread s h
  refine ⟨fun ha => ⟨Config.draw s.draws % (100 * spread.toNat + 1), ?_, ?_⟩, fun ha hc hr hs => ?_⟩
  · exact Nat.le_of_lt_succ (Nat.mod_lt _ (Nat.succ_pos _))
  · have he : restartHold (effAddrClaim value mask spread (bdNow q s (waits q 0x06 s (numbered s)))
        (waits q 0x06 s (numbered s))) = waits q 0x06 s (claimDrawn q spread s) :=
      congrArg restartHold (if_pos ha)
    exact (exec_finishes h rfl rfl rfl rfl rfl (congrArg (fun u => some (ansAddrClaim u)) he)).trans
      (congrArg _ (finishClause_claimDrawn q spread _ _ s))
  · have he : restartHold (effAddrClaim value mask spread (bdNow q s (waits q 0x06 s (numbered s)))
        (waits q 0x06 s (numbered s))) = waits q 0x06 s (counted s) :=
      congrArg restartHold (if_neg (Bool.eq_false_iff.1 ha))
    rw [exec_finishes h rfl rfl rfl rfl rfl (congrArg (fun u => some (ansAddrClaim u)) he)]
    rw [finishClause_noClaim, replyGone_idle (s := counted s) hr hs]
    exact List.any_eq_false.2 fun c hm => by simpa using (hc c hm).ne

/-! ## O17 -/

/-- ACTION of TIME.KEYSTONE (Table 7-6). -/
theorem keyAction_eq (lost : Bool) (e : Int) :
    keyAction lost e = if lost = true ∨ 256 < e.natAbs then 2 else if e.natAbs ≤ 2 then 0 else 1 := by
  simp [keyAction]

/-- TIME.KEYSTONE's effect by its action. -/
theorem effTimeKeystone_eq (k : W48) (b : Bd) (s : State) :
    let e := keyError k b.q.stamp
    let a := keyAction s.ka.lost e
    effTimeKeystone k b s = { s with
      ka.corr := some (if a = 2 then .step e else if a = 1 then .slew e else .slew 0)
      ka.lastE := e
      ka.ksAt := some s.now
      ka.good := true
      ka.lost := false
      ka.poorHeld := false
      fw.sawKey := true } := by
  dsimp only [effTimeKeystone]
  split <;> simp_all

/-- Settles O17. -/
theorem keystoneCorrectsTime : Obligations.KeystoneCorrectsTime := by
  intro q k s h e action
  have ha : action = keyAction s.ka.lost e := (keyAction_eq s.ka.lost e).symm
  clear_value action
  subst ha
  refine ⟨fun hq => ?_, fun hq => ?_⟩
  · have hc : chkTimeKeystone q = stOk := by simp [chkTimeKeystone, hq, firstBad]
    refine exec_answers h rfl rfl rfl hc hc ?_
    exact (congrArg (fun u => some (ansTimeKeystone k _ (restartHold u))) (effTimeKeystone_eq k _ _)).trans rfl
  · exact exec_rejects_now h rfl rfl rfl (by simp [chkTimeKeystone, hq, firstBad, stNotSupported])

/-! ## O18 -/

/-- TIME.READ's fields (R379). -/
theorem ansTimeRead_eq (b : Bd) (s : State) :
    ansTimeRead b s = okAns s (leBytes 6 b.t.toNat ++ [wtq s] ++ leSigned 4 s.ka.lastE
      ++ leBytes 4 (match s.ka.ksAt with
          | some a => min 0xFFFFFFFF ((s.now - a) / 244140625)
          | none => 0xFFFFFFFF)
      ++ leSigned 2 (match s.ka.corr with
          | some (.slew e) => e
          | _ => s.ka.slew)) := by
  have hs : ∀ n, sat 32 n = min 0xFFFFFFFF n := fun n => Nat.min_comm _ _
  unfold ansTimeRead slewLeft
  cases s.ka.ksAt with
  | none => rfl
  | some a => simp only [hs]; rfl

/-- A frame rate that FRAME.RATE takes (R380). -/
theorem chkFrameRate_fine {mode : Byte} {value : W16} (h : (mode = 0 ∧ 8 ≤ value.toNat ∧ value.toNat ≤ 255)
    ∨ (mode = 1 ∧ 16 ≤ value.toNat ∧ value.toNat ≤ 512)) : chkFrameRate mode value = stOk := by
  rcases h with ⟨rfl, h1, h2⟩ | ⟨rfl, h1, h2⟩
  · simp [chkFrameRate, firstBad, h1, h2]
  · simp [chkFrameRate, firstBad, h1, h2]

theorem ansFrameRate_unlocked {s : State} (h : s.rd.syncLocked = false) :
    ansFrameRate s = okAns s ([bit s.cfg.freeRun] ++ leBytes 2 s.cfg.frameValue) := by
  simp [ansFrameRate, h]

/-- A mode of SYNC.CFG below 2 ends the lock (R381). -/
theorem effSyncCfg_unlocks {mode : Byte} (h : mode.toNat ≤ 1) (s : State) :
    effSyncCfg mode s = { persist { s with cfg.sync := mode } with rd.syncLocked := false, rd.syncHold := false } := by
  have h1 : mode ≠ 0xFF := by rintro rfl; exact absurd h (by decide)
  have h2 : mode ≠ 2 := by rintro rfl; exact absurd h (by decide)
  simp only [effSyncCfg, if_neg h1, if_neg h2]

/-- Mode 2 begins a lock where none stands (R309). -/
theorem effSyncCfg_locks {s : State} (h : s.rd.syncLocked = false) :
    effSyncCfg 2 s = { persist { s with cfg.sync := 2 } with
      rd.syncLocked := true, rd.edgeAt := none, rd.intervals := [], rd.syncHold := false } := by
  have h2 : (2 : Byte) ≠ 0xFF := by decide
  simp only [effSyncCfg, if_neg h2, if_true]
  exact if_neg (Bool.eq_false_iff.1 h)

theorem ansSyncCfg_fresh {s : State} (hl : s.rd.syncLocked = true) (hi : s.rd.intervals = []) :
    ansSyncCfg s = okAns s [s.cfg.sync, 1, 0, 0] := by
  have hm : meanInterval s / Config.usPs = 0 := by simp [meanInterval, hi]
  rw [ansSyncCfg, syncHolding, hm, hl, hi]
  rfl

/-- Settles O18. -/
theorem frameClockIsSet : Obligations.FrameClockIsSet := by
  intro q s h
  refine ⟨?_, fun mode value hv => ?_, fun value hl => ?_, fun mode hm => ?_, fun hl => ?_, ?_⟩
  · exact exec_answers h rfl rfl rfl rfl rfl (congrArg some (ansTimeRead_eq _ _))
  · have hc := chkFrameRate_fine hv
    rcases hv with ⟨rfl, -, -⟩ | ⟨rfl, -, -⟩ <;> exact exec_answers h rfl rfl rfl hc hc rfl
  · exact exec_answers h rfl rfl rfl rfl rfl (congrArg some (ansFrameRate_unlocked (by exact hl)))
  · have hc : chkSyncCfg mode = stOk := by
      rw [chkSyncCfg, decide_eq_false (by omega)]
      rfl
    refine exec_answers h rfl rfl rfl hc hc ?_
    exact (congrArg (fun u => some (ansSyncCfg (restartHold u))) (effSyncCfg_unlocks hm _)).trans rfl
  · exact exec_answers h rfl rfl rfl rfl rfl
      ((congrArg (fun u => some (ansSyncCfg (restartHold u))) (effSyncCfg_locks (by exact hl))).trans
        (congrArg some (ansSyncCfg_fresh rfl rfl)))
  · exact exec_answers h rfl rfl rfl rfl rfl rfl

end Sys2Proof.Machine
end

section
/-!
PROOFS. Replies and frames the node originates (06, 07, 08): who gets a reply, where it is queued and how an attempt starts.
-/
namespace Sys2Proof.Machine

open Sys2Proof.Claims

-- Proofs in parallel hold one thread each, and a text this long would have more of them than the check has room for.
set_option Elab.async false

/-! ## The outbound queue on a busy and on an idle bus -/

/-- Nothing starts while the bus is not idle. -/
theorem sendIdle_busy {s : State} (h : s.span.idle = false) : sendIdle s = s := by
  simp [sendIdle, h]

/-- Without late replies and roll-call the head of the queue is attempted (R152). -/
theorem nextStart_head {s : State} {f : OutFrame} {t : List OutFrame} (hl : s.span.lates = []) (hr : s.span.roll = none)
    (hq : s.span.outQ = f :: t) : nextStart s = some (.queue, f) := by
  simp [nextStart, nextLate, rollHolds, takeLate, hl, hr, hq]

theorem startNext_head {s : State} {f : OutFrame} {t : List OutFrame} (hl : s.span.lates = []) (hr : s.span.roll = none)
    (hq : s.span.outQ = f :: t) : startNext s = beginTx .queue { s with span.outQ := tried (ownSrc s f) :: t } := by
  simp only [startNext, nextStart_head hl hr hq, hq, List.drop_succ_cons, List.drop_zero]

/-- An attempt that begins at `n`. -/
theorem beginTx_at {k : Sending} {s : State} {n : Nat} (h : s.now = n) :
    beginTx k s = { s with span.tx := some k, span.txAt := n, span.idle := false } := by
  subst h
  rfl

/-- On an idle bus the first frame of an empty queue starts at once (R152). -/
theorem putOut_idle {s : State} {f : OutFrame} (hi : s.span.idle = true) (hm : mayTransmit s = true) (hl : s.span.lates = [])
    (hr : s.span.roll = none) (hq : s.span.outQ = []) :
    putOut f s = beginTx .queue { s with span.outQ := [tried (ownSrc s f)] } := by
  rw [putOut, hq]
  exact (if_pos (by rw [Bool.and_eq_true]; exact ⟨hi, hm⟩)).trans (startNext_head (f := f) (t := []) hl hr rfl)

/-- A reply joins the outbound queue where that has a place and none waits for one (R174). -/
theorem queueReply_place {s : State} {f : OutFrame} (hl : s.span.outQ.length < 8) (ho : s.span.overflow = []) :
    queueReply f s = putOut f s := if_pos ⟨hl, ho⟩

theorem queueLocal_empty {s : State} {f : OutFrame} (ho : s.svc.out = none) : queueLocal f s = placeImage f false s := by
  simp only [queueLocal, ho]

/-! ## O10 -/

/-- Who gets no reply (R147, R178). -/
theorem replyBarred_true {q : Req} {s : State} (h : q.noreply = true ∨ q.kind ≠ .individual ∨ (q.mbox = .span ∧
    (s.cfg.addr = 0 ∨ q.src = 0 ∨ q.src = 0xFFFF ∨ q.src.toNat / 256 = 0x10))) : replyBarred q false s = true := by
  rcases h with h | h | ⟨hm, h⟩
  · simp [replyBarred, h]
  · simp [replyBarred, h]
  · have hd : (unaddressed s || neverDst q.src) = true := by
      rcases h with h | h | h | h <;> simp [unaddressed, neverDst, h]
    simp [replyBarred, hm, hd]

/-- Who gets one on Spanline. -/
theorem replyBarred_span {q : Req} {s : State} (hn : q.noreply = false) (hk : q.kind = .individual) (ha : s.cfg.addr ≠ 0)
    (h0 : q.src ≠ 0) (hf : q.src ≠ 0xFFFF) (hg : q.src.toNat / 256 ≠ 0x10) : replyBarred q false s = false := by
  have hu : unaddressed s = false := by simpa [unaddressed] using ha
  have hd : neverDst q.src = false := by
    rw [neverDst, beq_eq_false_iff_ne.2 h0, beq_eq_false_iff_ne.2 hf, beq_eq_false_iff_ne.2 hg]
    rfl
  simp [replyBarred, hn, hk, hu, hd]

theorem replyBarred_svc {q : Req} {s : State} (hn : q.noreply = false) (hk : q.kind = .individual) (hm : q.mbox = .svc) :
    replyBarred q false s = false := by
  simp [replyBarred, hn, hk, hm]

/-- The cached reply and the node's SEQ do not meet. -/
theorem cacheReply_seq (q : Req) (f : OutFrame) (n : W16) (s : State) :
    cacheReply q f { s with span.seq := n } = { cacheReply q f s with span.seq := n } := by
  unfold cacheReply
  split
  · rfl
  · cases q.mbox <;> rfl

/-- Caching a reply touches the clauses alone. -/
theorem cacheReply_frame (q : Req) (f : OutFrame) (s : State) : ∃ c, cacheReply q f s = { s with cl := c } := by
  unfold cacheReply
  split
  · exact ⟨s.cl, rfl⟩
  · cases q.mbox
    · exact ⟨_, rfl⟩
    · exact ⟨_, rfl⟩

/-- A reset that waited for this clause's reply follows in 5 ms (R367). -/
theorem replyGone_reset {id : Nat} {s : State} (hr : s.pw.resetReq = some { waits := some id, due := none })
    (hs : s.pw.shelfReq = none) :
    replyGone (some id) s = { s with pw.resetReq := some { waits := none, due := some (s.now + 5000000000) } } := by
  simp only [replyGone, hr, if_true, hs]
  rfl

/-- The node's own SEQ moves on past 0x0000 (R157). -/
theorem nextSeq_eq (n : W16) : nextSeq n = if n = 0xFFFF then 1 else n + 1 := by
  unfold nextSeq
  by_cases h : n = 0xFFFF
  · rw [h]
    rfl
  · rw [if_neg h, if_neg fun h' => h (by bv_omega)]

/-- The frame of a reply (R177, R178). -/
def replyFrame (q : Req) (body : List Byte) (src : W16) (id : Nat) (s : State) : OutFrame :=
  { dst := q.src, src := src, seq := s.span.seq, body := body, rate := replyRate s q.rate, op := 0xFE, attempts := 0,
    clause := some id }

/-- The state as a reply's frame leaves for its queue: the frame cached, its SEQ used. -/
def replyMade (q : Req) (f : OutFrame) (s : State) : State :=
  { cacheReply q { f with clause := none } s with span.seq := nextSeq s.span.seq }

theorem sendReply_span {q : Req} (hm : q.mbox = .span) (body : List Byte) (src : W16) (id : Nat) (s : State) :
    sendReply q body src id s = queueReply (replyFrame q body src id s) (replyMade q (replyFrame q body src id s) s) := by
  simp only [sendReply, hm, takeSeq, cacheReply_seq]
  rfl

theorem sendReply_svc {q : Req} (hm : q.mbox = .svc) (body : List Byte) (src : W16) (id : Nat) (s : State) :
    sendReply q body src id s = queueLocal (replyFrame q body src id s) (replyMade q (replyFrame q body src id s) s) := by
  simp only [sendReply, hm, takeSeq, cacheReply_seq]
  rfl

/-- Making a reply's frame changes the clauses and the SEQ. -/
theorem replyMade_frame (q : Req) (f : OutFrame) (s : State) :
    ∃ c, replyMade q f s = { s with cl := c, span.seq := nextSeq s.span.seq } := by
  obtain ⟨c, hc⟩ := cacheReply_frame q { f with clause := none } s
  exact ⟨c, by rw [replyMade, hc]⟩

@[simp] theorem replyMade_span (q : Req) (f : OutFrame) (s : State) :
    (replyMade q f s).span = { s.span with seq := nextSeq s.span.seq } := by
  obtain ⟨c, hc⟩ := replyMade_frame q f s
  rw [hc]

@[simp] theorem replyMade_svc (q : Req) (f : OutFrame) (s : State) : (replyMade q f s).svc = s.svc := by
  obtain ⟨c, hc⟩ := replyMade_frame q f s
  rw [hc]

@[simp] theorem replyMade_cfg (q : Req) (f : OutFrame) (s : State) : (replyMade q f s).cfg = s.cfg := by
  obtain ⟨c, hc⟩ := replyMade_frame q f s
  rw [hc]

@[simp] theorem replyMade_now (q : Req) (f : OutFrame) (s : State) : (replyMade q f s).now = s.now := by
  obtain ⟨c, hc⟩ := replyMade_frame q f s
  rw [hc]

@[simp] theorem replyMade_mayTransmit (q : Req) (f : OutFrame) (s : State) :
    mayTransmit (replyMade q f s) = mayTransmit s := by
  obtain ⟨c, hc⟩ := replyMade_frame q f s
  rw [hc]
  rfl

/-- A reply that is due on Spanline, with a place free. -/
theorem replyOr_span {q : Req} {s : State} (hb : replyBarred q false s = false) (hm : q.mbox = .span)
    (hl : s.span.outQ.length < 8) (ho : s.span.overflow = []) (body : List Byte) (id : Nat) :
    replyOr q false body id s =
      putOut (replyFrame q body s.cfg.addr id s) (replyMade q (replyFrame q body s.cfg.addr id s) s) := by
  have hs : replySrc q s = s.cfg.addr := by simp only [replySrc, hm]
  rw [replyOr, if_neg (Bool.eq_false_iff.1 hb), hs, sendReply_span hm, queueReply_place]
  · simpa using hl
  · simpa using ho

/-- One that is due at the service mailbox, which is empty. -/
theorem replyOr_svc {q : Req} {s : State} (hb : replyBarred q false s = false) (hm : q.mbox = .svc) (ho : s.svc.out = none)
    (body : List Byte) (id : Nat) : replyOr q false body id s =
      placeImage (replyFrame q body 0xFFFE id s) false (replyMade q (replyFrame q body 0xFFFE id s) s) := by
  have hs : replySrc q s = 0xFFFE := by simp only [replySrc, hm, localSrc]
  rw [replyOr, if_neg (Bool.eq_false_iff.1 hb), hs, sendReply_svc hm, queueLocal_empty]
  simpa using ho

/-- Settles O10. -/
theorem replyIsOneFrame : Obligations.ReplyIsOneFrame := by
  intro q body id s cached next
  have hnext : next = nextSeq s.span.seq := (nextSeq_eq _).symm
  clear_value next
  subst hnext
  refine ⟨fun hb => ⟨fun hr hs => ?_, fun hr hs => ?_⟩, fun hn hk hm ha h0 hf hg hl ho => ?_, fun hn hk hm ho => ?_⟩
  · rw [replyOr, if_pos (replyBarred_true hb), replyGone_idle hr hs]
  · rw [replyOr, if_pos (replyBarred_true hb), replyGone_reset hr hs]
  · rw [replyOr_span (replyBarred_span hn hk ha h0 hf hg) hm hl ho]
    refine ⟨fun hi => ?_, fun hi ht hla hro hq => ?_⟩
    · have hq : (replyMade q (replyFrame q body s.cfg.addr id s) s).span.outQ = s.span.outQ := by rw [replyMade_span]
      rw [putOut, sendIdle_busy (by simpa using hi), hq]
      rfl
    · rw [putOut_idle (by simpa using hi) (by simpa using ht) (by simpa using hla) (by simpa using hro) (by simpa using hq)]
      have hf' : tried (ownSrc (replyMade q (replyFrame q body s.cfg.addr id s) s) (replyFrame q body s.cfg.addr id s))
          = { replyFrame q body s.cfg.addr id s with attempts := 1 } := by
        simp [ownSrc, unaddressed, tried, replyFrame]
      rw [hf']
      exact (beginTx_at (by exact replyMade_now q _ s)).trans rfl
  · have hc : (replyMade q (replyFrame q body 0xFFFE id s) s).svc.cause = s.svc.cause := by rw [replyMade_svc]
    rw [replyOr_svc (replyBarred_svc hn hk hm) hm ho, placeImage, hc]
    rfl

end Sys2Proof.Machine
end

section
/-!
PROOFS. Time that passes with no command (07): what one tick does to WT, its slew and the ports that wait for SnO.
-/
namespace Sys2Proof.Machine

open Sys2Proof.Claims

-- Proofs in parallel hold one thread each, and a text this long would have more of them than the check has room for.
set_option Elab.async false

/-- A port whose frame's instant has passed counts SKIP and drops the frame (R270). -/
def overdue (now : Nat) (x : PortState) : PortState :=
  match x.due with
  | some d => if d.start < now then { x with skip := bump x.skip, due := none } else x
  | none => x

/-- `countSkip` replaces its own port. -/
theorem countSkip_ports (p : Port) (s : State) :
    (countSkip p s).ports = (setPort p { s.ports.get p with skip := bump (s.ports.get p).skip, due := none } s).ports := rfl

theorem dueOver_get_same (s : State) (p : Port) : (dueOver s p).ports.get p = overdue s.now (s.ports.get p) := by
  cases hd : (s.ports.get p).due with
  | none => simp only [dueOver, overdue, hd]
  | some d =>
    by_cases hlt : d.start < s.now
    · simp only [dueOver, overdue, hd, if_pos hlt, countSkip_ports, setPort_get_self]
    · simp only [dueOver, overdue, hd, if_neg hlt]

theorem dueOver_get_other {s : State} {p r : Port} (h : r ≠ p) : (dueOver s p).ports.get r = s.ports.get r := by
  cases hd : (s.ports.get p).due with
  | none => simp only [dueOver, hd]
  | some d =>
    by_cases hlt : d.start < s.now
    · simp only [dueOver, hd, if_pos hlt, countSkip_ports, setPort_get_of_ne h]
    · simp only [dueOver, hd, if_neg hlt]

theorem dueOver_now (s : State) (p : Port) : (dueOver s p).now = s.now := by
  obtain ⟨x, m, h⟩ := dueOver_frame s p
  rw [h]

/-- Each port of a list once: those of the list are looked at, the others stay. -/
theorem foldl_dueOver_get {l : List Port} (hl : l.Nodup) (s : State) (r : Port) :
    (l.foldl dueOver s).ports.get r = if r ∈ l then overdue s.now (s.ports.get r) else s.ports.get r := by
  induction l generalizing s with
  | nil => simp
  | cons p l ih =>
    obtain ⟨hp, hl⟩ := List.nodup_cons.1 hl
    rw [List.foldl_cons, ih hl, dueOver_now]
    by_cases hr : r = p
    · subst hr
      simp [hp, dueOver_get_same]
    · simp [hr, dueOver_get_other hr]

/-- What elapsed time makes of a port. -/
theorem elapse_port (dt : Nat) (s : State) (p : Port) : (elapse dt s).ports.get p = overdue (s.now + dt) (s.ports.get p) := by
  obtain ⟨k, hk⟩ := clockOn_frame dt s
  have hp : p ∈ allPorts := by fin_cases p <;> decide
  rw [elapse, foldl_dueOver_get (by decide), if_pos hp, hk]

/-! ## One tick of the keep-alive clock -/

/-- One tick of a clock that counts and that no start delays: a period more, with the slew's corrections in it. -/
theorem clockOn_tick {s : State} (hr : wtRuns s.pw.mode = true) (h0 : s.ka.startIn = 0) (hs : s.ka.sub < Config.tickPs) :
    (clockOn Config.tickPs s).ka = { tickN 1 s.ka with
      sub := s.ka.sub
      startIn := s.ka.startIn
      jumps := (slewJumps (s.now - s.ka.sub) 1 s.ka ++ s.ka.jumps).take 16 } := by
  have hd : (s.ka.sub + (Config.tickPs - s.ka.startIn)) / Config.tickPs = 1 := by
    rw [h0, Nat.sub_zero, Nat.add_div_right _ (by decide), Nat.div_eq_of_lt hs]
  have hm : (s.ka.sub + (Config.tickPs - s.ka.startIn)) % Config.tickPs = s.ka.sub := by
    rw [h0, Nat.sub_zero, Nat.add_mod_right, Nat.mod_eq_of_lt hs]
  have hz : s.ka.startIn - Config.tickPs = s.ka.startIn := by rw [h0, Nat.zero_sub]
  have hb : s.now + s.ka.startIn - s.ka.sub = s.now - s.ka.sub := by rw [h0, Nat.add_zero]
  simp only [clockOn, hr, if_true, hd, hm, hz, hb]
  rfl

/-- A stopped clock keeps the keep-alive registers. -/
theorem clockOn_darkcut {dt : Nat} {s : State} (h : s.pw.mode = .darkcut) : (clockOn dt s).ka = s.ka := by
  simp [clockOn, wtRuns, h]

/-- WT moved on by `n` ticks. -/
theorem wt_add (w : W48) (n : Nat) : BitVec.ofInt 48 ((w.toNat : Int) + (n : Int)) = w + BitVec.ofNat 48 n := by
  rw [← Nat.cast_add, BitVec.ofInt_natCast, BitVec.ofNat_add, BitVec.ofNat_toNat, BitVec.setWidth_eq]

/-- A period without slew left. -/
theorem tickN_plain {k : KeepAlive} (h : k.slew = 0) : tickN 1 k = { k with wt := k.wt + 1, slewPhase := 0 } := by
  simp [tickN, h]

/-- A period of a slew that corrects nothing yet. -/
theorem slewSteps_before {k : KeepAlive} (h : k.slewPhase < 63) : slewSteps 1 k = 0 := by
  rw [slewSteps, Nat.div_eq_of_lt (by omega), Nat.zero_min]

theorem tickN_slewing {k : KeepAlive} (h0 : k.slew ≠ 0) (h : k.slewPhase < 63) :
    tickN 1 k = { k with wt := k.wt + 1, slewPhase := k.slewPhase + 1 } := by
  have hm : (k.slewPhase + 1) % 64 = k.slewPhase + 1 := Nat.mod_eq_of_lt (by omega)
  simp [tickN, h0, slewSteps_before h, hm]
  exact wt_add k.wt 1

/-- The period in which a slew corrects WT by a tick. -/
theorem slewSteps_due {k : KeepAlive} (h0 : k.slew ≠ 0) (h : k.slewPhase = 63) : slewSteps 1 k = 1 := by
  rw [slewSteps, h]
  omega

theorem tickN_forward {k : KeepAlive} (h0 : 0 < k.slew) (h : k.slewPhase = 63) :
    tickN 1 k = { k with wt := k.wt + 2, slew := k.slew - 1, slewPhase := 0 } := by
  simp [tickN, slewSteps_due h0.ne' h, h0.ne', slewUnit, h0, h]
  rw [add_assoc]
  exact wt_add k.wt 2

theorem tickN_back {k : KeepAlive} (h0 : k.slew < 0) (h : k.slewPhase = 63) :
    tickN 1 k = { k with wt := k.wt, slew := k.slew + 1, slewPhase := 0 } := by
  simp [tickN, slewSteps_due h0.ne h, h0.ne, slewUnit, show ¬ 0 < k.slew by omega, h]

/-- The change of WT that a correction notes (R12). -/
theorem slewJumps_due {k : KeepAlive} {base : Nat} (h0 : k.slew ≠ 0) (h : k.slewPhase = 63) :
    slewJumps base 1 k = [{ at_ := base + Config.tickPs, size := slewUnit k, step := false }] := by
  simp [slewJumps, slewSteps_due h0 h, h]

/-- Settles O4. -/
theorem idleStepPassesOneTick : Obligations.IdleStepPassesOneTick := by
  intro s hp h0 hs
  obtain ⟨k, x, m, ht⟩ := elapse_frame Config.tickPs s
  have hka : (elapse Config.tickPs s).ka = (clockOn Config.tickPs s).ka := elapse_ka _ _
  have hrun : s.pw.mode ≠ .darkcut → wtRuns s.pw.mode = true := fun h => by
    unfold wtRuns
    split <;> simp_all
  refine ⟨elapse Config.tickPs s, ?_, ?_, fun p => elapse_port _ s p, fun hd => by rw [hka, clockOn_darkcut hd], ?_⟩
  · simp only [step, hp]
  · rw [ht]
    rfl
  · intro old next
    refine ⟨fun hd hz => ?_, fun hd hz hl => ?_, fun hd hz hl => ?_, fun hd hz hl => ?_⟩ <;>
      rw [hka, clockOn_tick (hrun hd) h0 hs]
    · have hn : slewSteps 1 s.ka = 0 := by rw [slewSteps, hz, Int.natAbs_zero, Nat.min_zero]
      rw [tickN_plain hz, slewJumps, hn]
      rfl
    · rw [tickN_slewing hz hl, slewJumps, slewSteps_before hl]
      rfl
    · rw [tickN_forward hz hl, slewJumps_due hz.ne' hl, slewUnit, if_pos hz]
      rfl
    · rw [tickN_back hz hl, slewJumps_due hz.ne hl, slewUnit, if_neg (by omega)]
      rfl

end Sys2Proof.Machine
end

section
/-!
PROOFS. Levels, fades, effects and the master lane (11, 14): the writes of named lanes and zones (R190, R192).
-/
namespace Sys2Proof.Machine

open Sys2Proof.Claims

-- Proofs in parallel hold one thread each, and a text this long would have more of them than the check has room for.
set_option Elab.async false

/-- The boundary data of an untimed clause that is served now (R190, R192). -/
abbrev nowBd (q : Req) (s pre : State) : Bd :=
  { t := renderNow s, org := renderNow s, key := keyNow q s, q := q, tok := tokOf s, pre := pre }

/-! ## O19 -/

/-- A verb without result bytes that writes the lanes it names. -/
theorem exec_writesLanes {q : Req} {i : Instr} {v : Verb} {s : State} {op zone mask : Byte} {f : Nat → Nat → Lane → Lane}
    (h : Ready q s) (hq : i.req? = some q) (hv : verbOf i = some v) (ho : v.op = op)
    (hc : v.chk (lockStatus v.prot q s) s = stOk) (hg : v.again (lockStatus v.prot q s) s = stOk)
    (ha : ∀ b u, v.ans b u = some (okAns u []))
    (he : let o := waits q op s (numbered s)
      v.eff (nowBd q s o) o = laneWrites (keyNow q s) (fun z c l => { f z c l with t0 := renderNow s }) (namedLanes zone mask) o)
    (hl : i.lengthOk = true := by rfl) (hs : op ≠ opAddrSet := by decide) (hn : op ≠ opAddrClaim := by decide) :
    ∃ L, exec i s = .next (replied q op 0 [] s { counted s with rd.lanes := L })
      ∧ LanesSet zone mask (keyNow q s) (renderNow s) f s L := by
  obtain ⟨L, hL, hset⟩ := laneWrites_lanesSet zone mask (keyNow q s) (renderNow s) f (waits q op s (numbered s))
  refine ⟨L, exec_answers h hq hv ho hc hg ?_ hl rfl hs hn, hset⟩
  rw [bdNow_of_ready h, he, hL, ha]
  rfl

theorem curveStatus_fine {c : Byte} (h : CurveOk c) : curveStatus c = stOk := by
  have h1 : (decide (12 ≤ c.toNat) && decide (c.toNat ≤ 15)) = false := by
    rcases h with h | ⟨h, h'⟩
    · rw [decide_eq_false (by omega), Bool.false_and]
    · rw [decide_eq_false (show ¬ c.toNat ≤ 15 by omega), Bool.and_false]
  have h2 : decide (c.toNat > 47) = false := by
    rw [decide_eq_false]
    rcases h with h | ⟨h, h'⟩ <;> omega
  rw [curveStatus, h1, h2]
  rfl

/-- A flags byte with b0 alone. -/
theorem flags_zero_or_one {flags : Byte} (h : flags.toNat ≤ 1) : flags = 0 ∨ flags = 1 := by
  have : flags.toNat = 0 ∨ flags.toNat = 1 := by omega
  rcases this with h | h
  · exact .inl (BitVec.eq_of_toNat_eq h)
  · exact .inr (BitVec.eq_of_toNat_eq h)

theorem flag_zero_iff {flags : Byte} (h : flags.toNat ≤ 1) : flags.getLsbD 0 = true ↔ flags = 1 := by
  rcases flags_zero_or_one h with rfl | rfl <;> decide

/-- A faded lane, by the flags byte. -/
theorem fadeLane_eq {flags : Byte} (h : flags.toNat ≤ 1) (start target : W16) (dur : W32) (curve : Byte) (b : Bd) :
    fadeLane flags start target dur curve b = fun z c l => { l with
      l0 := if flags = 1 then BitVec.ofNat 16 (laneAt b.pre (zoneLane b.pre z c) b.org.toNat) else start
      l1 := target
      t0 := b.org
      d := dur
      c := curve } := by
  funext z c l
  simp only [fadeLane, flag_zero_iff h]

theorem chkFadeStart_fine {mask flags curve : Byte} (hm : MaskOk mask) (hf : flags.toNat ≤ 1) (hc : CurveOk curve) :
    chkFadeStart mask flags curve = stOk := by
  rcases flags_zero_or_one hf with rfl | rfl <;> rw [chkFadeStart, maskStatus_of_maskOk hm, curveStatus_fine hc] <;> rfl

/-- Settles O19. -/
theorem lanesAreWritten : Obligations.LanesAreWritten := by
  intro q zone mask s h hm
  have hc : maskStatus mask = stOk := maskStatus_of_maskOk hm
  refine ⟨fun level => ?_, fun flags start target dur curve hf hcu => ?_, ?_⟩
  · exact exec_writesLanes h rfl rfl rfl hc hc (fun _ _ => rfl) (foldl_setLane_eq_laneWrites _ _ _ _ _)
  · have hc := chkFadeStart_fine hm hf hcu
    refine exec_writesLanes h rfl rfl rfl hc hc (fun _ _ => rfl) ?_
    refine (foldl_setLane_eq_laneWrites _ _ _ _ _).trans ?_
    rw [fadeLane_eq hf]
    rfl
  · exact exec_writesLanes h rfl rfl rfl hc hc (fun _ _ => rfl) (foldl_setLane_eq_laneWrites _ _ _ _ _)

/-! ## O20: effects -/

/-- The effects of a list of zones set, each unless last written with a later key. -/
def effectWrites (k : Key) (e : Effect) (zs : List Nat) (s : State) : State := zs.foldl (fun s z => setEffect z k e s) s

theorem setEffect_frame (z : Nat) (k : Key) (e : Effect) (s : State) :
    ∃ E, setEffect z k e s = { s with rd.effects := E } := by
  unfold setEffect
  split
  · exact ⟨_, rfl⟩
  · exact ⟨_, rfl⟩

theorem effectWrites_frame (k : Key) (e : Effect) (zs : List Nat) (s : State) :
    ∃ E, effectWrites k e zs s = { s with rd.effects := E } := by
  induction zs generalizing s with
  | nil => exact ⟨_, rfl⟩
  | cons z zs ih =>
    obtain ⟨E, hE⟩ := setEffect_frame z k e s
    obtain ⟨F, hF⟩ := ih (setEffect z k e s)
    exact ⟨F, by rw [effectWrites, List.foldl_cons, ← effectWrites, hF, hE]⟩

theorem zoneEffect_setEffect_same (z : Nat) (k : Key) (e : Effect) (s : State) :
    zoneEffect (setEffect z k e s) z =
      if laterThan (zoneEffect s z).key k = false then { e with key := some k } else zoneEffect s z := by
  cases h : laterThan (zoneEffect s z).key k with
  | true => simp only [setEffect, h, if_true, Bool.true_eq_false, if_false]
  | false =>
    simp only [setEffect, h, Bool.false_eq_true, if_false, if_true]
    exact tget_tset_same effectBlank _ _ _

theorem zoneEffect_setEffect_other {y z : Nat} (k : Key) (e : Effect) (s : State) (h : z ≠ y) :
    zoneEffect (setEffect y k e s) z = zoneEffect s z := by
  unfold setEffect
  split
  · rfl
  · exact tget_tset_other effectBlank h

/-- Zone by zone: a zone of the list is set once, unless its key is later, and every other zone stays. -/
theorem zoneEffect_effectWrites {k : Key} {e : Effect} {zs : List Nat} (hn : zs.Nodup) (s : State) (z : Nat) :
    zoneEffect (effectWrites k e zs s) z =
      if z ∈ zs ∧ laterThan (zoneEffect s z).key k = false then { e with key := some k } else zoneEffect s z := by
  induction zs generalizing s with
  | nil => simp [effectWrites]
  | cons y zs ih =>
    obtain ⟨hy, hn⟩ := List.nodup_cons.1 hn
    have hs : effectWrites k e (y :: zs) s = effectWrites k e zs (setEffect y k e s) := rfl
    rw [hs, ih hn]
    by_cases h : z = y
    · subst h
      rw [if_neg fun h => hy h.1, zoneEffect_setEffect_same]
      simp only [List.mem_cons_self, true_and]
    · rw [zoneEffect_setEffect_other k e s h]
      simp only [List.mem_cons, h, false_or]

theorem zonesOf_nodup (zone : Byte) : (zonesOf zone).Nodup := by
  unfold zonesOf
  split
  · exact List.nodup_range
  · exact List.nodup_singleton _

theorem mem_zonesOf (zone : Byte) {z : Nat} (hz : z < 256) : z ∈ zonesOf zone ↔ zone = 0xFF ∨ zone.toNat = z := by
  by_cases h : zone = 0xFF
  · simp only [zonesOf, h, if_true, List.mem_range, hz, true_or]
  · simp only [zonesOf, h, if_false, List.mem_singleton, false_or, eq_comm]

/-- What the effects of a selector become: `Obligations.EffectsAndMasterAreWritten` says it zone by zone. -/
def EffectsSet (zone : Byte) (k : Key) (e : Effect) (s : State) (E : Tab Effect) : Prop :=
  ∀ z < 256, ((zone = 0xFF ∨ zone.toNat = z) ∧ laterThan (zoneEffect s z).key k = false →
      tget effectBlank E z = { e with key := some k })
    ∧ (¬ ((zone = 0xFF ∨ zone.toNat = z) ∧ laterThan (zoneEffect s z).key k = false) →
      tget effectBlank E z = zoneEffect s z)

theorem effectWrites_effectsSet (zone : Byte) (k : Key) (e : Effect) (s : State) :
    ∃ E, effectWrites k e (zonesOf zone) s = { s with rd.effects := E } ∧ EffectsSet zone k e s E := by
  obtain ⟨E, hE⟩ := effectWrites_frame k e (zonesOf zone) s
  refine ⟨E, hE, fun z hz => ?_⟩
  have h := zoneEffect_effectWrites (k := k) (e := e) (zonesOf_nodup zone) s z
  rw [hE] at h
  have hm := mem_zonesOf zone hz
  exact ⟨fun ⟨hz, hk⟩ => h.trans (if_pos ⟨hm.2 hz, hk⟩), fun hn => h.trans (if_neg fun ⟨hz, hk⟩ => hn ⟨hm.1 hz, hk⟩)⟩

/-- A verb without result bytes that writes the effects of its selector. -/
theorem exec_writesEffects {q : Req} {i : Instr} {v : Verb} {s : State} {op zone : Byte} {e : Effect}
    (h : Ready q s) (hq : i.req? = some q) (hv : verbOf i = some v) (ho : v.op = op)
    (hc : v.chk (lockStatus v.prot q s) s = stOk) (hg : v.again (lockStatus v.prot q s) s = stOk)
    (ha : ∀ b u, v.ans b u = some (okAns u []))
    (he : let o := waits q op s (numbered s)
      v.eff (nowBd q s o) o = effectWrites (keyNow q s) e (zonesOf zone) o)
    (hl : i.lengthOk = true := by rfl) (hs : op ≠ opAddrSet := by decide) (hn : op ≠ opAddrClaim := by decide) :
    ∃ E, exec i s = .next (replied q op 0 [] s { counted s with rd.effects := E }) ∧ EffectsSet zone (keyNow q s) e s E := by
  obtain ⟨E, hE, hset⟩ := effectWrites_effectsSet zone (keyNow q s) e (waits q op s (numbered s))
  refine ⟨E, exec_answers h hq hv ho hc hg ?_ hl rfl hs hn, hset⟩
  rw [bdNow_of_ready h, he, hE, ha]
  rfl

theorem chkEffectSet_fine {mask curve : Byte} {period : W32} (hm : MaskOk mask) (hc : CurveOk curve) (hp : 8 ≤ period.toNat) :
    chkEffectSet mask curve period = stOk := by
  rw [chkEffectSet, maskStatus_of_maskOk hm, curveStatus_fine hc, decide_eq_false (by omega)]
  rfl

/-! ## O20: the master lane and the output curves -/

theorem chkMasterSet_fine {flags curve : Byte} (hf : flags.toNat ≤ 1) (hc : CurveOk curve) : chkMasterSet flags curve = stOk := by
  rcases flags_zero_or_one hf with rfl | rfl <;> rw [chkMasterSet, curveStatus_fine hc] <;> rfl

theorem chkOutcurveSet_fine {classes curve : Byte} (h0 : classes ≠ 0) (h : classes.toNat < 16) (hc : CurveOk curve) :
    chkOutcurveSet classes curve = stOk := by
  have hb : (!highZero 4 classes || classes == 0) = false := by
    rw [highZero, decide_eq_true (by omega), beq_eq_false_iff_ne.2 h0]
    rfl
  rw [chkOutcurveSet, hb, curveStatus_fine hc]
  rfl

/-- MASTER.SET's effect (R299). -/
theorem effMasterSet_eq {flags : Byte} (hf : flags.toNat ≤ 1) (start target : W16) (dur : W32) (curve : Byte) (b : Bd)
    (s : State) : effMasterSet flags start target dur curve b s = { s with
      rd.master := if laterThan s.rd.master.key b.key then s.rd.master
        else { l0 := if flags = 1 then BitVec.ofNat 16 (laneAt b.pre b.pre.rd.master b.org.toNat) else start,
               l1 := target, t0 := b.org, d := dur, c := curve, key := some b.key } } := by
  simp only [effMasterSet, setMaster, flag_zero_iff hf]
  split
  · rfl
  · rfl

/-- An entry of a vector after one is set. -/
theorem vector_get_set {α : Type} {n : Nat} (v : Vector α n) (c r : Fin n) (x : α) :
    (v.set c.val x).get r = if r = c then x else v.get r := by
  show (v.set c.val x)[r.val] = if r = c then x else v[r.val]
  rw [Vector.getElem_set]
  simp only [Fin.ext_iff, eq_comm]

/-- The output curve of class `c` as OUTCURVE.SET leaves it. -/
def outCurveOf (classes : Byte) (k : Key) (curve : Byte) (c : Port) (x : Byte × Option Key) : Byte × Option Key :=
  if classes.getLsbD c.val ∧ laterThan x.2 k = false then (curve, some k) else x

/-- OUTCURVE.SET's step for one class. -/
def outCurveStep (classes : Byte) (k : Key) (curve : Byte) (s : State) (c : Port) : State :=
  if classes.getLsbD c.val then setOutCurve c k curve s else s

theorem outCurveStep_frame (classes : Byte) (k : Key) (curve : Byte) (s : State) (c : Port) :
    ∃ O, outCurveStep classes k curve s c = { s with rd.outc := O } := by
  unfold outCurveStep setOutCurve
  split
  · split
    · exact ⟨_, rfl⟩
    · exact ⟨_, rfl⟩
  · exact ⟨_, rfl⟩

theorem outCurveStep_get (classes : Byte) (k : Key) (curve : Byte) (s : State) (c r : Port) :
    (outCurveStep classes k curve s c).rd.outc.get r =
      if r = c then outCurveOf classes k curve c (s.rd.outc.get c) else s.rd.outc.get r := by
  unfold outCurveStep setOutCurve outCurveOf
  by_cases hb : classes.getLsbD c.val = true
  · cases hl : laterThan (s.rd.outc.get c).2 k with
    | true => by_cases hr : r = c <;> simp [hr]
    | false =>
      simp only [hb, if_true, Bool.false_eq_true, if_false, and_self]
      exact vector_get_set _ _ _ _
  · by_cases hr : r = c <;> simp [hb, hr]

theorem foldl_outCurveStep_frame (classes : Byte) (k : Key) (curve : Byte) (l : List Port) (s : State) :
    ∃ O, l.foldl (outCurveStep classes k curve) s = { s with rd.outc := O } := by
  induction l generalizing s with
  | nil => exact ⟨_, rfl⟩
  | cons c l ih =>
    obtain ⟨O, hO⟩ := outCurveStep_frame classes k curve s c
    obtain ⟨P, hP⟩ := ih (outCurveStep classes k curve s c)
    exact ⟨P, by rw [List.foldl_cons, hP, hO]⟩

/-- Class by class, each of a list once. -/
theorem foldl_outCurveStep_get {classes : Byte} {k : Key} {curve : Byte} {l : List Port} (hl : l.Nodup) (s : State) (r : Port) :
    (l.foldl (outCurveStep classes k curve) s).rd.outc.get r =
      if r ∈ l then outCurveOf classes k curve r (s.rd.outc.get r) else s.rd.outc.get r := by
  induction l generalizing s with
  | nil => simp
  | cons c l ih =>
    obtain ⟨hc, hl⟩ := List.nodup_cons.1 hl
    rw [List.foldl_cons, ih hl, outCurveStep_get]
    by_cases hr : r = c
    · subst hr
      simp [hc]
    · simp [hr]

theorem mem_allPorts (p : Port) : p ∈ allPorts := by
  fin_cases p <;> decide

/-- OUTCURVE.SET's effect: the output curve of each class (R300). -/
theorem effOutcurveSet_sets (classes curve : Byte) (b : Bd) (s : State) : ∃ O : Vector (Byte × Option Key) 4,
    effOutcurveSet classes curve b s = { s with rd.outc := O }
      ∧ ∀ c : Port, O.get c = outCurveOf classes b.key curve c (s.rd.outc.get c) := by
  obtain ⟨O, hO⟩ := foldl_outCurveStep_frame classes b.key curve allPorts s
  refine ⟨O, hO, fun c => ?_⟩
  have h := foldl_outCurveStep_get (classes := classes) (k := b.key) (curve := curve) (l := allPorts) (by decide) s c
  rw [if_pos (mem_allPorts c), hO] at h
  exact h

/-- Settles O20. -/
theorem effectsAndMasterAreWritten : Obligations.EffectsAndMasterAreWritten := by
  refine ⟨fun q zone s h => ⟨fun mask curve depth period hm hc hp => ?_, ?_⟩,
    fun q curve s h hc => ⟨fun flags start target dur hf => ?_, fun classes h0 h16 => ?_⟩⟩
  · have hk := chkEffectSet_fine hm hc hp
    exact exec_writesEffects h rfl rfl rfl hk hk (fun _ _ => rfl) rfl
  · exact exec_writesEffects h rfl rfl rfl rfl rfl (fun _ _ => rfl) rfl
  · have hk := chkMasterSet_fine hf hc
    refine exec_answers h rfl rfl rfl hk hk ?_
    rw [bdNow_of_ready h]
    exact (congrArg (fun u => some (okAns (restartHold u) [])) (effMasterSet_eq hf start target dur curve _ _)).trans rfl
  · have hk := chkOutcurveSet_fine h0 h16 hc
    obtain ⟨O, hO, hget⟩ := effOutcurveSet_sets classes curve (nowBd q s (waits q 0x26 s (numbered s))) (waits q 0x26 s (numbered s))
    refine ⟨O, exec_answers h rfl rfl rfl hk hk ?_, hget⟩
    rw [bdNow_of_ready h]
    exact (congrArg (fun u => some (okAns (restartHold u) [])) hO).trans rfl

end Sys2Proof.Machine
end

section
/-!
PROOFS. Scenes (12, 14): the lanes a recalled scene writes (R295, R336), what SCENE.READ and SCENE.LIST answer, and the user
jobs of a slot's sector (R385 to R388).
-/
namespace Sys2Proof.Machine

open Sys2Proof.Claims

-- Proofs in parallel hold one thread each, and a text this long would have more of them than the check has room for.
set_option Elab.async false

/-! ## O21: the lanes of a scene -/

/-- A key is not later than itself. -/
theorem laterThan_self (k : Key) : laterThan (some k) k = false := by
  simp [laterThan, newer]

/-- The lane that a record makes of a lane it names (R336): every field is its own. -/
def recordLane (pre : State) (aux : Nat) (o : W48) (k : Key) (r : List Byte) (z c : Nat) : Lane :=
  { l0 := BitVec.ofNat 16 (laneAt pre (zoneLane pre z c) o.toNat), l1 := BitVec.ofNat 16 (fieldLe r (8 + 2 * c) 2),
    t0 := o, d := BitVec.ofNat 32 (if (r.getD 2 0).getLsbD 4 then aux else fieldLe r 4 4), c := r.getD 1 0, key := some k }

/-- The lanes that a record names, as zone and channel. -/
def recordLanes (r : List Byte) : List (Nat × Nat) := [fieldLe r 0 1] ×ˢ chansOf (r.getD 2 0)

/-- A clause's record writes the lanes it names. -/
theorem applyRecord_eq_laneWrites (pre : State) (aux : Nat) (o : W48) (k : Key) (s : State) (r : List Byte) :
    applyRecord pre aux o (some k) s r = laneWrites k (fun z c _ => recordLane pre aux o k r z c) (recordLanes r) s := by
  rw [recordLanes, ← foldl_setLane_eq_laneWrites]
  rfl

theorem recordLanes_nodup (r : List Byte) : (recordLanes r).Nodup :=
  List.Nodup.product (List.nodup_singleton _) (List.nodup_range.filter _)

theorem mem_recordLanes (r : List Byte) {z c : Nat} (hc : c < 4) : (z, c) ∈ recordLanes r ↔ RecordNames r z c := by
  simp only [recordLanes, List.mem_product, List.mem_singleton, chansOf, List.mem_filter, List.mem_range, hc, true_and,
    RecordNames, eq_comm]

theorem channel_lt_of_mem_recordLanes {r : List Byte} {p : Nat × Nat} (h : p ∈ recordLanes r) : p.2 < 4 :=
  List.mem_range.1 (List.mem_filter.1 (List.mem_product.1 h).2).1

section

variable (pre : State) (aux : Nat) (o : W48) (k : Key)

/-- A lane that a record does not name stays. -/
theorem zoneLane_applyRecord_unnamed {s : State} {r : List Byte} {z c : Nat} (hc : c < 4) (h : ¬ RecordNames r z c) :
    zoneLane (applyRecord pre aux o (some k) s r) z c = zoneLane s z c := by
  rw [applyRecord_eq_laneWrites, zoneLane_laneWrites (recordLanes_nodup r) (fun _ => channel_lt_of_mem_recordLanes) hc,
    if_neg fun hm => h ((mem_recordLanes r hc).1 hm.1)]

/-- A lane with a later key stays. -/
theorem zoneLane_applyRecord_later {s : State} {r : List Byte} {z c : Nat} (hc : c < 4)
    (h : laterThan (zoneLane s z c).key k = true) : zoneLane (applyRecord pre aux o (some k) s r) z c = zoneLane s z c := by
  rw [applyRecord_eq_laneWrites, zoneLane_laneWrites (recordLanes_nodup r) (fun _ => channel_lt_of_mem_recordLanes) hc,
    if_neg fun hm => by rw [h] at hm; exact absurd hm.2 (by decide)]

/-- A named lane without a later key becomes the record's. -/
theorem zoneLane_applyRecord_named {s : State} {r : List Byte} {z c : Nat} (hc : c < 4) (hn : RecordNames r z c)
    (h : laterThan (zoneLane s z c).key k = false) :
    zoneLane (applyRecord pre aux o (some k) s r) z c = recordLane pre aux o k r z c := by
  rw [applyRecord_eq_laneWrites, zoneLane_laneWrites (recordLanes_nodup r) (fun _ => channel_lt_of_mem_recordLanes) hc,
    if_pos ⟨(mem_recordLanes r hc).2 hn, h⟩]
  rfl

/-- Records leave a lane that none of them names, or whose key is later. -/
theorem zoneLane_records_stays {z c : Nat} (hc : c < 4) (l : List (List Byte)) (s : State)
    (h : (∀ r ∈ l, ¬ RecordNames r z c) ∨ laterThan (zoneLane s z c).key k = true) :
    zoneLane (l.foldl (applyRecord pre aux o (some k)) s) z c = zoneLane s z c := by
  induction l generalizing s with
  | nil => rfl
  | cons r l ih =>
    have h1 : zoneLane (applyRecord pre aux o (some k) s r) z c = zoneLane s z c := by
      rcases h with h | h
      · exact zoneLane_applyRecord_unnamed pre aux o k hc (h r List.mem_cons_self)
      · exact zoneLane_applyRecord_later pre aux o k hc h
    rw [List.foldl_cons, ih, h1]
    rw [h1]
    exact h.imp_left fun h x hx => h x (List.mem_cons_of_mem r hx)

/-- Records of one clause do not put each other off. -/
theorem laterThan_records {z c : Nat} (hc : c < 4) (l : List (List Byte)) (s : State)
    (h : laterThan (zoneLane s z c).key k = false) :
    laterThan (zoneLane (l.foldl (applyRecord pre aux o (some k)) s) z c).key k = false := by
  induction l generalizing s with
  | nil => exact h
  | cons r l ih =>
    refine ih _ ?_
    by_cases hn : RecordNames r z c
    · rw [zoneLane_applyRecord_named pre aux o k hc hn h]
      exact laterThan_self k
    · rw [zoneLane_applyRecord_unnamed pre aux o k hc hn]
      exact h

/-- Where records name one lane the last stands (R336). -/
theorem zoneLane_records_last {z c : Nat} (hc : c < 4) (before after : List (List Byte)) (r : List Byte) (s : State)
    (hn : RecordNames r z c) (ha : ∀ x ∈ after, ¬ RecordNames x z c) (h : laterThan (zoneLane s z c).key k = false) :
    zoneLane ((before ++ r :: after).foldl (applyRecord pre aux o (some k)) s) z c = recordLane pre aux o k r z c := by
  rw [List.foldl_append, List.foldl_cons, zoneLane_records_stays pre aux o k hc after _ (.inl ha)]
  exact zoneLane_applyRecord_named pre aux o k hc hn (laterThan_records pre aux o k hc before s h)

/-- A scene's records change the lane table only. -/
theorem records_frame (l : List (List Byte)) (s : State) :
    ∃ L, l.foldl (applyRecord pre aux o (some k)) s = { s with rd.lanes := L } := by
  induction l generalizing s with
  | nil => exact ⟨_, rfl⟩
  | cons r l ih =>
    obtain ⟨L, hL⟩ := laneWrites_frame k (fun z c _ => recordLane pre aux o k r z c) (recordLanes r) s
    obtain ⟨M, hM⟩ := ih (applyRecord pre aux o (some k) s r)
    exact ⟨M, by rw [List.foldl_cons, hM, applyRecord_eq_laneWrites, hL]⟩

end

/-! ## O21: checks and answers -/

theorem slotStatus_fine {slot : Byte} (h : slot.toNat ≤ 63) : slotStatus slot = stOk := by
  simp [slotStatus, firstBad, show ¬ 63 < slot.toNat by omega]

/-- Bit `j` of a flag list's word. -/
theorem testBit_flagBits (l : List Bool) (j : Nat) : (flagBits l).testBit j = l.getD j false := by
  induction l generalizing j with
  | nil => simp [flagBits]
  | cons b l ih =>
    cases j with
    | zero => cases b <;> simp [flagBits, Nat.testBit_zero]
    | succ j =>
      have hd : (b.toNat + 2 * flagBits l) / 2 = flagBits l := by
        cases b
        · simp
        · simp only [Bool.toNat_true]
          omega
      rw [flagBits, Nat.testBit_succ, hd, ih]
      simp

theorem packBits_length (n : Nat) (f : Nat → Bool) : (packBits n f).length = n := by
  simp [packBits]

/-- The map that `packBits` packs. -/
theorem packBits_bit {n : Nat} (f : Nat → Bool) {k : Nat} (h : k < 8 * n) :
    ((packBits n f).getD (k / 8) 0).getLsbD (k % 8) = f k := by
  have hi : k / 8 < n := by omega
  have hj : k % 8 < 8 := Nat.mod_lt _ (by decide)
  have hk : 8 * (k / 8) + k % 8 = k := Nat.div_add_mod k 8
  have hb : (packBits n f).getD (k / 8) 0 = BitVec.ofNat 8 (flagBits ((List.range 8).map fun j => f (8 * (k / 8) + j))) := by
    simp [packBits, List.getD_eq_getElem?_getD, hi]
  rw [hb, BitVec.getLsbD_ofNat, testBit_flagBits]
  simp [List.getD_eq_getElem?_getD, hj, hk]

/-- Settles O21. -/
theorem scenesAreReadAndRecalled : Obligations.ScenesAreReadAndRecalled := by
  intro q slot s h hs
  refine ⟨fun hu hb => ?_, fun hb => ?_, fun hb hu => ?_, fun offset len ho h1 h2 => ?_,
    packBits 8 (sceneValid s), packBits_length _ _, fun k hk => packBits_bit _ hk, ?_, fun boot hv => ?_⟩
  · let w := waits q 0x30 s (numbered s)
    have hk : chkSceneRecall slot s = stOk := by
      simp [chkSceneRecall, slotStatus_fine hs, hu, hb, firstStatus, firstBad]
    have hd : dueSceneRecall slot s = stOk := by simp [dueSceneRecall, slotStatus_fine hs, hu, firstStatus, firstBad]
    let aux := sectorAux s (0x40 + slot.toNat)
    obtain ⟨L, hL⟩ := records_frame w aux (renderNow s) (keyNow q s) (sceneRecords s slot.toNat) w
    refine ⟨L, exec_answers h rfl rfl rfl hk hd ?_, fun z hz c hc => ⟨fun hn => ?_, fun before after r hr hn ha hl => ?_⟩⟩
    · rw [bdNow_of_ready h]
      exact (congrArg (fun u => some (okAns (restartHold u) [])) hL).trans rfl
    · have hst := zoneLane_records_stays w aux (renderNow s) (keyNow q s) (z := z) hc (sceneRecords s slot.toNat) w hn
      rw [hL] at hst
      exact hst
    · have hst := zoneLane_records_last w aux (renderNow s) (keyNow q s) hc before after r w hn ha hl
      rw [← hr, hL] at hst
      exact hst
  · exact exec_rejects_now h rfl rfl rfl (by simp [chkSceneRecall, slotStatus_fine hs, hb, firstStatus, firstBad, stBusyNv, stOk])
  · exact exec_rejects_now h rfl rfl rfl
      (by simp [chkSceneRecall, slotStatus_fine hs, hb, hu, firstStatus, firstBad, stBadArg, stOk])
  · have hc : chkSceneRead slot offset len = stOk := by
      have hz : (len == 0) = false := by
        rw [beq_eq_false_iff_ne]
        rintro rfl
        exact absurd h1 (by decide)
      rw [chkSceneRead, slotStatus_fine hs, hz, decide_eq_false (by omega), decide_eq_false (show ¬ len.toNat > 200 by omega)]
      rfl
    exact exec_answers h rfl rfl rfl hc hc rfl
  · exact exec_answers h rfl rfl rfl rfl rfl rfl
  · have hc : chkSceneList (some boot) = stOk := by
      have hb : (decide (boot.toNat > 63) && boot != 0xFF) = false := by
        rcases hv with hv | rfl
        · rw [decide_eq_false (by omega), Bool.false_and]
        · rfl
      rw [chkSceneList, hb]
      rfl
    exact exec_answers h rfl rfl rfl hc hc rfl

end Sys2Proof.Machine
end

section
/-!
PROOFS. User jobs of a scene slot's sector (12, 14, R385 to R388): SCENE.CAPTURE, SCENE.WRITE and SCENE.ERASE.
-/
namespace Sys2Proof.Machine

open Sys2Proof.Claims

-- Proofs in parallel hold one thread each, and a text this long would have more of them than the check has room for.
set_option Elab.async false

/-- With no user job none is running (R319). -/
theorem userJob_none {s : State} (h : NoUserJob s) : userJob s = false :=
  List.any_eq_false.2 fun j hj => by simp [h j hj]

/-- Protection level 3 alone guards everything (R317). -/
theorem protectedQ_one {s : State} (h : s.sec.prot ≠ 3) : protectedQ s 1 = false := by
  unfold protectedQ
  generalize s.sec.prot = p at h
  revert p
  decide

/-- A list of statuses that are all OK. -/
theorem firstStatus_all {l : List Byte} (h : ∀ x ∈ l, x = stOk) : firstStatus l = stOk := by
  induction l with
  | nil => rfl
  | cons x l ih =>
    rw [firstStatus, if_pos (h x List.mem_cons_self)]
    exact ih fun y hy => h y (List.mem_cons_of_mem x hy)

/-- A job of a slot's sector may begin. -/
theorem chkSceneCapture_fine {slot : Byte} {s : State} (hs : slot.toNat ≤ 63) (hp : s.sec.prot ≠ 3) (hj : NoUserJob s) :
    chkSceneCapture slot s = stOk := by
  rw [chkSceneCapture, slotStatus_fine hs, protectedQ_one hp, userJob_none hj]
  rfl

/-- A chunk of SCENE.WRITE that is taken: one that begins a buffer, or one that continues its own (R386). -/
theorem chkSceneWrite_fine {slot flags : Byte} {offset : W16} {records : List Byte} {q : Req} {s : State} (hs : slot.toNat ≤ 63)
    (hp : s.sec.prot ≠ 3) (hj : NoUserJob s) (hf : flags.toNat ≤ 1)
    (hr : ∀ r ∈ recordsOf (records.length / 16) records, recordStatus r = stOk)
    (ho : offset = 0 ∨ sceneChunkOk slot offset.toNat q s = true) (hm : offset.toNat + records.length / 16 ≤ 254) :
    chkSceneWrite slot flags offset records q s = stOk := by
  have hall : firstStatus ((recordsOf (records.length / 16) records).map recordStatus) = stOk :=
    firstStatus_all fun x hx => by
      obtain ⟨r, hmem, rfl⟩ := List.mem_map.1 hx
      exact hr r hmem
  have hb : (offset != 0 && !sceneChunkOk slot offset.toNat q s) = false := by
    rcases ho with rfl | ho
    · rfl
    · rw [ho, Bool.not_true, Bool.and_false]
  have hh : highZero 1 flags = true := decide_eq_true (by omega)
  rw [chkSceneWrite, slotStatus_fine hs, hall, protectedQ_one hp, userJob_none hj, hb, hh, decide_eq_false (by omega),
    Bool.and_false]
  rfl

/-- A first chunk begins the buffer, whatever it held. -/
theorem sceneChunk_first (slot : Byte) (deffade : W32) (records : List Byte) (b : Bd) (s : State) :
    sceneChunk slot 0 deffade records b s =
      { slot := slot, owner := owner b.q, deffade := deffade, records := records, lastAt := s.now } := by
  unfold sceneChunk
  split <;> rfl

/-- A later chunk continues it. -/
theorem sceneChunk_later {slot : Byte} {offset : W16} {f : SceneBuf} {s : State} (hf : s.nv.sceneBuf = some f)
    (ho : offset ≠ 0) (deffade : W32) (records : List Byte) (b : Bd) :
    sceneChunk slot offset deffade records b s = { f with records := f.records ++ records, lastAt := s.now } := by
  simp only [sceneChunk, hf, if_neg ho]

/-- The job of a LAST chunk, from the buffer with that chunk in it. -/
abbrev sceneWriteJob (slot : Byte) (f : SceneBuf) (s : State) : Job :=
  sceneJob slot.toNat f.deffade.toNat (recordsOf (f.records.length / 16) f.records) false 0x32 (tokOf s)

section

variable {q : Req} {slot : Byte} {offset : W16} {deffade : W32} {records : List Byte} {f : SceneBuf} {s : State}

/-- A chunk that is not the last fills the buffer. -/
theorem exec_sceneWrite_fills (h : Ready q s) (hl : (Instr.sceneWrite q slot 0 offset deffade records).lengthOk = true)
    (hc : chkSceneWrite slot 0 offset records q s = stOk)
    (hf : ∀ b, b.q = q → sceneChunk slot offset deffade records b (waits q 0x32 s (numbered s)) = f) :
    exec (.sceneWrite q slot 0 offset deffade records) s =
      .next (replied q 0x32 0 [] s { counted s with nv.sceneBuf := some f }) := by
  refine exec_answers h rfl rfl rfl hc hc ?_ hl
  change some (okAns (restartHold { waits q 0x32 s (numbered s) with nv.sceneBuf := some (sceneChunk slot offset deffade records _ _) }) []) = _
  rw [hf _ rfl]
  rfl

/-- The LAST chunk begins the job and empties the buffer. -/
theorem exec_sceneWrite_begins (h : Ready q s) (hl : (Instr.sceneWrite q slot 1 offset deffade records).lengthOk = true)
    (hc : chkSceneWrite slot 1 offset records q s = stOk)
    (hf : ∀ b, b.q = q → sceneChunk slot offset deffade records b (waits q 0x32 s (numbered s)) = f) :
    exec (.sceneWrite q slot 1 offset deffade records) s =
      .next (waits q 0x32 s (addJob (sceneWriteJob slot f s) { counted s with nv.sceneBuf := none })) := by
  refine exec_waits h rfl rfl rfl hc hc (fun _ _ => rfl) ?_ hl
  rw [bdNow_of_ready h]
  change restartHold (addJob (sceneWriteJob slot (sceneChunk slot offset deffade records _ _) s) _) = _
  rw [hf _ rfl]
  rfl

end

/-- Settles O22. -/
theorem sceneJobsBegin : Obligations.SceneJobsBegin := by
  intro q slot s h hs hp hj
  have hc := chkSceneCapture_fine hs hp hj
  refine ⟨fun zone deffade => ?_, ?_, fun deffade records h16 hlen hr => ?_⟩
  · refine ⟨sceneJob slot.toNat deffade.toNat (((capturedZones s zone).take 254).map
      (captureRecord s (renderNow s).toNat deffade.toNat)) (decide ((capturedZones s zone).length > 254)) 0x31 (tokOf s),
      rfl, rfl, rfl, rfl, rfl, ?_⟩
    refine exec_waits h rfl rfl rfl hc hc (fun _ _ => rfl) ?_
    rw [bdNow_of_ready h]
    rfl
  · refine exec_waits h rfl rfl rfl hc hc (fun _ _ => rfl) ?_
    rw [bdNow_of_ready h]
    rfl
  · have hl : ∀ (flags : Byte) (o : W16), (Instr.sceneWrite q slot flags o deffade records).lengthOk = true :=
      fun _ _ => by simp [Instr.lengthOk, unitsOk, h16, hlen]
    have hn : (0 : W16).toNat + records.length / 16 ≤ 254 := by
      show 0 + records.length / 16 ≤ 254
      omega
    have hc : ∀ flags : Byte, flags.toNat ≤ 1 → chkSceneWrite slot flags 0 records q s = stOk :=
      fun flags hf => chkSceneWrite_fine hs hp hj hf hr (.inl rfl) hn
    have hfirst : ∀ b, b.q = q → sceneChunk slot 0 deffade records b (waits q 0x32 s (numbered s)) =
        { slot := slot, owner := owner q, deffade := deffade, records := records, lastAt := s.now } :=
      fun b hb => by rw [sceneChunk_first, hb]; rfl
    refine ⟨exec_sceneWrite_fills h (hl 0 0) (hc 0 (by decide)) hfirst,
      ⟨_, rfl, rfl, rfl, rfl, exec_sceneWrite_begins h (hl 1 0) (hc 1 (by decide)) hfirst⟩,
      fun f offset hb hsl ho h0 hlen' hm => ?_⟩
    have hchunk : sceneChunkOk slot offset.toNat q s = true := by simp [sceneChunkOk, hb, hsl, ho, hlen']
    have hc' : ∀ flags : Byte, flags.toNat ≤ 1 → chkSceneWrite slot flags offset records q s = stOk :=
      fun flags hf => chkSceneWrite_fine hs hp hj hf hr (.inr hchunk) hm
    have hlater : ∀ b, b.q = q → sceneChunk slot offset deffade records b (waits q 0x32 s (numbered s)) =
        { f with records := f.records ++ records, lastAt := s.now } :=
      fun b _ => sceneChunk_later hb h0 deffade records b
    exact ⟨exec_sceneWrite_fills h (hl 0 offset) (hc' 0 (by decide)) hlater,
      ⟨_, rfl, rfl, rfl, rfl, exec_sceneWrite_begins h (hl 1 offset) (hc' 1 (by decide)) hlater⟩⟩

end Sys2Proof.Machine
end

section
/-!
PROOFS. The deck banks and the stage (07, 12, 15): DECK.WRITE and DECK.READ, the stage's opening, arming and abort, and what
DECK.SAVE and DECK.LOAD begin.
-/
namespace Sys2Proof.Machine

open Sys2Proof.Claims

-- Proofs in parallel hold one thread each, and a text this long would have more of them than the check has room for.
set_option Elab.async false

/-! ## O23 -/

/-- The owner's stage with no commit armed refuses nothing (Table 7-7). -/
theorem stageStatus_owner {q : Req} {s : State} (ho : s.st.owner = some (owner q)) (hc : s.st.commit = none) :
    stageStatus q s = stOk := by
  simp [stageStatus, ho, hc, firstBad]

/-- Without a load nothing overlaps one. -/
theorem loadOverlaps_none {lo hi : Nat} {s : State} (h : s.st.loads = []) : loadOverlaps lo hi s = false := by
  simp [loadOverlaps, h]

/-- Entries of cells the member has. -/
theorem beyondMember_none {first n : Nat} {s : State}
    (h : ∀ i < n, (first + i) % 1024 < s.node.member.cells ∧ (first + i) / 1024 < s.node.member.ports) :
    ((List.range n).any fun i => beyondMember s (first + i)) = false := by
  refine List.any_eq_false.2 fun i hi => ?_
  obtain ⟨h1, h2⟩ := h i (List.mem_range.1 hi)
  simp [beyondMember, h1, h2]

/-- Byte `k` of entry `i`. -/
theorem entry_getD (l : List Byte) (i k : Nat) (hk : k < 24) : ((l.drop (24 * i)).take 24).getD k 0 = l.getD (24 * i + k) 0 := by
  simp [List.getD_eq_getElem?_getD, hk, List.getElem?_drop]

/-- An entry whose reserved bits and bytes are 0 (Table 11-4). -/
theorem entryOk_of_bytes {l : List Byte} {i : Nat} (h1 : (l.getD (24 * i + 1) 0).toNat < 16)
    (h3 : (l.getD (24 * i + 3) 0).toNat < 16) (h : ∀ k, 19 ≤ k → k < 24 → l.getD (24 * i + k) 0 = 0) :
    entryOk ((l.drop (24 * i)).take 24) = true := by
  have hz : (((l.drop (24 * i)).take 24).drop 19).all (· == 0) = true := by
    rw [List.all_eq_true]
    intro x hx
    obtain ⟨k, hk, rfl⟩ := List.mem_iff_getElem.1 hx
    have hlt : 19 + k < 24 := by
      simp only [List.length_drop, List.length_take] at hk
      omega
    have hb := h (19 + k) (by omega) hlt
    rw [← entry_getD l i _ hlt] at hb
    rw [List.length_drop] at hk
    rw [List.getElem_drop, ← List.getD_eq_getElem (d := 0) _ (by omega), hb]
    rfl
  rw [entryOk, entry_getD l i 1 (by decide), entry_getD l i 3 (by decide), hz, Bool.and_true,
    Bool.and_eq_true]
  exact ⟨decide_eq_true h1, decide_eq_true h3⟩

/-- A DECK.WRITE that Table 7-7 and R394 let through. -/
theorem chkDeckWrite_fine {q : Req} {first : W16} {entries : List Byte} {m : Nat} {s : State} (hl : entries.length = 24 * m)
    (hr : first.toNat + m ≤ 4096)
    (he : ∀ i < m, (entries.getD (24 * i + 1) 0).toNat < 16 ∧ (entries.getD (24 * i + 3) 0).toNat < 16
      ∧ ∀ k, 19 ≤ k → k < 24 → entries.getD (24 * i + k) 0 = 0)
    (hb : ∀ i < m, (first.toNat + i) % 1024 < s.node.member.cells ∧ (first.toNat + i) / 1024 < s.node.member.ports)
    (ho : s.st.owner = some (owner q)) (hc : s.st.commit = none) (hn : s.st.loads = []) :
    chkDeckWrite first entries q s = stOk := by
  have hm : entries.length / 24 = m := by rw [hl, Nat.mul_div_cancel_left _ (by decide)]
  have hall : ((List.range m).map fun i => (entries.drop (24 * i)).take 24).all entryOk = true := by
    simp only [List.all_map, List.all_eq_true, List.mem_range, Function.comp]
    intro i hi
    obtain ⟨h1, h3, hz⟩ := he i hi
    exact entryOk_of_bytes h1 h3 hz
  simp only [chkDeckWrite, hm]
  rw [hall, stageStatus_owner ho hc, loadOverlaps_none hn, beyondMember_none hb, decide_eq_false (by omega)]
  rfl

/-- The bytes of a deck bank after entries are put into it. -/
theorem tget_deckPut (l : List Byte) (m : Memory) (a i : Nat) : tget deckBlank (deckPut m a l) i =
    if a ≤ i ∧ i < a + l.length then l.getD (i - a) 0 else tget deckBlank m i := by
  by_cases h : a ≤ i ∧ i < a + l.length
  · obtain ⟨j, rfl⟩ := Nat.exists_eq_add_of_le h.1
    rw [if_pos h, deckPut_byte l m a j (by omega), Nat.add_sub_cancel_left]
  · rw [if_neg h, deckPut_other l m a i (by omega)]

/-- A DECK.READ of entries that the member has (R395). -/
theorem chkDeckRead_fine {bank count : Byte} {first : W16} {s : State} (hk : bank.toNat ≤ 1) (h1 : 1 ≤ count.toNat)
    (h9 : count.toNat ≤ 9) (hr : first.toNat + count.toNat ≤ 4096)
    (hb : ∀ i < count.toNat, (first.toNat + i) % 1024 < s.node.member.cells
      ∧ (first.toNat + i) / 1024 < s.node.member.ports)
    (hs : bank = 1 → s.st.owner.isSome = true ∧ s.st.loads = [] ∧ s.rd.stale = none) :
    chkDeckRead bank first count s = stOk := by
  have hz : (count == 0) = false := by
    rw [beq_eq_false_iff_ne]
    rintro rfl
    exact absurd h1 (by decide)
  have ho : (bank == 1 && s.st.owner.isNone) = false := by
    by_cases hbank : bank = 1
    · obtain ⟨ho, -, -⟩ := hs hbank
      obtain ⟨o, ho⟩ := Option.isSome_iff_exists.1 ho
      simp [ho]
    · rw [beq_eq_false_iff_ne.2 hbank, Bool.false_and]
  have hl : (bank == 1 && loadOverlaps (first.toNat * 24) ((first.toNat + count.toNat) * 24) s) = false := by
    by_cases hbank : bank = 1
    · obtain ⟨-, hl, -⟩ := hs hbank
      rw [loadOverlaps_none hl, Bool.and_false]
    · rw [beq_eq_false_iff_ne.2 hbank, Bool.false_and]
  simp only [chkDeckRead]
  rw [hz, ho, hl, beyondMember_none hb, decide_eq_false (by omega), decide_eq_false (show ¬ count.toNat > 9 by omega),
    decide_eq_false (show ¬ first.toNat + count.toNat > 4096 by omega)]
  rfl

/-- DECK.READ's bytes. -/
theorem ansDeckRead_eq {bank count : Byte} {first : W16} {s : State} (hs : bank = 1 → s.rd.stale = none) :
    ansDeckRead bank first count s = okAns s ((List.range (24 * count.toNat)).map fun i =>
      tget deckBlank (if bank = 1 then s.rd.staging else s.rd.active) (24 * first.toNat + i)) := by
  rw [ansDeckRead, Nat.mul_comm first.toNat]
  by_cases hb : bank = 1
  · simp only [hb, if_true, stagingBytes, hs hb]
    rfl
  · simp only [hb, if_false]
    rfl

/-- Settles O23. -/
theorem deckIsWrittenAndRead : Obligations.DeckIsWrittenAndRead := by
  intro q first s h
  refine ⟨fun entries m hl h1 h9 hr he hb ho hc hn => ⟨deckPut s.rd.staging (first.toNat * 24) entries, ?_, fun a => ?_⟩,
    fun bank count hk h1 h9 hr hb hs => ?_⟩
  · have hk := chkDeckWrite_fine hl hr he hb ho hc hn
    refine exec_answers h rfl rfl rfl hk hk rfl ?_
    have hm : 24 ≤ 24 * m ∧ 24 * m ≤ 216 := by omega
    simp [Instr.lengthOk, unitsOk, hl, hm]
  · rw [tget_deckPut, hl, Nat.mul_comm first.toNat, ← Nat.mul_add]
  · have hc := chkDeckRead_fine hk h1 h9 hr hb hs
    exact exec_answers h rfl rfl rfl hc hc (congrArg some (ansDeckRead_eq fun hbank => (hs hbank).2.2))

/-! ## O24 -/

/-- With no load running dropping them changes nothing. -/
theorem dropLoad_none {s : State} (h : s.st.loads = []) : dropLoad s = s := by
  rw [dropLoad, h, List.foldl_nil, ← h]

theorem disarm_none {s : State} (h : s.st.commit = none) : disarm s = s := by
  simp only [disarm, h]

/-- STAGE.BEGIN's effect where no load runs (R198, R396). -/
theorem effStageBegin_eq (b : Bd) {s : State} (h : s.st.loads = []) : effStageBegin b s = { s with
    st.owner := some (owner b.q), st.lastAt := s.now, rd.staging := s.rd.active, rd.stale := none } := by
  rw [effStageBegin, dropLoad_none h]
  rfl

/-- STAGE.ABORT's effect where nothing is armed and no load runs. -/
theorem effStageAbort_eq {s : State} (hc : s.st.commit = none) (hl : s.st.loads = []) :
    effStageAbort s = { s with st.owner := none } := by
  rw [effStageAbort, abortStage, disarm_none hc, dropLoad_none hl]

/-- A stage that another source owns. -/
theorem firstBad_conflict {o : W16} {q : Req} (h : o ≠ owner q) (l : List (Bool × Byte)) :
    firstBad ((o != owner q, stStageConflict) :: l) = stStageConflict := by
  rw [firstBad, bne_iff_ne.2 h, if_pos rfl]

/-- STAGE.BEGIN is open to every source without a stage, and to the owner with no commit armed. -/
theorem chkStageBegin_fine {q : Req} {s : State} (ho : s.st.owner = none ∨ s.st.owner = some (owner q))
    (hc : s.st.commit = none) : chkStageBegin q s = stOk := by
  rcases ho with ho | ho <;> simp [chkStageBegin, ho, hc, firstBad]

/-- The apply time of a STAGE.COMMIT within R189's limits. -/
theorem timeStatus_fine {lost : Bool} {w a : Nat} (hl : lost = false) (h1 : w ≤ a + 65536) (h2 : a ≤ w + 16777216) :
    timeStatus lost w a = stOk := by
  rw [timeStatus, hl, decide_eq_false (show ¬ w > a + Config.lateLimit by rw [Config.lateLimit]; omega),
    decide_eq_false (show ¬ a > w + Config.horizon by rw [Config.horizon]; omega)]
  rfl

/-- Settles O24. -/
theorem stageIsOpenedArmedAborted : Obligations.StageIsOpenedArmedAborted := by
  intro q c s h before
  refine ⟨fun ho hc hl => ?_, fun o ho hne => ⟨?_, ?_⟩, fun ho => ⟨?_, ?_⟩, fun ho hc => ⟨?_, fun hlost h1 h2 => ?_, fun hl => ?_⟩⟩
  · have hk := chkStageBegin_fine ho hc
    refine exec_answers h rfl rfl rfl hk hk ?_
    exact (congrArg (fun u => some (okAns (restartHold u) [])) (effStageBegin_eq _ (by exact hl))).trans rfl
  · exact exec_rejects_now h rfl rfl rfl (by simp only [chkStageBegin, ho]; exact firstBad_conflict hne _)
  · exact exec_rejects_now h rfl rfl rfl (by simp only [chkStageAbort, ho]; exact firstBad_conflict hne _)
  · exact exec_rejects_now h rfl rfl rfl (by simp only [chkStageAbort, ho]; rfl)
  · exact exec_rejects_now h rfl rfl rfl (by simp only [chkStageCommit, stageStatus, ho]; rfl)
  · have hk : chkStageCommit 1 0 q s = stOk := by
      rw [chkStageCommit, stageStatus_owner ho hc]
      rfl
    refine exec_waits h rfl rfl rfl hk hk (fun _ _ => rfl) ?_
    rw [bdNow_of_ready h]
    rfl
  · have hk : chkStageCommit 0 c q s = stOk := by
      rw [chkStageCommit, stageStatus_owner ho hc, wtN, timeStatus_fine hlost h1 h2]
      rfl
    refine exec_waits h rfl rfl rfl hk hk (fun _ _ => rfl) ?_
    rw [bdNow_of_ready h]
    rfl
  · have hk : chkStageAbort q s = stOk := by simp [chkStageAbort, ho, firstBad]
    refine exec_answers h rfl rfl rfl hk hk ?_
    exact (congrArg (fun u => some (okAns (restartHold u) [])) (effStageAbort_eq (by exact hc) (by exact hl))).trans rfl

/-! ## O25 -/

theorem protectedQ_two {s : State} (h : s.sec.prot.toNat ≤ 1) : protectedQ s 2 = false := by
  unfold protectedQ
  generalize s.sec.prot = p at h
  revert p
  decide

/-- The operations of a deck save: 24 sectors erased, 384 pages programmed, and a configuration copy (Table 12-4). -/
def deckSaveOps (area copy : Bool) : List NvOp :=
  (List.range 24).flatMap (fun i => eraseOps (areaBase area / 4096 + i)) ++ (List.range 384).map (NvOp.deckPage area)
    ++ configOps copy

theorem deckSaveOps_length (area copy : Bool) : (deckSaveOps area copy).length = 468 := by
  simp [deckSaveOps, eraseOps, configOps, List.length_flatMap]

/-- Its erases: one for each sector of the area, and one for the configuration copy. -/
theorem deckSaveOps_erases (area copy : Bool) : ((deckSaveOps area copy).filter fun o => match o with
    | .erase _ => true
    | _ => false).length = 25 := by
  cases area <;> cases copy <;> rfl

/-- The job of a deck save. -/
abbrev deckSaveJob (s : State) : Job :=
  let area := match s.cfg.deckLive with
    | some a => !a
    | none => false
  { kind := .deckSave area 0 [] false, user := true, op := 0x45, ops := deckSaveOps area (configTarget s),
    tok := some (tokOf s), failed := false }

/-- A load that keeps its distance. -/
theorem loadOverlaps_apart {first count : Nat} {s : State}
    (h : ∀ l ∈ s.st.loads, l.first + l.count + 1 ≤ first ∨ first + count + 1 ≤ l.first) :
    loadOverlaps (4096 * first / 24 * 24) ((4096 * (first + count) + 23) / 24 * 24) s = false := by
  refine List.any_eq_false.2 fun l hl => ?_
  rw [Bool.and_eq_true, decide_eq_true_eq, decide_eq_true_eq]
  rcases h l hl with h | h <;> omega

/-- Settles O25. -/
theorem deckIsSavedAndLoaded : Obligations.DeckIsSavedAndLoaded := by
  intro q s h
  refine ⟨fun hu hp hj => ⟨deckSaveJob s, rfl, rfl, rfl, ?_, deckSaveOps_length _ _, deckSaveOps_erases _ _, ?_⟩,
    fun first count h1 h24 ho hc hj hl => ?_⟩
  · cases hd : s.cfg.deckLive with
    | none => simp only [hd]; rfl
    | some a => cases a <;> simp only [hd] <;> rfl
  · have hk : chkDeckSave (lockStatus true q s) s = stOk := by
      rw [chkDeckSave, lockStatus_unlocked hu, protectedQ_two hp, userJob_none hj]
      rfl
    refine exec_waits h rfl rfl rfl hk hk (fun _ _ => rfl) ?_
    rw [bdNow_of_ready h]
    rfl
  · have hk : chkDeckLoad first count q s = stOk := by
      have hz : (count == 0) = false := by
        rw [beq_eq_false_iff_ne]
        rintro rfl
        exact absurd h1 (by decide)
      rw [chkDeckLoad, stageStatus_owner ho hc, loadOverlaps_apart hl, userJob_none hj, hz, decide_eq_false (by omega),
        decide_eq_false (by omega)]
      rfl
    refine exec_waits h rfl rfl rfl hk hk (fun _ _ => rfl) ?_
    rw [bdNow_of_ready h]
    rfl

end Sys2Proof.Machine
end

section
/-!
PROOFS. User curves (12, 15, R402, R403): the buffer of CURVE.WRITE, the table it replaces or removes, and CURVE.READ.
-/
namespace Sys2Proof.Machine

open Sys2Proof.Claims

-- Proofs in parallel hold one thread each, and a text this long would have more of them than the check has room for.
set_option Elab.async false

/-! ## O26: checks -/

/-- A user curve's id in a chunk that clears nothing. -/
theorem chkCurveWrite_chunk {id : Byte} {first : W16} {points : List W16} {q : Req} {s : State} (h16 : 16 ≤ id.toNat)
    (h47 : id.toNat ≤ 47) (hf : first.toNat ≤ 256) : chkCurveWrite id 0 first points q s =
      firstBad [(first != 0 && !curveChunkOk id first.toNat q s, stBadArg),
        (decide (first.toNat + points.length > 257), stRange)] := by
  rw [chkCurveWrite, decide_eq_false (show ¬ id.toNat < 16 by omega), decide_eq_false (show ¬ id.toNat > 47 by omega),
    decide_eq_false (show ¬ first.toNat > 256 by omega)]
  rfl

/-- A first chunk begins a buffer, whatever is held. -/
theorem chkCurveWrite_first {id : Byte} {points : List W16} {q : Req} {s : State} (h16 : 16 ≤ id.toNat)
    (h47 : id.toNat ≤ 47) (hp : points.length ≤ 100) : chkCurveWrite id 0 0 points q s = stOk := by
  rw [chkCurveWrite_chunk h16 h47 (by decide), decide_eq_false (show ¬ (0 : W16).toNat + points.length > 257 by
    rw [show (0 : W16).toNat = 0 from rfl]; omega)]
  rfl

/-- A later chunk continues its own buffer. -/
theorem chkCurveWrite_later {id : Byte} {first : W16} {points : List W16} {q : Req} {s : State} (h16 : 16 ≤ id.toNat)
    (h47 : id.toNat ≤ 47) (hf : first.toNat ≤ 256) (ho : curveChunkOk id first.toNat q s = true)
    (hp : first.toNat + points.length ≤ 257) : chkCurveWrite id 0 first points q s = stOk := by
  rw [chkCurveWrite_chunk h16 h47 hf, ho, decide_eq_false (by omega), Bool.not_true, Bool.and_false]
  rfl

/-- One that continues none is turned down. -/
theorem chkCurveWrite_stray {id : Byte} {first : W16} {points : List W16} {q : Req} {s : State} (h16 : 16 ≤ id.toNat)
    (h47 : id.toNat ≤ 47) (hf : first.toNat ≤ 256) (h0 : first ≠ 0)
    (ho : ∀ f, s.nv.curveBuf = some f → f.id ≠ id ∨ f.owner ≠ owner q ∨ f.points.length ≠ first.toNat) :
    chkCurveWrite id 0 first points q s = stBadArg := by
  have hn : curveChunkOk id first.toNat q s = false := by
    unfold curveChunkOk
    cases hb : s.nv.curveBuf with
    | none => rfl
    | some f =>
      rcases ho f hb with h | h | h
      · simp [h]
      · simp [h]
      · simp [h]
  rw [chkCurveWrite_chunk h16 h47 hf, hn, bne_iff_ne.2 h0]
  rfl

theorem chkCurveWrite_clear {id : Byte} {q : Req} {s : State} (h16 : 16 ≤ id.toNat) (h47 : id.toNat ≤ 47) :
    chkCurveWrite id 1 0 [] q s = stOk := by
  rw [chkCurveWrite, decide_eq_false (show ¬ id.toNat < 16 by omega), decide_eq_false (show ¬ id.toNat > 47 by omega)]
  rfl

/-! ## O26: effects -/

/-- A replaced curve's sector is to be rewritten, and nothing else changes (R333). -/
theorem curveChanged_eq (id : Nat) (s : State) : curveChanged id s = { s with
    nv.curveDirty := if s.nv.curveDirty.any fun e => e.1 == curveSector id then s.nv.curveDirty
      else s.nv.curveDirty ++ [(curveSector id, s.now)] } := by
  unfold curveChanged
  dsimp only
  split
  · rfl
  · rfl

/-- A chunk short of 257 points fills the buffer. -/
theorem effCurveWrite_fills {id : Byte} {first : W16} {points : List W16} {b : Bd} {s : State}
    (h : (curvePoints first points s).length ≠ 257) : effCurveWrite id 0 first points b s = { s with
      nv.curveBuf := some { id := id, owner := owner b.q, points := curvePoints first points s, lastAt := s.now } } :=
  if_neg h

/-- 257 points replace the curve. -/
theorem effCurveWrite_replaces {id : Byte} {first : W16} {points : List W16} {b : Bd} {s : State}
    (h : (curvePoints first points s).length = 257) : effCurveWrite id 0 first points b s =
      curveChanged id.toNat { s with
        rd.curves := tset curveBlank s.rd.curves id.toNat (curvePoints first points s), nv.curveBuf := none } :=
  if_pos h

/-- CLEAR removes the table and the curve's own buffer. -/
theorem effCurveWrite_clears (id : Byte) (b : Bd) (s : State) : effCurveWrite id 1 0 [] b s =
    curveChanged id.toNat { s with
      rd.curves := tset curveBlank s.rd.curves id.toNat [], nv.curveBuf := s.nv.curveBuf.filter fun f => f.id != id } := by
  have hfl : (1 : Byte).getLsbD 0 = true := by decide
  simp only [effCurveWrite, hfl, if_true]
  split
  · rename_i f hf
    by_cases hid : f.id = id
    · have e : s.nv.curveBuf.filter (fun f => f.id != id) = none := by simp [hf, hid]
      rw [if_pos hid, e]
    · have e : s.nv.curveBuf.filter (fun f => f.id != id) = s.nv.curveBuf := by simp [hf, hid]
      rw [if_neg hid, e]
  · rename_i hf
    have e : s.nv.curveBuf.filter (fun f => f.id != id) = s.nv.curveBuf := by simp [hf]
    rw [e]

/-- A later chunk's points follow those held. -/
theorem curvePoints_later {first : W16} {points : List W16} {f : CurveBuf} {s : State} (h0 : first ≠ 0)
    (hb : s.nv.curveBuf = some f) : curvePoints first points s = f.points ++ points := by
  simp only [curvePoints, if_neg h0, hb]

/-- A curve table with one entry set. -/
theorem curveSet (C : Tab (List W16)) (id : Nat) (l : List W16) :
    tget curveBlank (tset curveBlank C id l) id = l
      ∧ ∀ k ≠ id, tget curveBlank (tset curveBlank C id l) k = tget curveBlank C k :=
  ⟨tget_tset_same curveBlank C id l, fun _ hk => tget_tset_other curveBlank hk⟩

/-! ## O26: CURVE.READ -/

theorem chkCurveRead_fine {id count : Byte} {first : W16} (h1 : 1 ≤ count.toNat) (h100 : count.toNat ≤ 100)
    (hr : first.toNat + count.toNat ≤ 257) (h0 : id ≠ 0) (hc : CurveOk id) : chkCurveRead id first count = stOk := by
  have hz : (count == 0) = false := by
    rw [beq_eq_false_iff_ne]
    rintro rfl
    exact absurd h1 (by decide)
  rw [chkCurveRead, beq_eq_false_iff_ne.2 h0, curveStatus_fine hc, hz, decide_eq_false (by omega),
    decide_eq_false (show ¬ count.toNat > 100 by omega), decide_eq_false (show ¬ first.toNat + count.toNat > 257 by omega)]
  rfl

/-- A curve without a table reads as zeros. -/
theorem ansCurveRead_none {id count : Byte} {first : W16} {s : State} (h : hasTable s id.toNat = false) :
    ansCurveRead id first count s = okAns s (0 :: List.replicate (2 * count.toNat) 0) := by
  have hz : ∀ n, ((List.range n).flatMap fun _ => leBytes 2 0) = List.replicate (2 * n) (0 : Byte) := fun n => by
    induction n with
    | zero => rfl
    | succ n ih =>
      rw [List.range_succ, List.flatMap_append, ih, Nat.mul_succ, List.replicate_add]
      rfl
  simp only [ansCurveRead, h, Bool.false_eq_true, if_false, hz]
  rfl

theorem ansCurveRead_table {id count : Byte} {first : W16} {s : State} (h : hasTable s id.toNat = true) :
    ansCurveRead id first count s = okAns s (1 :: (List.range count.toNat).flatMap fun i =>
      leBytes 2 (curvePoint s id.toNat (first.toNat + i))) := by
  simp only [ansCurveRead, h, if_true]
  rfl

/-- Settles O26. -/
theorem curvesAreWrittenAndRead : Obligations.CurvesAreWrittenAndRead := by
  intro q id s h
  refine ⟨fun h16 h47 => ?_, fun first count h1 h100 hr h0 hc => ⟨fun ht => ?_, fun ht => ?_⟩⟩
  · refine ⟨fun points hp => ?_, fun points held first at_ hp hl h0 hb => ⟨fun hlt => ?_, fun hf he => ?_⟩,
      fun points first hp h0 hf ho => ?_, ?_⟩
    · have hk := chkCurveWrite_first (q := q) (s := s) h16 h47 hp
      refine exec_answers h rfl rfl rfl hk hk ?_ (decide_eq_true hp)
      have hn : (0 : W16).toNat + points.length = points.length := Nat.zero_add _
      change some (ansCurveWrite 0 points (restartHold (effCurveWrite id 0 0 points _ _))) = _
      rw [effCurveWrite_fills (by exact show points.length ≠ 257 by omega), ansCurveWrite, hn]
      rfl
    · have hf : first.toNat ≤ 256 := by omega
      have ho : curveChunkOk id first.toNat q s = true := by simp [curveChunkOk, hb, hl]
      have hk := chkCurveWrite_later h16 h47 hf ho hlt.le
      refine exec_answers h rfl rfl rfl hk hk ?_ (decide_eq_true hp)
      have hps : curvePoints first points (waits q 0x47 s (numbered s)) = held ++ points := curvePoints_later h0 (by exact hb)
      have hlen : (held ++ points).length ≠ 257 := by
        rw [List.length_append]
        omega
      change some (ansCurveWrite first points (restartHold (effCurveWrite id 0 first points _ _))) = _
      rw [effCurveWrite_fills (by rw [hps]; exact hlen), hps]
      rfl
    · have ho : curveChunkOk id first.toNat q s = true := by simp [curveChunkOk, hb, hl]
      have hk := chkCurveWrite_later h16 h47 hf ho he.le
      have hps : curvePoints first points (waits q 0x47 s (numbered s)) = held ++ points := curvePoints_later h0 (by exact hb)
      have hlen : (held ++ points).length = 257 := by
        rw [List.length_append]
        omega
      refine ⟨_, curveSet s.rd.curves id.toNat (held ++ points), exec_answers h rfl rfl rfl hk hk ?_ (decide_eq_true hp)⟩
      change some (ansCurveWrite first points (restartHold (effCurveWrite id 0 first points _ _))) = _
      rw [effCurveWrite_replaces (by rw [hps]; exact hlen), hps, curveChanged_eq, ansCurveWrite, he]
      rfl
    · exact exec_rejects_now h rfl rfl rfl (chkCurveWrite_stray h16 h47 hf h0 ho) (by decide) (decide_eq_true hp)
    · have hk := chkCurveWrite_clear (q := q) (s := s) h16 h47
      refine ⟨_, curveSet s.rd.curves id.toNat [], exec_answers h rfl rfl rfl hk hk ?_⟩
      change some (ansCurveWrite 0 [] (restartHold (effCurveWrite id 1 0 [] (bdNow q s (waits q 0x47 s (numbered s))) _))) = _
      rw [effCurveWrite_clears, curveChanged_eq]
      rfl
  · have hk := chkCurveRead_fine h1 h100 hr h0 hc
    exact exec_answers h rfl rfl rfl hk hk (congrArg some (ansCurveRead_table (by exact ht)))
  · have hk := chkCurveRead_fine h1 h100 hr h0 hc
    exact exec_answers h rfl rfl rfl hk hk (congrArg some (ansCurveRead_none (by exact ht)))

end Sys2Proof.Machine
end

section
/-!
PROOFS. Ports, cells and relay mode (15, R393, R404 to R409): PORT.CFG, PORT.STATUS and PORT.CENSUS, and where CELL.IDENT and
RELAY.CFG part from what is claimed of them.
-/
namespace Sys2Proof.Machine

open Sys2Proof.Claims

-- Proofs in parallel hold one thread each, and a text this long would have more of them than the check has room for.
set_option Elab.async false

/-! ## O27 -/

theorem ports_le_four (m : Member) : m.ports ≤ 4 := by cases m <;> decide

theorem cells_le (m : Member) : m.cells ≤ 1024 := by cases m <;> decide

/-- A port that the member has. -/
theorem portStatusOf_fine {m : Member} {port : Byte} (h : port.toNat < m.ports) : portStatusOf m port = stOk := by
  have h4 := ports_le_four m
  rw [portStatusOf, decide_eq_false (show ¬ port.toNat > 3 by omega), decide_eq_false (show ¬ port.toNat ≥ m.ports by omega)]
  rfl

theorem chkPortCfg_fine {port flags rate fmt interval lk : Byte} {n : W16} {s : State} (hp : port.toNat < s.node.member.ports)
    (hf : flags.toNat < 4) (hr : rate.toNat ≤ 2) (hm : fmt.toNat < 12) (hi : interval ≠ 0) (h0 : n ≠ 0)
    (hn : n.toNat ≤ s.node.member.cells) (hl : lk = stOk) : chkPortCfg port flags rate fmt n interval lk s = stOk := by
  have h4 := ports_le_four s.node.member
  have hc := cells_le s.node.member
  have hb : (!highZero 2 flags || decide (rate.toNat > 2) || !highZero 4 fmt || decide (fmt.toNat / 4 = 3)) = false := by
    rw [highZero, highZero, decide_eq_true (show flags.toNat < 2 ^ 2 by omega), decide_eq_true (show fmt.toNat < 2 ^ 4 by omega),
      decide_eq_false (by omega), decide_eq_false (by omega)]
    rfl
  rw [chkPortCfg, portStatusOf_fine hp, hb, hl, decide_eq_false (show ¬ port.toNat > 3 by omega),
    decide_eq_false (show ¬ n.toNat > 1024 by omega), decide_eq_false (show ¬ n.toNat > s.node.member.cells by omega),
    beq_eq_false_iff_ne.2 hi, beq_eq_false_iff_ne.2 h0]
  rfl

/-- The port that a port field of a verb names. -/
theorem portOf_ofNat (p : Port) : portOf (BitVec.ofNat 8 p.val) = p := by
  revert p
  decide

theorem toNat_portField (p : Port) : (BitVec.ofNat 8 p.val).toNat = p.val := by
  revert p
  decide

/-- Settles O27. -/
theorem portsAreSetAndRead : Obligations.PortsAreSetAndRead := by
  intro q s h
  refine ⟨fun port flags rate fmt interval n hu hp hf hr hm hi h0 hn => ?_, fun p x hp hx => ?_, ?_⟩
  · have hk := chkPortCfg_fine hp hf hr hm hi h0 hn (lockStatus_unlocked (prot := true) hu)
    refine ⟨_, exec_answers h rfl rfl rfl hk hk rfl, fun p => ?_⟩
    have hport : (p = portOf port) = (p.val = port.toNat) := by
      have h4 := ports_le_four s.node.member
      have hv : (portOf port).val = port.toNat := Nat.mod_eq_of_lt (by omega)
      rw [Fin.ext_iff, hv]
    have hget := vector_get_set s.cfg.ports (portOf port) p (portCfgOf flags rate fmt n interval)
    simp only [hport] at hget
    exact hget
  · subst hx
    have hk : chkPortStatus (BitVec.ofNat 8 p.val) s = stOk := portStatusOf_fine (by rw [toNat_portField]; exact hp)
    refine exec_answers h rfl rfl rfl hk hk ?_
    change some (ansPortStatus (BitVec.ofNat 8 p.val) _) = _
    rw [ansPortStatus, portOf_ofNat]
    rfl
  · exact exec_answers h rfl rfl rfl rfl rfl rfl

/-! ## O28 -/

/-- A request that asks for no reply. -/
def silentReq : Req :=
  { mbox := .span, dst := 5, src := 0x2001, seq := 7, kind := .individual, noreply := true, auth := true, applyAt := none,
    stamp := 100, rate := 500000 }

/-- A node of address 5 in RUN at a boundary of WT 64 000, its REST_HOLD over, with these ports. -/
def boundaryNode (ports : Vector PortState 4) : State :=
  { State.reset with cfg.addr := 5, ka.wt := 64000, ka.lost := false, nv.jobs := [], rd.lastT := 63968, pw.lockAt := 0,
                     pw.restFree := true, ports := ports }

/-- Ports in OK whose parameters name more positions than a port can have. -/
def longPorts : Vector PortState 4 := Vector.replicate 4 { state := .ok, cfg := { n := 65535 } }

theorem longPorts_ready : Ready silentReq (boundaryNode longPorts) := ⟨rfl, by decide, rfl, nofun⟩

/-- Refutes O28: nothing said of the state keeps N within the 1024 positions a port can have, and CELL.IDENT of the position
2000 of a port with N 65 535 is RANGE (R393), not an answer that restarts REST_HOLD. -/
theorem not_cellVerbsAct : ¬ Obligations.CellVerbsAct := by
  intro h
  obtain ⟨hident, -⟩ := h.2 silentReq 0 (boundaryNode longPorts) longPorts_ready (by decide)
  have hclaim := (hident 2000 1 (by decide) (by decide) (by decide)).1 rfl rfl rfl
  have hexec : exec (.cellIdent silentReq 0 2000 1) (boundaryNode longPorts)
      = .next (rejected silentReq 0x54 0x13 (boundaryNode longPorts)) :=
    exec_rejects_now longPorts_ready rfl rfl rfl (by decide)
  have hsame := hexec.symm.trans hclaim
  exact absurd (congrArg (fun t : State => t.pw.restFree) (Host.Outcome.next.inj hsame)) (by decide)

/-! ## O29 -/

theorem replyGone_ports (c : Option Nat) (s : State) : (replyGone c s).ports = s.ports := by
  cases c with
  | none => rfl
  | some id =>
    cases hr : s.pw.resetReq <;> simp only [replyGone, hr] <;> split_ifs <;> rfl

/-- A clause that asks for no reply leaves the ports as its verb made them. -/
theorem replied_silent_ports (op st : Byte) (r : List Byte) (s t : State) : (replied silentReq op st r s t).ports = t.ports := by
  have hb : replyBarred silentReq false t = true := replyBarred_true (.inl rfl)
  rw [replied, replyOr, if_pos hb, replyGone_ports]

/-- Ports that each hold a CONFIG request of one CELL.SIDECFG. -/
def sharedPorts : Vector PortState 4 :=
  Vector.replicate 4 { configs := [{ first := 0, last := 0, word := 0, tok := { id := 0, idx := 0 }, sent := false, cut := false }] }

theorem sharedPorts_ready : Ready silentReq (boundaryNode sharedPorts) := ⟨rfl, by decide, rfl, nofun⟩

/-- Whether port 1 of the next state holds a CONFIG request whose verb was cut on another port. -/
def cutOnPort1 (o : Host.Outcome State Fault Refusal) : Bool :=
  match o with
  | .next t => (t.ports.get 1).configs.any (·.cut)
  | _ => false

/-- Refutes O29: relay mode cuts the CONFIG request that S0 holds (R393), and marks so the requests of the same CELL.SIDECFG on
the other ports; so S1 does not stay as it is. -/
theorem not_relayIsSet : ¬ Obligations.RelayIsSet := by
  intro h
  obtain ⟨-, -, hall⟩ := (h silentReq (boundaryNode sharedPorts) sharedPorts_ready (.inr rfl)).2 (by decide)
  obtain ⟨-, -, hon, -⟩ := hall 0 (by decide)
  obtain ⟨t, hexec, -, -, -, -, -, hports⟩ := hon rfl
  have hcut : cutOnPort1 (exec (.relayCfg silentReq 1 0) (boundaryNode sharedPorts)) = true := by decide
  rw [hexec, cutOnPort1, replied_silent_ports, hports 1 (by decide)] at hcut
  exact absurd hcut (by decide)

end Sys2Proof.Machine
end

section
/-!
PROOFS. Failure reports, counters and statistics (13, 15, R410 to R416): what the verbs read, store, clear and begin.
-/
namespace Sys2Proof.Machine

open Sys2Proof.Claims

-- Proofs in parallel hold one thread each, and a text this long would have more of them than the check has room for.
set_option Elab.async false

/-! ## O30 -/

theorem byte_ne_zero_of_pos {b : Byte} (h : 1 ≤ b.toNat) : b ≠ 0 := by
  rintro rfl
  exact absurd h (by decide)

/-- A page of a port and of cells that the member has. -/
theorem chkFailMap_mask {page : Byte} {s : State} (h15 : page.toNat ≤ 15) (hp : page.toNat / 4 < s.node.member.ports)
    (hc : 256 * (page.toNat % 4) < s.node.member.cells) : chkFailMap page 1 0 0 s = stOk := by
  rw [chkFailMap, decide_eq_false (show ¬ page.toNat > 15 by omega), decide_eq_false (show ¬ page.toNat / 4 ≥ _ by omega),
    decide_eq_false (show ¬ page.toNat % 4 * 256 ≥ _ by omega)]
  rfl

theorem chkFailMap_bytes {page first count : Byte} {s : State} (h15 : page.toNat ≤ 15) (hp : page.toNat / 4 < s.node.member.ports)
    (hc : 256 * (page.toNat % 4) < s.node.member.cells) (h1 : 1 ≤ count.toNat) (h128 : count.toNat ≤ 128)
    (hr : first.toNat + count.toNat ≤ 256) : chkFailMap page 0 first count s = stOk := by
  rw [chkFailMap, decide_eq_false (show ¬ page.toNat > 15 by omega), decide_eq_false (show ¬ page.toNat / 4 ≥ _ by omega),
    decide_eq_false (show ¬ page.toNat % 4 * 256 ≥ _ by omega), beq_eq_false_iff_ne.2 (byte_ne_zero_of_pos h1),
    decide_eq_false (show ¬ count.toNat > 128 by omega), decide_eq_false (show ¬ first.toNat + count.toNat > 256 by omega)]
  rfl

theorem chkConcealCfg_fine {flags : Byte} (h : flags.toNat < 4) : chkConcealCfg (some flags) = stOk := by
  rw [chkConcealCfg, highZero, decide_eq_true (show flags.toNat < 2 ^ 2 by omega)]
  rfl

/-- Report settings that FAIL.NOTIFY takes (R412). -/
theorem chkFailNotify_fine {addr : W16} {mode f h i : Byte}
    (ha : addr = 0 ∨ addr = 0xFFFE ∨ (0x2000 ≤ addr.toNat ∧ addr.toNat ≤ 0x2FFF)) (hm : mode.toNat ≤ 1) (h1 : 1 ≤ f.toNat)
    (h15 : f.toNat ≤ 15) (hi : i ≠ 0) : chkFailNotify (some (addr, mode, f, h, i)) = stOk := by
  have hd : (addr == 0 || addr == localSrc || (decide (0x2000 ≤ addr.toNat) && decide (addr.toNat ≤ 0x2FFF))) = true := by
    rcases ha with rfl | rfl | ⟨h1, h2⟩
    · rfl
    · rfl
    · rw [decide_eq_true h1, decide_eq_true h2, Bool.and_self, Bool.or_true]
  rw [chkFailNotify, hd, decide_eq_false (show ¬ mode.toNat > 1 by omega), beq_eq_false_iff_ne.2 (byte_ne_zero_of_pos h1),
    decide_eq_false (show ¬ f.toNat > 15 by omega), beq_eq_false_iff_ne.2 hi]
  rfl

section

variable (addr : W16) (f h i : Byte) (s : State)

/-- FAIL.NOTIFY's settings stored. -/
abbrev notifySet (push : Bool) : State :=
  persist { s with cfg.notify := { addr := addr, push := push, f := f, h := h, i := i } }

/-- PUSH on where it was on, or with nothing to report, only stores. -/
theorem effFailNotify_on (hs : s.cfg.notify.push = true ∨ faultPages s = 0) :
    effFailNotify (some (addr, 1, f, h, i)) s = notifySet addr f h i s true := by
  have h1 : (1 : Byte) ≠ 0 := by decide
  simp only [effFailNotify, if_neg h1]
  rcases hs with hs | hs
  · exact if_pos hs
  · split
    · rfl
    · exact if_pos hs

/-- PUSH on from POLL has the pages with a fault or a stale entry to report, after a drawn holdoff (R354). -/
theorem effFailNotify_from_poll (hp : s.cfg.notify.push = false) (hf : faultPages s ≠ 0) :
    effFailNotify (some (addr, 1, f, h, i)) s = { notifySet addr f h i s true with
      draws := s.draws + 1
      fail.mask := faultPages s
      fail.due := some (s.now + 10000000000 * (Config.draw s.draws % (10 * h.toNat + 1))) } := by
  have h1 : (1 : Byte) ≠ 0 := by decide
  simp only [effFailNotify, if_neg h1, hp, Bool.false_eq_true, if_false]
  exact if_neg hf

end

/-- FAIL.SUMMARY's bytes, port by port. -/
theorem summary_eq (s : State) :
    summary s = summaryPort s 0 ++ summaryPort s 1 ++ summaryPort s 2 ++ summaryPort s 3 := by
  simp only [summary, allPorts, List.flatMap_cons, List.flatMap_nil, List.append_nil, List.append_assoc]

/-- Settles O30. -/
theorem failuresAreReadAndSet : Obligations.FailuresAreReadAndSet := by
  intro q s h
  refine ⟨?_, fun page h15 hp hc => ⟨packBits 32 fun i => mapByte s (256 * page.toNat + i) != 0, packBits_length _ _,
    fun i hi => packBits_bit _ hi, ?_⟩, fun page first count h15 hp hc h1 h128 hr => ?_, fun flags hf => ?_, ?_, ?_,
    fun addr f hh i ha h1 h15 hi => ⟨?_, fun hs => ?_, fun hp hf => ?_⟩⟩
  · exact exec_answers h rfl rfl rfl rfl rfl (congrArg (fun l => some (okAns _ l)) (summary_eq _))
  · have hk := chkFailMap_mask h15 hp hc
    refine exec_answers h rfl rfl rfl hk hk ?_
    simp only [Nat.mul_comm 256]
    rfl
  · have hk := chkFailMap_bytes h15 hp hc h1 h128 hr
    refine exec_answers h rfl rfl rfl hk hk ?_
    simp only [Nat.mul_comm 256]
    rfl
  · have hk := chkConcealCfg_fine hf
    refine exec_answers h rfl rfl rfl hk hk ?_
    exact congrArg (fun b => some (okAns _ [b])) (flagBits_low_pair hf)
  · refine exec_answers h rfl rfl rfl rfl rfl ?_
    exact congrArg (fun n => some (okAns _ [BitVec.ofNat 8 n])) flagBits_pair
  · exact exec_answers h rfl rfl rfl rfl rfl rfl
  · have hk := chkFailNotify_fine (mode := 0) (h := hh) ha (by decide) h1 h15 hi
    exact exec_answers h rfl rfl rfl hk hk rfl
  · have hk := chkFailNotify_fine (mode := 1) (h := hh) ha (by decide) h1 h15 hi
    refine exec_answers h rfl rfl rfl hk hk ?_
    exact (congrArg (fun u => some (ansFailNotify (restartHold u))) (effFailNotify_on addr f hh i _ (by exact hs))).trans rfl
  · have hk := chkFailNotify_fine (mode := 1) (h := hh) ha (by decide) h1 h15 hi
    refine ⟨Config.draw s.draws % (10 * hh.toNat + 1), Nat.le_of_lt_succ (Nat.mod_lt _ (Nat.succ_pos _)),
      exec_answers h rfl rfl rfl hk hk ?_⟩
    exact (congrArg (fun u => some (ansFailNotify (restartHold u)))
      (effFailNotify_from_poll addr f hh i _ (by exact hp) (by exact hf))).trans rfl

/-! ## O31 -/

theorem chkCounterRead_times {first : W16} {count : Byte} (h1 : 1 ≤ count.toNat) (h56 : count.toNat ≤ 56)
    (hr : first.toNat + count.toNat ≤ 4096) : chkCounterRead 1 first count = stOk := by
  rw [chkCounterRead, beq_eq_false_iff_ne.2 (byte_ne_zero_of_pos h1), decide_eq_false (show ¬ count.toNat > 56 by omega),
    decide_eq_false (show ¬ first.toNat + count.toNat > 4096 by omega)]
  rfl

/-- COUNTER.READ's scalar counters (R413). -/
theorem ansCounterRead_scalars (s : State) : ansCounterRead 0 0 0 s = okAns s (leBytes 4 s.cnt.pon ++ leBytes 4 s.cnt.pup
    ++ leBytes 4 (s.cnt.cycles.get 0) ++ leBytes 4 (s.cnt.cycles.get 1) ++ leBytes 4 (s.cnt.cycles.get 2)
    ++ leBytes 4 (s.cnt.cycles.get 3) ++ [BitVec.ofNat 8 ((if s.cnt.coarse then 1 else 0) + (if s.cnt.lost then 2 else 0))]
    ++ leBytes 4 (if s.cnt.coarse then s.cnt.since else 0) ++ leBytes 6 s.cnt.saveWt.toNat ++ [s.cfg.period]) := by
  simp only [ansCounterRead, if_true, flagBits_pair, allPorts, List.flatMap_cons, List.flatMap_nil, List.append_nil,
    List.append_assoc]

/-- The user job of a save. -/
abbrev counterSaveJob (s : State) : Job :=
  { kind := .counterSave, user := true, op := 0x64, ops := saveOps (altBank s), tok := some (tokOf s), failed := false }

/-- A configuration job tends no counter bank. -/
theorem bankTended_persist (s : State) : bankTended (persist s) = bankTended s := by
  have h1 : (JobKind.config == JobKind.bankErase) = false := rfl
  have h2 : (JobKind.config == JobKind.periodicSave || JobKind.config == JobKind.counterSave) = false := rfl
  simp only [bankTended, saveBegun, persist, List.any_append, List.any_cons, List.any_nil, h1, h2, Bool.false_and, Bool.or_false]
  rfl

/-- The erase of a bank that is not tended does not change which bank is the alternate one. -/
theorem altBank_readyBank (s : State) : altBank (readyBank s) = altBank s := by
  unfold readyBank
  split
  · rfl
  · rfl

/-- The state with COUNTER.SAVE's period stored, where its b1 gives one. -/
def periodSet (flags period : Byte) (s : State) : State :=
  if flags.getLsbD 1 then persist { s with cfg.period := period } else s

/-- COUNTER.SAVE's save, behind the erase of a bank that is not tended (R414). -/
theorem effCounterSave_saves {flags : Byte} (h : flags.getLsbD 0 = true) (period : Byte) (b : Bd) (s : State) :
    effCounterSave flags period b s =
      addJob { kind := .counterSave, user := true, op := 0x64, ops := saveOps (altBank (periodSet flags period s)),
               tok := some b.tok, failed := false } (readyBank (periodSet flags period s)) :=
  (if_pos h).trans (by rw [altBank_readyBank]; rfl)

theorem chkCounterSave_fine {flags period : Byte} {s : State} (hf : flags.toNat < 4)
    (hp : period = 0 ∨ flags.getLsbD 1 = true) (hj : flags.getLsbD 0 = false ∨ NoUserJob s) :
    chkCounterSave flags period s = stOk := by
  have h1 : (period != 0 && !flags.getLsbD 1) = false := by
    rcases hp with rfl | hp
    · rfl
    · rw [hp, Bool.not_true, Bool.and_false]
  have h2 : (flags.getLsbD 0 && userJob s) = false := by
    rcases hj with hj | hj
    · rw [hj, Bool.false_and]
    · rw [userJob_none hj, Bool.and_false]
  rw [chkCounterSave, highZero, decide_eq_true (show flags.toNat < 2 ^ 2 by omega), h1, h2]
  rfl

/-- A COUNTER.SAVE that saves waits for its job; what its period's copy leaves is `u` beside its clause. -/
theorem exec_counterSave {q : Req} {flags period : Byte} {s : State} (h : Ready q s) (hk : chkCounterSave flags period s = stOk)
    (hf : flags.getLsbD 0 = true) (u : State)
    (hu : restartHold (periodSet flags period (waits q 0x64 s (numbered s))) = waits q 0x64 s u)
    (ht : bankTended (periodSet flags period (waits q 0x64 s (numbered s))) = bankTended s)
    (ha : altBank (periodSet flags period (waits q 0x64 s (numbered s))) = altBank s) :
    exec (.counterSave q flags period) s =
      .next (waits q 0x64 s (addJob (counterSaveJob s) (if bankTended s then u else addJob (bankEraseJob (altBank s)) u))) := by
  refine exec_waits h rfl rfl rfl hk hk (fun _ _ => if_pos hf) ?_
  rw [bdNow_of_ready h]
  refine (congrArg restartHold (effCounterSave_saves hf period _ _)).trans ?_
  rw [readyBank, ht, ha]
  cases bankTended s with
  | true => exact congrArg (addJob (counterSaveJob s)) hu
  | false => exact congrArg (fun x => addJob (counterSaveJob s) (addJob (bankEraseJob (altBank s)) x)) hu

/-- The six link counters and three of each port, in the order of Tables 13-3 and 15-6. -/
theorem ansLinkStats_eq (mode : Byte) (s : State) :
    let port := fun p : Port => leBytes 4 (s.ports.get p).tol ++ leBytes 4 (s.ports.get p).parity ++ leBytes 4 (s.ports.get p).skip
    ansLinkStats mode s = (if mode = 1 then clearStats s else s, stOk,
      leBytes 4 s.span.crc ++ leBytes 4 s.span.partials ++ leBytes 4 s.span.overrun ++ leBytes 4 s.span.retries
        ++ leBytes 4 s.span.sentAfterCancel ++ leBytes 4 s.span.contests ++ port 0 ++ port 1 ++ port 2 ++ port 3) := by
  simp only [ansLinkStats, allPorts, List.flatMap_cons, List.flatMap_nil, List.append_nil, List.append_assoc]

theorem upPort_get_self (p : Port) (f : PortState → PortState) (s : State) : (upPort p f s).ports.get p = f (s.ports.get p) :=
  setPort_get_self

theorem upPort_get_of_ne {p r : Port} (f : PortState → PortState) (s : State) (h : r ≠ p) :
    (upPort p f s).ports.get r = s.ports.get r := setPort_get_of_ne h

/-- Each port of a list once. -/
theorem foldl_upPort_get {l : List Port} (hl : l.Nodup) (f : Port → PortState → PortState) (s : State) (r : Port) :
    (l.foldl (fun s p => upPort p (f p) s) s).ports.get r = if r ∈ l then f r (s.ports.get r) else s.ports.get r := by
  induction l generalizing s with
  | nil => simp
  | cons p l ih =>
    obtain ⟨hp, hl⟩ := List.nodup_cons.1 hl
    rw [List.foldl_cons, ih hl]
    by_cases hr : r = p
    · subst hr
      simp [hp, upPort_get_self]
    · simp [hr, upPort_get_of_ne (f p) s hr]

/-- Every port updated: each by its own function. -/
theorem upPorts_get (f : Port → PortState → PortState) (s : State) (r : Port) :
    (upPorts f s).ports.get r = f r (s.ports.get r) := by
  rw [upPorts, foldl_upPort_get (by decide), if_pos (mem_allPorts r)]

/-- Settles O31. -/
theorem countersAreReadAndSaved : Obligations.CountersAreReadAndSaved := by
  intro q s h
  refine ⟨fun first count h1 h56 hr => ?_, ?_, fun period => ?_, fun hj => ⟨?_, fun period => ?_⟩, ?_,
    clearStats (counted s), rfl, ?_, rfl, rfl, rfl, rfl, rfl, rfl, rfl, fun p => ?_⟩
  · have hk := chkCounterRead_times h1 h56 hr
    exact exec_answers h rfl rfl rfl hk hk rfl
  · exact exec_answers h rfl rfl rfl rfl rfl (congrArg some (ansCounterRead_scalars _))
  · have hk := chkCounterSave_fine (s := s) (flags := 2) (period := period) (by decide) (.inr (by decide)) (.inl (by decide))
    exact exec_answers h rfl rfl rfl hk hk rfl
  · have hk := chkCounterSave_fine (flags := 1) (period := 0) (by decide) (.inl rfl) (.inr hj)
    exact exec_counterSave h hk (by decide) (counted s) rfl rfl rfl
  · have hk := chkCounterSave_fine (flags := 3) (period := period) (by decide) (.inr (by decide)) (.inr hj)
    exact exec_counterSave h hk (by decide) (persist { counted s with cfg.period := period }) rfl
      ((bankTended_persist _).trans rfl) rfl
  · exact exec_answers h rfl rfl rfl rfl rfl (congrArg some (ansLinkStats_eq 0 _))
  · exact exec_answers h rfl rfl rfl rfl rfl (congrArg some (ansLinkStats_eq 1 _))
  · exact upPorts_get _ _ p

end Sys2Proof.Machine
end

section
/-!
PROOFS. The raw store's verbs (12, 16, R420 to R422): reads, and the user jobs that NV.WRITE and NV.ERASE begin.
-/
namespace Sys2Proof.Machine

open Sys2Proof.Claims

-- Proofs in parallel hold one thread each, and a text this long would have more of them than the check has room for.
set_option Elab.async false

/-! ## What a raw write does to a patch slot (R422) -/

/-- The firmware state after a raw write or erase at address `a`: a session of its slot ends, and the slot's mark of a partial
image follows the store. -/
def touchedFw (a : Nat) (s : State) : Firmware :=
  let fw := match s.fw.session with
    | some f => if f.slot = slotAt a then { s.fw with session := none } else s.fw
    | none => s.fw
  let b := BitVec.ofNat 2 (slotAt a)
  { fw with partials := if slotBlank s.nv.mem (slotAt a) then fw.partials &&& ~~~ b else fw.partials ||| b }

/-- Outside the patch slots a raw write touches nothing; inside, the firmware state and the security configuration. -/
theorem touchSlot_eq (a : Nat) (s : State) :
    touchSlot a s = if slotAt a = 0 then s else commitSec (.touched (slotAt a)) { s with fw := touchedFw a s } := by
  by_cases ha : slotAt a = 0
  · simp only [touchSlot, ha, if_true]
  · simp only [touchSlot, touchedFw, ha, if_false]
    cases s.fw.session with
    | none => rfl
    | some f =>
      dsimp only
      split <;> rfl

theorem commitSec_waits {ch : SecChange} {q : Req} {op : Byte} {s t : State} :
    commitSec ch (waits q op s t) = waits q op s (commitSec ch t) := by
  show (if applySec ch t.sec = t.sec then _ else _) = waits q op s (if applySec ch t.sec = t.sec then _ else _)
  split <;> rfl

theorem commitSec_restartHold {ch : SecChange} {t : State} : commitSec ch (restartHold t) = restartHold (commitSec ch t) := by
  show (if applySec ch t.sec = t.sec then _ else _) = restartHold (if applySec ch t.sec = t.sec then _ else _)
  split <;> rfl

theorem touchSlot_waits {a : Nat} {q : Req} {op : Byte} {s t : State} :
    touchSlot a (waits q op s t) = waits q op s (touchSlot a t) := by
  rw [touchSlot_eq, touchSlot_eq]
  split
  · rfl
  · exact commitSec_waits (t := { t with fw := touchedFw a t })

theorem touchSlot_restartHold {a : Nat} {t : State} : touchSlot a (restartHold t) = restartHold (touchSlot a t) := by
  rw [touchSlot_eq, touchSlot_eq]
  split
  · rfl
  · exact commitSec_restartHold (t := { t with fw := touchedFw a t })

/-- A job that is added, and the slot it touches, beside an opened clause. -/
theorem restartHold_addJob_touchSlot {a : Nat} {j : Job} {q : Req} {op : Byte} {s : State} :
    restartHold (addJob j (touchSlot a (waits q op s (numbered s)))) = waits q op s (addJob j (touchSlot a (counted s))) := by
  have h : restartHold (touchSlot a (waits q op s (numbered s))) = waits q op s (touchSlot a (counted s)) := by
    rw [← touchSlot_restartHold]
    exact touchSlot_waits (t := counted s)
  exact congrArg (addJob j) h

/-! ## O32 -/

theorem nvKb_le (m : Member) : m.nvKb ≤ 1024 := by cases m <;> decide

/-- The store ends with a sector. -/
theorem nvKb_mod (m : Member) : m.nvKb % 4 = 0 := by cases m <;> decide

theorem chkNvRead_fine {addr : W32} {len : Byte} {s : State} (h1 : 1 ≤ len.toNat) (h2 : len.toNat ≤ 224)
    (h : addr.toNat + len.toNat ≤ 1024 * s.node.member.nvKb) : chkNvRead addr len s = stOk := by
  have hk := nvKb_le s.node.member
  have hb : Config.nvBytes = 1048576 := rfl
  rw [chkNvRead, beq_eq_false_iff_ne.2 (byte_ne_zero_of_pos h1), decide_eq_false (show ¬ len.toNat > 224 by omega),
    decide_eq_false (show ¬ addr.toNat + len.toNat > Config.nvBytes by omega),
    decide_eq_false (show ¬ addr.toNat + len.toNat > 1024 * s.node.member.nvKb by omega)]
  rfl

/-- With protection 0 no quarter is protected (R317). -/
theorem protectedQ_zero {s : State} (h : s.sec.prot = 0) (n : Nat) : protectedQ s n = false := if_pos h

/-- The lock guards the upper half of the store. -/
theorem lockStatus_upperHalf {a n : Nat} {q : Req} {s : State} (ha : a / 4096 = n) (hu : 128 ≤ n → Unlocked q s) :
    lockStatus (upperHalf a) q s = stOk := by
  by_cases hn : 128 ≤ n
  · exact lockStatus_unlocked (hu hn)
  · have hf : upperHalf a = false := decide_eq_false (by omega)
    rw [hf]
    rfl

theorem chkNvErase_fine {sector : Byte} {s : State} (hr : rawSector s sector.toNat = true)
    (hk : 4 * sector.toNat < s.node.member.nvKb) (hp : s.sec.prot = 0) (hj : NoUserJob s) : chkNvErase sector stOk s = stOk := by
  rw [chkNvErase, hr, protectedQ_zero hp, userJob_none hj,
    decide_eq_false (show ¬ 4096 * sector.toNat ≥ 1024 * s.node.member.nvKb by omega)]
  rfl

theorem chkNvWrite_fine {addr : W32} {n : Nat} {s : State} (ha : addr.toNat / 4096 = n) (hr : rawSector s n = true)
    (hk : 4 * n < s.node.member.nvKb) (hp : s.sec.prot = 0) (hj : NoUserJob s) : chkNvWrite addr stOk s = stOk := by
  have hr' : rawSector s (addr.toNat / Config.sectorBytes) = true := by
    rw [show Config.sectorBytes = 4096 from rfl, ha]
    exact hr
  have hm := nvKb_mod s.node.member
  simp only [chkNvWrite]
  rw [hr', protectedQ_zero hp, userJob_none hj, decide_eq_false (show ¬ addr.toNat ≥ 1024 * s.node.member.nvKb by omega)]
  rfl

/-- A length that a verb's bytes may have. -/
theorem unitsOk_bytes {n : Nat} (h1 : 1 ≤ n) (h2 : n ≤ 224) : unitsOk 1 1 224 n = true := by
  simp [unitsOk, h1, h2, Nat.mod_one]

/-- NV.STATUS's counts stop at the largest value of their fields. -/
theorem ansNvStatus_eq (s : State) : ansNvStatus s = okAns s ([userOp s]
    ++ leBytes 2 (min 65535 ((s.nv.jobs.map fun j => j.ops.length).sum))
    ++ [BitVec.ofNat 8 s.sec.prot.toNat, bit (liveJ s.nv.mem)] ++ leBytes 4 s.nv.jseq
    ++ [match s.cfg.deckLive with
        | none => 0xFF
        | some second => bit second, BitVec.ofNat 8 (min 255 s.nv.repaired.length)] ++ leBytes 4 s.nv.cfgGen) := by
  rw [Nat.min_comm 65535, Nat.min_comm 255]
  rfl

/-- Settles O32. -/
theorem storeIsReadAndWritten : Obligations.StoreIsReadAndWritten := by
  intro q s h
  refine ⟨fun addr len h1 h2 ha => ?_, ?_, fun sector hr hk hu hp hj => ⟨?_, fun addr data ha h1 h2 => ?_⟩⟩
  · have hk := chkNvRead_fine h1 h2 ha
    exact exec_answers h rfl rfl rfl hk hk rfl
  · exact exec_answers h rfl rfl rfl rfl rfl (congrArg some (ansNvStatus_eq _))
  · have hl : lockStatus (upperHalf (4096 * sector.toNat)) q s = stOk := lockStatus_upperHalf (by omega) hu
    have hc := (congrArg (chkNvErase sector · s) hl).trans (chkNvErase_fine hr hk hp hj)
    refine exec_waits h rfl rfl rfl hc hc (fun _ _ => rfl) ?_
    rw [bdNow_of_ready h]
    exact restartHold_addJob_touchSlot
  · have hl : lockStatus (upperHalf addr.toNat) q s = stOk := lockStatus_upperHalf ha hu
    have hc := (congrArg (chkNvWrite addr · s) hl).trans (chkNvWrite_fine ha hr hk hp hj)
    refine exec_waits h rfl rfl rfl hc hc (fun _ _ => rfl) ?_ (unitsOk_bytes h1 h2)
    rw [bdNow_of_ready h]
    exact restartHold_addJob_touchSlot

end Sys2Proof.Machine
end

section
/-!
PROOFS. Security, power and pins (16, 17): SEC.LOCK's answer, POWER.STATUS, the pins, the reserve and the harvester.
-/
namespace Sys2Proof.Machine

open Sys2Proof.Claims

-- Proofs in parallel hold one thread each, and a text this long would have more of them than the check has room for.
set_option Elab.async false

/-! ## O33 -/

/-- A node with a job of the store that holds the place of the next clause's result. -/
def claimedNode : State :=
  { boundaryNode Tests.s0.ports with
    nv.jobs := [{ kind := .config, user := false, op := 0, ops := [], tok := some { id := 0, idx := 0 }, failed := false }] }

theorem claimedNode_ready : Ready silentReq claimedNode := ⟨rfl, by decide, rfl, nofun⟩

/-- The number of clauses that wait in the next state. -/
def waitingCount (o : Host.Outcome State Fault Refusal) : Nat :=
  match o with
  | .next t => t.cl.waiting.length
  | _ => 0

/-- A clause that asks for no reply leaves no clause waiting. -/
theorem replied_silent_waiting (op st : Byte) (r : List Byte) (s t : State) :
    (replied silentReq op st r s t).cl.waiting = t.cl.waiting := by
  have hb : replyBarred silentReq false t = true := replyBarred_true (.inl rfl)
  rw [replied, replyOr, if_pos hb, replyGone_cl]

/-- Refutes O33: nothing said of the state keeps the places that jobs answer to behind the next clause's number, and a SEC.LOCK
that only reads waits for a job with its own place. -/
theorem not_securityIsSet : ¬ Obligations.SecurityIsSet := by
  intro h
  obtain ⟨hread, -⟩ := h.1 silentReq claimedNode claimedNode_ready (.inr rfl)
  have hwait : waitingCount (exec (.secLock silentReq 0xFF 0) claimedNode) = 1 := by decide
  rw [hread, waitingCount, replied_silent_waiting] at hwait
  exact absurd hwait (by decide)

/-! ## O34 -/

/-- The harvester's voltage shows while the harvester runs. -/
theorem ansPowerStatus_eq (s : State) : ansPowerStatus s = ({ s with ka.hardSince := false, ka.darkSince := false }, stOk,
    leBytes 2 s.pw.vin ++ leBytes 2 s.pw.vio ++ leBytes 2 (if s.ka.present then s.pw.vres else 0) ++ leBytes 2 s.pw.vka
      ++ leBytes 2 (if s.ka.hst = .stopped then 0 else s.ka.voc) ++ [pflags s, platch s, s.ka.chg.code,
        BitVec.ofNat 8 s.ka.source] ++ leSigned 2 s.pw.tAvg ++ [wtq s]) := by
  have hv : (if harvesting s then s.ka.voc else 0) = if s.ka.hst = .stopped then 0 else s.ka.voc := by
    unfold harvesting
    cases s.ka.hst <;> rfl
  rw [ansPowerStatus, hv, vresShown]

theorem leBytes_length (n v : Nat) : (leBytes n v).length = n := by
  induction n generalizing v with
  | zero => rfl
  | succ n ih => rw [leBytes, List.length_cons, ih]

/-- A lone flag as a byte. -/
theorem flags_bit (b : Bool) : BitVec.ofNat 8 (flagBits [b, false]) = bit b := by cases b <;> rfl

theorem gpOutput_iff {m : Byte} : gpOutput m = true ↔ m = 3 ∨ m = 4 := by
  rw [gpOutput, Bool.or_eq_true, beq_iff_eq, beq_iff_eq]

/-- A pin outside external-transceiver mode, GP0 being that mode's own. -/
theorem pin_free_iff {p : Port} {s : State} : (p == 0 && s.pw.extOn) = false ↔ (s.pw.extOn = true → p ≠ 0) := by
  rw [Bool.and_eq_false_iff, beq_eq_false_iff_ne, Bool.eq_false_iff]
  tauto

theorem chkGpioRw_fine {wmask wlevel : Byte} {s : State} (hm : wmask.toNat < 16) (hl : wlevel.toNat < 16)
    (h : ∀ p : Port, wmask.getLsbD p.val = true → ((s.cfg.gpio.get p).mode = 3 ∨ (s.cfg.gpio.get p).mode = 4)
      ∧ (s.pw.extOn = true → p ≠ 0)) : chkGpioRw wmask wlevel s = stOk := by
  have ha : (allPorts.any fun i => wmask.getLsbD i.val && !gpDriven s i) = false :=
    List.any_eq_false.2 fun i _ => by
      cases hw : wmask.getLsbD i.val with
      | false => simp
      | true =>
        obtain ⟨ho, hf⟩ := h i hw
        simp [gpDriven, gpOutput_iff.2 ho, pin_free_iff.2 hf]
  rw [chkGpioRw, ha, highZero, highZero, decide_eq_true (show wmask.toNat < 2 ^ 4 by omega),
    decide_eq_true (show wlevel.toNat < 2 ^ 4 by omega)]
  rfl

/-- The pins after a masked write. -/
theorem masked_bit (o : BitVec 4) (wmask wlevel : Byte) (p : Port) :
    let m : BitVec 4 := BitVec.ofNat 4 wmask.toNat
    ((o &&& ~~~ m) ||| (BitVec.ofNat 4 wlevel.toNat &&& m)).getLsbD p.val
      = if wmask.getLsbD p.val then wlevel.getLsbD p.val else o.getLsbD p.val := by
  have hp : p.val < 4 := p.isLt
  have hw : ∀ b : Byte, (BitVec.ofNat 4 b.toNat).getLsbD p.val = b.getLsbD p.val := fun b => by
    rw [BitVec.getLsbD_ofNat, decide_eq_true hp, Bool.true_and]
    rfl
  simp only [BitVec.getLsbD_or, BitVec.getLsbD_and, BitVec.getLsbD_not, hw, hp, decide_true, Bool.true_and]
  cases wmask.getLsbD p.val <;> simp

/-- One pin's output level replaced. -/
theorem pin_bit (o : BitVec 4) (p k : Port) (up : Prop) [Decidable up] :
    let b : BitVec 4 := BitVec.ofNat 4 (2 ^ p.val)
    (if up then o ||| b else o &&& ~~~ b).getLsbD k.val = if k = p then decide up else o.getLsbD k.val := by
  have hb : (BitVec.ofNat 4 (2 ^ p.val)).getLsbD k.val = decide (k = p) := by
    revert p k
    decide
  have hk : k.val < 4 := k.isLt
  by_cases hu : up <;> by_cases hkp : k = p <;> simp [hu, hkp] at hb ⊢ <;> simp [hb]

/-- The level that GPIO.RW answers for a push-pull pin is the one it drives. -/
theorem pinLevel_pushPull {s : State} {p : Port} (outside : BitVec 4) (hm : (s.cfg.gpio.get p).mode = 3)
    (hf : s.pw.extOn = true → p ≠ 0) : pinLevel s outside p = s.pw.gpOut.getLsbD p.val := by
  have hd : gpDriven s p = true := by simp [gpDriven, hm, gpOutput, pin_free_iff.2 hf]
  rw [pinLevel, if_neg fun h => hf h.2 h.1, if_pos hd, if_pos hm]

/-- Bit `p` of a byte of four flags. -/
theorem flags_port_bit (f : Port → Bool) (p : Port) :
    (BitVec.ofNat 8 (flagBits (allPorts.map f)) : Byte).getLsbD p.val = f p := by
  have hp : p.val < 8 := by omega
  rw [BitVec.getLsbD_ofNat, decide_eq_true hp, Bool.true_and, testBit_flagBits]
  revert p
  exact fun | 0, _ => rfl | 1, _ => rfl | 2, _ => rfl | 3, _ => rfl

theorem portField_zero (p : Port) : ((BitVec.ofNat 8 p.val : Byte) == 0) = (p == 0) := by
  revert p
  decide

theorem chkGpioCfg_read {p : Port} {s : State} (hf : s.pw.extOn = true → p ≠ 0) :
    chkGpioCfg (BitVec.ofNat 8 p.val) 0xFF 0 s = stOk := by
  have h0 : ((BitVec.ofNat 8 p.val : Byte) == 0 && s.pw.extOn) = false := by
    rw [portField_zero]
    exact pin_free_iff.2 hf
  rw [chkGpioCfg, h0, toNat_portField, decide_eq_false (show ¬ p.val > 3 by omega)]
  rfl

theorem chkGpioCfg_fine {p : Port} {mode init : Byte} {s : State} (hm : mode.toNat ≤ 4 ∨ mode = 5 ∧ p = 1) (hi : init.toNat ≤ 1)
    (ho : init = 1 → mode = 3 ∨ mode = 4) (hf : s.pw.extOn = true → p ≠ 0) :
    chkGpioCfg (BitVec.ofNat 8 p.val) mode init s = stOk := by
  have h0 : ((BitVec.ofNat 8 p.val : Byte) == 0 && s.pw.extOn) = false := by
    rw [portField_zero]
    exact pin_free_iff.2 hf
  have h5 : (mode == 5 && (BitVec.ofNat 8 p.val : Byte) != 1) = false := by
    rcases hm with hm | ⟨-, rfl⟩
    · rw [beq_eq_false_iff_ne.2 (by rintro rfl; exact absurd hm (by decide)), Bool.false_and]
    · exact Bool.and_false _
  have h6 : ¬ mode.toNat > 5 := by
    rcases hm with hm | ⟨rfl, -⟩
    · omega
    · decide
  have hio : (init != 0 && !gpOutput mode) = false := by
    by_cases h : init = 1
    · rw [gpOutput_iff.2 (ho h), Bool.not_true, Bool.and_false]
    · have : init = 0 := BitVec.eq_of_toNat_eq (by
        have := fun e => h (BitVec.eq_of_toNat_eq e)
        simp at this ⊢
        omega)
      rw [this]
      rfl
  rw [chkGpioCfg, h0, h5, hio, toNat_portField, decide_eq_false (show ¬ p.val > 3 by omega), decide_eq_false h6,
    decide_eq_false (show ¬ init.toNat > 1 by omega)]
  rfl

/-- The state with one pin's mode and level set (R428). -/
abbrev pinSet (p : Port) (mode init : Byte) (s : State) : State :=
  let b : BitVec 4 := BitVec.ofNat 4 (2 ^ p.val)
  persist { s with
    cfg.gpio := s.cfg.gpio.set p.val { mode := mode, init := init }
    pw.gpOut := if init = 1 then s.pw.gpOut ||| b else s.pw.gpOut &&& ~~~ b }

/-- The pin that was set reads back as it was set. -/
theorem ansGpioCfg_sets {p : Port} {mode : Byte} (hm : mode ≠ 0xFF) (init : Byte) (s : State) :
    ansGpioCfg (BitVec.ofNat 8 p.val) (restartHold (effGpioCfg (BitVec.ofNat 8 p.val) mode init s))
      = okAns (restartHold (pinSet p mode init s)) [BitVec.ofNat 8 p.val, mode, init] := by
  have he : effGpioCfg (BitVec.ofNat 8 p.val) mode init s = pinSet p mode init s :=
    (if_neg hm).trans (congrArg (fun r => pinSet r mode init s) (portOf_ofNat p))
  rw [he, ansGpioCfg, portOf_ofNat]
  exact congrArg (fun g : GpioCfg => okAns _ [BitVec.ofNat 8 p.val, g.mode, g.init])
    ((vector_get_set _ _ _ _).trans (if_pos rfl))

/-- Settles O34. -/
theorem powerAndPinsAnswer : Obligations.PowerAndPinsAnswer := by
  intro q s h
  refine ⟨?_, ⟨_, ?_, ?_, ?_, exec_answers h rfl rfl rfl rfl rfl rfl⟩, fun wmask wlevel hm hl hp => ?_, fun p hf => ?_,
    fun p mode init hm hi ho hf => ?_, ?_, ?_, ?_⟩
  · exact exec_answers h rfl rfl rfl rfl rfl (congrArg some (ansPowerStatus_eq _))
  · simp only [List.length_append, leSigned, adcBytes, leBytes_length]
  · rfl
  · rfl
  · have hk := chkGpioRw_fine hm hl hp
    refine ⟨_, _, ?_, exec_answers h rfl rfl rfl hk hk rfl, fun p => ⟨masked_bit _ _ _ p, fun h3 hf => ?_⟩⟩
    · rfl
    · exact (flags_port_bit _ p).trans (pinLevel_pushPull _ h3 hf)
  · have hk := chkGpioCfg_read hf
    refine exec_answers h rfl rfl rfl hk hk ?_
    exact congrArg (fun r => some (okAns _ [BitVec.ofNat 8 p.val, (s.cfg.gpio.get r).mode, (s.cfg.gpio.get r).init]))
      (portOf_ofNat p)
  · have hk := chkGpioCfg_fine hm hi ho hf
    have hne : mode ≠ 0xFF := by
      rintro rfl
      rcases hm with hm | ⟨hm, -⟩ <;> exact absurd hm (by decide)
    refine ⟨s.cfg.gpio.set p.val { mode := mode, init := init },
      if init = 1 then s.pw.gpOut ||| BitVec.ofNat 4 (2 ^ p.val) else s.pw.gpOut &&& ~~~ BitVec.ofNat 4 (2 ^ p.val),
      exec_answers h rfl rfl rfl hk hk ?_, fun k => ⟨vector_get_set _ _ _ _, (pin_bit _ p k _).trans ?_⟩⟩
    · exact (congrArg some (ansGpioCfg_sets hne init _)).trans rfl
    · exact if_congr Iff.rfl rfl rfl
  · refine exec_answers h rfl rfl rfl rfl rfl ?_
    exact congrArg (fun n => some (okAns _ [BitVec.ofNat 8 n])) flagBits_pair
  · exact exec_answers h rfl rfl rfl rfl rfl rfl
  · refine exec_answers h rfl rfl rfl rfl rfl ?_
    exact congrArg (fun b => some (okAns _ [b])) (flags_bit _)

/-! ## O35 -/

theorem chkReserveCfg_fine {present vchg ichg darkcut : Byte} (chold : W16) (h1 : present.toNat ≤ 2) (h2 : vchg.toNat ≤ 1)
    (h3 : ichg.toNat ≤ 3) (h4 : darkcut.toNat ≤ 10) : chkReserveCfg 1 present vchg ichg darkcut chold stOk = stOk := by
  rw [chkReserveCfg, decide_eq_false (show ¬ darkcut.toNat > 10 by omega), decide_eq_false (show ¬ vchg.toNat > 1 by omega),
    decide_eq_false (show ¬ ichg.toNat > 3 by omega), decide_eq_false (show ¬ present.toNat > 2 by omega)]
  rfl

theorem chkHarvestCfg_fine {enable k period : Byte} {s : State} (h1 : enable.toNat ≤ 1) (h2 : k.toNat ≤ 4)
    (h3 : period.toNat ≤ 2) (hm : s.node.member.harvester = true) : chkHarvestCfg 1 enable k period stOk s = stOk := by
  rw [chkHarvestCfg, decide_eq_false (show ¬ enable.toNat > 1 by omega), decide_eq_false (show ¬ k.toNat > 4 by omega),
    decide_eq_false (show ¬ period.toNat > 2 by omega), hm]
  rfl

/-- A harvester's setting is read where the member has one. -/
theorem chkHarvestCfg_read {s : State} :
    chkHarvestCfg 0 0 0 0 stOk s = if s.node.member.harvester then stOk else stNotSupported := by
  rw [chkHarvestCfg]
  cases s.node.member.harvester <;> rfl

/-- RESERVE.CFG's setting stored and in force (R425). -/
theorem effReserveCfg_stores (present vchg ichg darkcut : Byte) (chold : W16) (s : State) :
    let r : ReserveCfg := { present := present, vchg := vchg, ichg := ichg, darkcut := darkcut, chold := chold }
    let here := if present = 1 then true else if present = 2 then false else s.ka.present
    effReserveCfg 1 present vchg ichg darkcut chold s = persist { s with
      cfg.reserve := r
      ka.reserve := r
      ka.present := here
      ka.chg := if here = false ∨ ichg = 3 then .off
        else if charging s ∧ (if vchg = 0 then 4100 else 4200) < s.pw.vres then .terminated else s.ka.chg } := by
  intro r here
  have hc : (if !here || ichg == 3 then Chg.off
      else if charging s && decide (s.pw.vres > vchgMv r) then .terminated else s.ka.chg)
      = if here = false ∨ ichg = 3 then .off
        else if charging s ∧ (if vchg = 0 then 4100 else 4200) < s.pw.vres then .terminated else s.ka.chg := by
    simp only [Bool.or_eq_true, Bool.not_eq_true', beq_iff_eq, Bool.and_eq_true, decide_eq_true_eq]
    rfl
  exact congrArg (fun c => persist { s with cfg.reserve := r, ka.reserve := r, ka.present := here, ka.chg := c }) hc

/-- Settles O35. -/
theorem reserveAndHarvesterAreSet : Obligations.ReserveAndHarvesterAreSet := by
  intro q s h hu
  have hl : lockStatus true q s = stOk := lockStatus_unlocked hu
  refine ⟨?_, fun hm => ?_, fun hm => ?_, fun present vchg ichg darkcut chold h1 h2 h3 h4 => ?_,
    fun enable k period h1 h2 h3 hm => ?_⟩
  · have hk := congrArg (chkReserveCfg 0 0 0 0 0 0) hl
    exact exec_answers h rfl rfl rfl hk hk rfl
  · have hk := (congrArg (chkHarvestCfg 0 0 0 0 · s) hl).trans (chkHarvestCfg_read.trans (if_pos hm))
    exact exec_answers h rfl rfl rfl hk hk rfl
  · have hk := (congrArg (chkHarvestCfg 0 0 0 0 · s) hl).trans (chkHarvestCfg_read.trans (if_neg (by rw [hm]; decide)))
    exact exec_rejects_now h rfl rfl rfl hk
  · have hk := (congrArg (chkReserveCfg 1 present vchg ichg darkcut chold) hl).trans (chkReserveCfg_fine chold h1 h2 h3 h4)
    refine exec_answers h rfl rfl rfl hk hk ?_
    exact (congrArg (fun u => some (ansReserveCfg (restartHold u)))
      (effReserveCfg_stores present vchg ichg darkcut chold _)).trans rfl
  · have hk := (congrArg (chkHarvestCfg 1 enable k period · s) hl).trans (chkHarvestCfg_fine h1 h2 h3 hm)
    exact exec_answers h rfl rfl rfl hk hk rfl

end Sys2Proof.Machine
end

section
/-!
PROOFS. Firmware verbs (16, 17, R431 to R434): a session's begin, its chunks, its end, and the activation of a slot.
-/
namespace Sys2Proof.Machine

open Sys2Proof.Claims

-- Proofs in parallel hold one thread each, and a text this long would have more of them than the check has room for.
set_option Elab.async false

/-! ## FW.INFO -/

/-- FW.INFO's fields, slot by slot (Table 16-4). -/
theorem ansFwInfo_eq (s : State) :
    let slot := fun k => [slotState s k] ++ slotRelease s k ++ leBytes 4 (slotSizeShown s k)
    ansFwInfo s = okAns s ([BitVec.ofNat 8 s.fw.run, 3, 2] ++ slot 1 ++ slot 2
      ++ leBytes 4 (match s.fw.session with
          | some f => f.held
          | none => 0)) := by
  simp only [ansFwInfo, List.flatMap_cons, List.flatMap_nil, List.append_nil, List.append_assoc, List.cons_append,
    List.nil_append]
  rfl

/-! ## FW.BEGIN -/

theorem chkFwBegin_fine {size : W32} {s : State} (h1 : 1 ≤ size.toNat) (h2 : size.toNat ≤ 114688) (ht : s.fw.trial = false)
    (hj : NoUserJob s) : chkFwBegin size stOk s = stOk := by
  have hz : (size == 0) = false := beq_eq_false_iff_ne.2 (by rintro rfl; exact absurd h1 (by decide))
  rw [chkFwBegin, hz, decide_eq_false (show ¬ size.toNat > 114688 by omega), ht, userJob_none hj]
  rfl

/-- The job that erases the target slot's sectors. -/
def slotEraseJob (size : W32) (b : Bd) (s : State) : Job :=
  { kind := .fwErase, user := true, op := 0x91,
    ops := (List.range ((size.toNat + 4095) / 4096)).flatMap fun i => eraseOps (slotBase (targetSlot s) / 4096 + i),
    tok := some b.tok, failed := false }

/-- The firmware state with a session just opened in the target slot (R431). -/
def begunFw (size : W32) (b : Bd) (s : State) : Firmware :=
  let fw := { s.fw with
    session := some { slot := targetSlot s, owner := owner b.q, size := size.toNat, held := 0, buf := [], lastAt := s.now }
    partials := s.fw.partials ||| BitVec.ofNat 2 (targetSlot s) }
  if targetSlot s = 1 then { fw with sizeA := size.toNat } else { fw with sizeB := size.toNat }

theorem effFwBegin_eq (size : W32) (b : Bd) (s : State) : effFwBegin size b s =
    addJob (slotEraseJob size b s) (commitSec (.begun (targetSlot s)) { s with fw := begunFw size b s }) := by
  simp only [effFwBegin, setSlotSize, begunFw, slotEraseJob]
  split <;> rfl

theorem effFwBegin_waits {size : W32} {b : Bd} {q : Req} {op : Byte} {s t : State} :
    effFwBegin size b (waits q op s t) = waits q op s (effFwBegin size b t) := by
  rw [effFwBegin_eq, effFwBegin_eq]
  exact congrArg (addJob (slotEraseJob size b t)) (commitSec_waits (t := { t with fw := begunFw size b t }))

theorem effFwBegin_restartHold {size : W32} {b : Bd} {t : State} :
    effFwBegin size b (restartHold t) = restartHold (effFwBegin size b t) := by
  rw [effFwBegin_eq, effFwBegin_eq]
  exact congrArg (addJob (slotEraseJob size b t)) (commitSec_restartHold (t := { t with fw := begunFw size b t }))

/-- What a commit leaves, changed or not. -/
theorem commitSec_sec (ch : SecChange) (s : State) : (commitSec ch s).sec = applySec ch s.sec := by
  unfold commitSec
  dsimp only
  split
  · exact Eq.symm ‹_›
  · rfl

theorem commitSec_fw (ch : SecChange) (s : State) : (commitSec ch s).fw = s.fw := by
  unfold commitSec
  dsimp only
  split <;> rfl

theorem commitSec_mem (ch : SecChange) (s : State) : (commitSec ch s).nv.mem = s.nv.mem := by
  unfold commitSec
  dsimp only
  split <;> rfl

theorem commitSec_span (ch : SecChange) (s : State) : (commitSec ch s).span = s.span := by
  unfold commitSec
  dsimp only
  split <;> rfl

theorem commitSec_waiting (ch : SecChange) (s : State) : (commitSec ch (counted s)).cl.waiting = s.cl.waiting := by
  unfold commitSec
  dsimp only
  split <;> rfl

theorem begunFw_session (size : W32) (b : Bd) (s : State) : (begunFw size b s).session =
    some { slot := targetSlot s, owner := owner b.q, size := size.toNat, held := 0, buf := [], lastAt := s.now } := by
  unfold begunFw
  dsimp only
  split <;> rfl

/-- Three operations for each sector. -/
theorem eraseOps_flatMap_length (l : List Nat) (n : Nat) : (l.flatMap fun i => eraseOps (n + i)).length = 3 * l.length := by
  induction l with
  | nil => rfl
  | cons i l ih =>
    rw [List.flatMap_cons, List.length_append, ih, List.length_cons]
    simp only [eraseOps, List.length_cons, List.length_nil]
    omega

/-- The erase begins with the first sector. -/
theorem eraseOps_flatMap_head {k : Nat} (hk : 0 < k) (n : Nat) :
    ((List.range k).flatMap fun i => eraseOps (n + i)).head? = some (.intent n) := by
  obtain ⟨m, rfl⟩ := Nat.exists_eq_add_of_lt hk
  rw [Nat.zero_add, List.range_succ_eq_map, List.flatMap_cons]
  rfl

theorem targetSlot_sector (s : State) : slotBase (targetSlot s) / 4096 = if s.fw.run = 1 then 0xDC else 0xC0 := by
  unfold targetSlot
  split <;> rfl

/-! ## FW.CHUNK -/

theorem ownSession_owner {q : Req} {s : State} {f : FwSession} (hs : s.fw.session = some f) (ho : f.owner = owner q) :
    ownSession q s = some f := by
  rw [ownSession, hs]
  exact if_pos ho

theorem chkFwChunk_fine {offset : W32} {data : List Byte} {q : Req} {s : State} {f : FwSession} (hs : s.fw.session = some f)
    (ho : f.owner = owner q) (hf : offset.toNat = f.held) (hn : f.held + data.length ≤ f.size)
    (hj : (fwPages f data).1 = [] ∨ NoUserJob s) : chkFwChunk offset data q stOk s = stOk := by
  have hb : (!(fwPages f data).1.isEmpty && userJob s) = false := by
    rcases hj with hj | hj
    · rw [hj]
      rfl
    · rw [userJob_none hj, Bool.and_false]
  have hne : (offset.toNat != f.held) = false := by rw [hf, bne_self_eq_false]
  rw [chkFwChunk, ownSession_owner hs ho]
  dsimp only
  rw [hb, hne, decide_eq_false (show ¬ offset.toNat + data.length > f.size by omega)]
  rfl

/-- A chunk that completes no page: the buffer grows. -/
theorem fwPages_none {f : FwSession} {data : List Byte} (h1 : f.held + data.length < f.size)
    (h2 : f.buf.length + data.length < 256) : fwPages f data = ([], f.buf ++ data) := by
  have hl : (f.buf ++ data).length / 256 = 0 := by rw [List.length_append]; omega
  simp only [fwPages, hl, if_neg fun h : f.held + data.length = f.size ∧ _ => absurd h.1 (Nat.ne_of_lt h1)]
  rfl

/-- How many pages a chunk completes (R432): its full ones, and the last one of the image, however short. -/
def pageCount (f : FwSession) (data : List Byte) : Nat :=
  if f.held + data.length = f.size ∧ (f.buf ++ data).length % 256 ≠ 0 then (f.buf ++ data).length / 256 + 1
  else (f.buf ++ data).length / 256

theorem fwPages_eq (f : FwSession) (data : List Byte) : fwPages f data =
    ((List.range (pageCount f data)).map fun k =>
        NvOp.page (slotBase f.slot + (f.held - f.buf.length) + 256 * k) (((f.buf ++ data).drop (256 * k)).take 256),
      (f.buf ++ data).drop (256 * pageCount f data)) := rfl

theorem pageCount_pos {f : FwSession} {data : List Byte} (hd : 1 ≤ data.length)
    (h : 256 ≤ f.buf.length + data.length ∨ f.held + data.length = f.size) : 0 < pageCount f data := by
  unfold pageCount
  rw [List.length_append]
  split
  · omega
  · next hn =>
    rcases h with h | h
    · omega
    · have : (f.buf.length + data.length) % 256 = 0 := by
        by_contra hm
        exact hn ⟨h, hm⟩
      omega

theorem pageCount_last {f : FwSession} {data : List Byte} (h : f.held + data.length = f.size) :
    (f.buf ++ data).length ≤ 256 * pageCount f data := by
  unfold pageCount
  split
  · omega
  · next hn =>
    have : (f.buf ++ data).length % 256 = 0 := by
      by_contra hm
      exact hn ⟨h, hm⟩
    omega

theorem pageCount_one {f : FwSession} {data : List Byte} (h : f.held + data.length < f.size) (hb : f.buf.length < 256)
    (hd : data.length ≤ 224) (hp : 256 ≤ f.buf.length + data.length) : pageCount f data = 1 := by
  rw [pageCount, if_neg fun hn => absurd hn.1 (Nat.ne_of_lt h), List.length_append]
  omega

theorem fwPages_head {f : FwSession} {data : List Byte} (h : 0 < pageCount f data) :
    (fwPages f data).1.head? = some (.page (slotBase f.slot + (f.held - f.buf.length)) ((f.buf ++ data).take 256)) := by
  obtain ⟨m, hm⟩ := Nat.exists_eq_add_of_lt h
  rw [fwPages_eq, hm, Nat.zero_add, List.range_succ_eq_map]
  rfl

theorem effFwChunk_fills {s : State} {f : FwSession} (data : List Byte) (b : Bd) (hs : s.fw.session = some f)
    (hp : fwPages f data = ([], f.buf ++ data)) : effFwChunk data b s =
      { s with fw.session := some { f with held := f.held + data.length, buf := f.buf ++ data, lastAt := s.now } } := by
  rw [effFwChunk, hs]
  dsimp only
  rw [hp]
  rfl

/-- The job that programs the pages a chunk completes. -/
abbrev fwPageJob (f : FwSession) (data : List Byte) (tok : Tok) : Job :=
  { kind := .fwPage (slotBase f.slot + f.held) data (f.held + data.length), user := true, op := 0x92,
    ops := (fwPages f data).1, tok := some tok, failed := false }

theorem effFwChunk_programs {s : State} {f : FwSession} {data : List Byte} (b : Bd) (hs : s.fw.session = some f)
    (hp : (fwPages f data).1.isEmpty = false) : effFwChunk data b s = addJob (fwPageJob f data b.tok) { s with
      fw.session := some { f with held := f.held + data.length, buf := (fwPages f data).2, lastAt := s.now } } := by
  rw [effFwChunk, hs]
  dsimp only
  rw [hp]
  rfl

theorem ansFwChunk_answers {offset : W32} {data : List Byte} {b : Bd} {s : State} (h : ∀ j ∈ s.nv.jobs, j.tok = none) :
    ansFwChunk offset data b s = some (okAns s (leBytes 4 (offset.toNat + data.length))) := by
  have ha : (s.nv.jobs.any fun j => j.tok == some b.tok) = false :=
    List.any_eq_false.2 fun j hj => by simp [h j hj]
  rw [ansFwChunk, ha]
  rfl

/-- While a job has the clause's place the answer waits for it. -/
theorem ansFwChunk_waits {offset : W32} {data : List Byte} {b : Bd} {s : State} {j : Job} (hj : j ∈ s.nv.jobs)
    (ht : j.tok = some b.tok) : ansFwChunk offset data b s = none := by
  have ha : (s.nv.jobs.any fun j => j.tok == some b.tok) = true := List.any_eq_true.2 ⟨j, hj, by simp [ht]⟩
  rw [ansFwChunk, ha]
  rfl

/-- A verb served now whose answer, asked for now, comes later: its clause waits for it (R179). -/
theorem exec_waits_at {q : Req} {i : Instr} {v : Verb} {s t : State} {op : Byte} (h : Ready q s) (hq : i.req? = some q)
    (hv : verbOf i = some v) (ho : v.op = op) (hc : v.chk (lockStatus v.prot q s) s = stOk)
    (hg : v.again (lockStatus v.prot q s) s = stOk)
    (he : restartHold (v.eff (bdNow q s (waits q op s (numbered s))) (waits q op s (numbered s))) = waits q op s t)
    (ha : v.ans (bdNow q s (waits q op s (numbered s))) (waits q op s t) = none) (hl : i.lengthOk = true) :
    exec i s = .next (waits q op s t) := by
  subst ho
  obtain ⟨hm, hb, ht, -⟩ := h
  rw [← openClause_waits hv] at he ha
  rw [exec_eq_runVerb hq, runVerb_waits hm hb ht hv hl (checkVerb_passes ht hc hg) (by rw [he]; exact ha), he]

/-! ## FW.FINISH and FW.ACTIVATE -/

theorem chkFwFinish_fine {q : Req} {s : State} {f : FwSession} (hs : s.fw.session = some f) (ho : f.owner = owner q)
    (hf : f.held = f.size) (hp : fwPageRuns s = false) : chkFwFinish q stOk s = stOk := by
  have hne : (f.held != f.size) = false := by rw [hf, bne_self_eq_false]
  rw [chkFwFinish, ownSession_owner hs ho]
  dsimp only
  rw [hne, hp]
  rfl

theorem effFwFinish_verifies {s : State} {f : FwSession} (b : Bd) (hs : s.fw.session = some f) : effFwFinish b s =
    { s with fw.session := none, fw.verify := some { slot := f.slot, size := f.size, tok := b.tok } } := by
  rw [effFwFinish, hs]

theorem chkFwActivate_fine {mode : Byte} {s : State} (hm : mode.toNat ≤ 1) (ha : activateSlot s ≠ 0)
    (hr : lowReserve s = false) : chkFwActivate mode stOk s = stOk := by
  rw [chkFwActivate, decide_eq_false (show ¬ mode.toNat > 2 by omega), beq_eq_false_iff_ne.2 ha, hr, Bool.and_false]
  rfl

/-- A slot asked for is the one pending. -/
theorem pendingSlot_commitSec {s : State} (ht : s.fw.trial = false) (k : Nat) :
    pendingSlot (commitSec (.pending k) s) = k := by
  rw [pendingSlot, commitSec_fw, ht, commitSec_sec]
  rfl

theorem pendingSlot_unpend {s : State} (ht : s.fw.trial = false) : pendingSlot (commitSec .unpend s) = 0 := by
  rw [pendingSlot, commitSec_fw, ht, commitSec_sec]
  rfl

theorem ansFwActivate_pending {s : State} {k : Nat} (h : pendingSlot s = k) (hk : k ≠ 0) :
    ansFwActivate s = okAns s [BitVec.ofNat 8 k] := by
  rw [ansFwActivate, h, if_neg hk]

theorem ansFwActivate_none {s : State} (h : pendingSlot s = 0) : ansFwActivate s = okAns s [0xFF] := by
  rw [ansFwActivate, h]
  rfl

/-- A commit beside an opened clause. -/
theorem restartHold_commitSec_waits (ch : SecChange) (q : Req) (op : Byte) (s : State) :
    restartHold (commitSec ch (waits q op s (numbered s))) = waits q op s (commitSec ch (counted s)) := by
  rw [← commitSec_restartHold]
  exact commitSec_waits (t := counted s)

/-- Mode 2 takes a pending activation back. -/
theorem effFwActivate_two {s : State} (b : Bd) (ht : s.fw.trial = false) (hp : s.sec.pending ≠ 0) :
    effFwActivate 2 b s = commitSec .unpend s := by
  have h : pendingSlot s ≠ 0 := by
    rw [pendingSlot, ht]
    exact hp
  exact if_neg h

/-- A commit asks for no reset. -/
theorem commitSec_resetReq (ch : SecChange) (s : State) :
    ({ commitSec ch (counted s) with pw.resetReq := s.pw.resetReq } : State) = commitSec ch (counted s) := by
  unfold commitSec
  dsimp only
  split <;> rfl

theorem byte_zero_or_one {b : Byte} (h : b.toNat ≤ 1) : b = 0 ∨ b = 1 := by
  revert b
  decide

/-! ## O37 -/

/-- FW.BEGIN's session and erase. -/
theorem exec_fwBegin {q : Req} {s : State} (h : Ready q s) (hu : Unlocked q s) {size : W32} (h1 : 1 ≤ size.toNat)
    (h2 : size.toNat ≤ 114688) (ht : s.fw.trial = false) (hj : NoUserJob s) : ∃ b : Bd, b.q = q ∧ b.tok = tokOf s ∧
      exec (.fwBegin q size) s = .next (waits q 0x91 s (effFwBegin size b (counted s))) := by
  have hk := (congrArg (chkFwBegin size · s) (lockStatus_unlocked (prot := true) hu)).trans (chkFwBegin_fine h1 h2 ht hj)
  refine ⟨bdNow q s (waits q 0x91 s (numbered s)), rfl, rfl, exec_waits h rfl rfl rfl hk hk (fun _ _ => rfl) ?_⟩
  exact effFwBegin_restartHold.symm.trans (effFwBegin_waits (t := counted s))

/-- Settles O37. -/
theorem firmwareVerbsRun : Obligations.FirmwareVerbsRun := by
  intro q s h hu
  have hl : lockStatus true q s = stOk := lockStatus_unlocked hu
  refine ⟨?_, fun size h1 h2 ht hj => ?_, fun f data offset hs ho hf hd1 hd2 hn hb hj => ?_,
    fun f data offset hs ho hf hd1 hd2 hn hj hb hbh hp => ⟨(fwPages f data).1, (fwPages f data).2, ?_, ?_, fun hlast => ?_,
      fun hmore => ?_⟩,
    fun f hs ho hf hp => ?_, fun mode hm ht ha hr => ?_, fun ht hp => ?_⟩
  · exact exec_answers h rfl rfl rfl hl hl (congrArg some (ansFwInfo_eq _))
  · obtain ⟨b, hbq, hbt, hexec⟩ := exec_fwBegin h hu h1 h2 ht hj
    refine ⟨_, hexec, ?_, ?_, ?_, ?_, slotEraseJob size b (counted s), ?_, rfl, rfl, congrArg some hbt, ?_, ?_⟩
    · rw [effFwBegin_eq]
      refine (congrArg Firmware.session (commitSec_fw _ _)).trans ((begunFw_session _ _ _).trans ?_)
      rw [hbq]
      rfl
    · rw [effFwBegin_eq]
      exact congrArg Security.pending (commitSec_sec _ _)
    · rw [effFwBegin_eq]
      exact commitSec_mem _ _
    · rw [effFwBegin_eq]
      exact congrArg (·.outQ) (commitSec_span _ _)
    · rw [effFwBegin_eq]
      exact List.mem_append_right _ List.mem_cons_self
    · exact (eraseOps_flatMap_length _ _).trans (by rw [List.length_range])
    · exact (eraseOps_flatMap_head (by omega) _).trans (congrArg (fun n => some (NvOp.intent n)) (targetSlot_sector s))
  · have hpg := fwPages_none hn hb
    have hk := (congrArg (chkFwChunk offset data q · s) hl).trans
      (chkFwChunk_fine hs ho hf (Nat.le_of_lt hn) (.inl (by rw [hpg])))
    refine exec_answers h rfl rfl rfl hk hk ?_ (unitsOk_bytes hd1 hd2)
    refine (congrArg (fun u => ansFwChunk offset data _ (restartHold u)) (effFwChunk_fills data _ (by exact hs) hpg)).trans ?_
    refine (ansFwChunk_answers (by exact hj)).trans ?_
    rw [hf]
    rfl
  · have hpos := pageCount_pos hd1 hp
    have hne : (fwPages f data).1.isEmpty = false := by
      have hh := fwPages_head hpos
      cases hc : (fwPages f data).1 with
      | nil => rw [hc] at hh; exact absurd hh (by simp)
      | cons _ _ => rfl
    have hk := (congrArg (chkFwChunk offset data q · s) hl).trans (chkFwChunk_fine hs ho hf hn (.inr hj))
    refine exec_waits_at h rfl rfl rfl hk hk ?_ (ansFwChunk_waits (List.mem_append_right _ List.mem_cons_self) rfl)
      (unitsOk_bytes hd1 hd2)
    exact (congrArg restartHold (effFwChunk_programs _ (by exact hs) hne)).trans rfl
  · exact fwPages_head (pageCount_pos hd1 hp)
  · exact List.drop_eq_nil_of_le (pageCount_last hlast)
  · have h256 : 256 ≤ f.buf.length + data.length := hp.resolve_right (Nat.ne_of_lt hmore)
    have hone := pageCount_one hmore hb hd2 h256
    rw [fwPages_eq, hone]
    exact ⟨rfl, rfl⟩
  · have hk := (congrArg (chkFwFinish q · s) hl).trans (chkFwFinish_fine hs ho hf hp)
    refine exec_waits h rfl rfl rfl hk hk (fun _ _ => rfl) ?_
    exact (congrArg restartHold (effFwFinish_verifies _ (by exact hs))).trans rfl
  · have hk := (congrArg (chkFwActivate mode · s) hl).trans (chkFwActivate_fine hm ha hr)
    have hpend : pendingSlot (commitSec (.pending (activateSlot s)) (counted s)) = activateSlot s :=
      pendingSlot_commitSec (by exact ht) _
    obtain rfl | rfl : mode = 0 ∨ mode = 1 := byte_zero_or_one hm
    · refine exec_answers h rfl rfl rfl hk hk ?_ rfl (commitSec_waiting _ s)
      rw [if_neg (by decide), commitSec_resetReq]
      exact (congrArg (fun u => some (ansFwActivate u)) (restartHold_commitSec_waits _ q 0x94 s)).trans
        (congrArg some (ansFwActivate_pending hpend ha))
    · refine exec_answers h rfl rfl rfl hk hk ?_ rfl (commitSec_waiting _ s)
      exact (congrArg (fun u : State => some (ansFwActivate { u with pw.resetReq := some { waits := some s.cl.nextId, due := none } }))
        (restartHold_commitSec_waits _ q 0x94 s)).trans (congrArg some (ansFwActivate_pending hpend ha))
  · have hk : chkFwActivate 2 (lockStatus true q s) s = stOk := by rw [hl]; rfl
    have hpend : pendingSlot (commitSec .unpend (counted s)) = 0 := pendingSlot_unpend (by exact ht)
    refine exec_answers h rfl rfl rfl hk hk ?_ rfl (commitSec_waiting _ s)
    refine (congrArg (fun u => some (ansFwActivate (restartHold u))) (effFwActivate_two
      (bdNow q s (waits q 0x94 s (numbered s))) (by exact ht) (by exact hp))).trans ?_
    exact (congrArg (fun u => some (ansFwActivate u)) (restartHold_commitSec_waits _ q 0x94 s)).trans
      (congrArg some (ansFwActivate_none hpend))

end Sys2Proof.Machine
end

section
/-!
PROOFS. Take-up (07, R173 to R186): what the NP does with a delivered clause and with a submission.
-/
namespace Sys2Proof.Machine

open Sys2Proof.Claims

-- Proofs in parallel hold one thread each, and a text this long would have more of them than the check has room for.
set_option Elab.async false

/-! ## A clause of one verb with four bytes of arguments -/

/-- The layout of an untimed clause with one verb. -/
abbrev verbLayout (op a b c d : Byte) : Layout :=
  { timed := false, noreply := false, auth := false, applyAt := none, verbs := [(op, [a, b, c, d])] }

theorem layout_verb (op a b c d : Byte) : layout [0x00, op, 0x04, a, b, c, d] = .inr (verbLayout op a b c d) := by
  simp [layout, headLen, tagLen, splitVerbs]

section

variable {q : Req} {op a b c d : Byte} {i : Instr} {v : Verb} {s : State}

/-- A verb that parses and that its checks let through waits for its boundary (R181, R186). -/
theorem enqueueClause_verb (hp : parseVerb q op [a, b, c, d] = .inr i) (hv : verbOf i = some v) (hl : i.lengthOk = true)
    (hc : checkVerb false v q s = stOk) (hq : q.applyAt = none) : enqueueClause q (verbLayout op a b c d) s =
      { s with cl.ready := s.cl.ready ++ [validNow q [i] s] } := by
  have hparse : parseFrom q 0 [(op, [a, b, c, d])] = ([i], none) := by
    simp only [parseFrom, hp]
  have hcheck : checkFrom false q (expectedT s) s.cl.nextId s 0 [i] s = none := by
    simp only [checkFrom, hv, hl, hc, if_true]
  have hvalid : validate q (expectedT s) [(op, [a, b, c, d])] s = .inr [i] := by
    simp only [validate, hparse, hcheck]
  simp only [enqueueClause, hq, hvalid, queueClause, validNow]
  rfl

/-- The length of the reply to one verb (R176). -/
theorem replyLen_verb (hp : parseVerb q op [a, b, c, d] = .inr i) (hv : verbOf i = some v) :
    replyLen q [(op, [a, b, c, d])] = 3 + (3 + v.result + 0) := by
  simp only [replyLen, verbResult, hp, hv, List.map_cons, List.map_nil]
  rfl

/-- What is left of the take-up of such a clause when its layout stands: its SEQ (Table 7-4). -/
theorem takeUp_verb (hp : parseVerb q op [a, b, c, d] = .inr i) (hv : verbOf i = some v) (hres : v.result ≤ 234)
    (hr : q.noreply = false) (ha : q.auth = false) (ht : q.applyAt = none) :
    takeUp q [0x00, op, 0x04, a, b, c, d] s = match seqClass q s with
      | .unsequenced => enqueueClause q (verbLayout op a b c d) s
      | .duplicate => resendCached q [op] s
      | .stale => rejectEarly q stStaleSeq s
      | .fresh => enqueueClause q (verbLayout op a b c d) (recordSeq q s) := by
  have hq : ({ q with noreply := false, auth := false, applyAt := none } : Req) = q := by
    cases q
    simp only at hr ha ht
    simp only [hr, ha, ht]
  have hlen : ¬ replyLen q [(op, [a, b, c, d])] > 240 := by
    rw [replyLen_verb hp hv]
    omega
  have hlaid : takeUp q [0x00, op, 0x04, a, b, c, d] s =
      takeLaid { q with noreply := false, auth := false, applyAt := none } (verbLayout op a b c d)
        [0x00, op, 0x04, a, b, c, d] s := by
    rw [takeUp, if_neg (List.cons_ne_nil _ _)]
    have h6 : (([0x00, op, 0x04, a, b, c, d] : List Byte).getD 0 0).getLsbD 6 = false := by
      show (0 : Byte).getLsbD 6 = false
      decide
    simp only [h6, layout_verb]
  rw [hlaid, hq, takeLaid, if_neg hlen]
  rfl

/-- Without a SEQ the clause goes to its boundary. -/
theorem takeUp_verb_unsequenced (hp : parseVerb q op [a, b, c, d] = .inr i) (hv : verbOf i = some v) (hres : v.result ≤ 234)
    (hl : i.lengthOk = true) (hc : checkVerb false v q s = stOk) (hr : q.noreply = false) (ha : q.auth = false)
    (ht : q.applyAt = none) (hs : q.seq = 0) : takeUp q [0x00, op, 0x04, a, b, c, d] s =
      { s with cl.ready := s.cl.ready ++ [validNow q [i] s] } := by
  have hu : seqClass q s = .unsequenced := if_pos hs
  rw [takeUp_verb hp hv hres hr ha ht, hu]
  exact enqueueClause_verb hp hv hl hc ht

end

/-! ## The clause of one LEVEL.SET -/

/-- The body of a clause whose one verb is LEVEL.SET. -/
abbrev levelBody (zone mask l0 l1 : Byte) : List Byte := [0x00, 0x20, 0x04, zone, mask, l0, l1]

/-- Its LEVEL field. -/
abbrev levelField (l0 l1 : Byte) : W16 := BitVec.ofNat 16 (l0.toNat + 256 * l1.toNat)

theorem parseVerb_level (q : Req) (zone mask l0 l1 : Byte) :
    parseVerb q 0x20 [zone, mask, l0, l1] = .inr (.levelSet q zone mask (levelField l0 l1)) := by
  have hf : fieldLe [zone, mask, l0, l1] 2 2 = l0.toNat + 256 * l1.toNat := rfl
  exact congrArg (fun n => Sum.inr (Instr.levelSet q zone mask (BitVec.ofNat 16 n))) hf

/-- A source with no entry in the tracking table. -/
theorem trackOf_none {q : Req} {s : State} (hm : q.mbox = .span) (h : ∀ e ∈ s.cl.track, e.src ≠ q.src) :
    trackOf q s = none := by
  rw [trackOf, hm]
  exact List.find?_eq_none.2 fun e he => by simp [h e he]

theorem putTrack_new {x : Track} {l : List Track} (h : ∀ e ∈ l, e.src ≠ x.src) : putTrack x l = (x :: l).take 32 := by
  have hf : l.filter (fun e => e.src != x.src) = l := List.filter_eq_self.2 fun e he => by simp [h e he]
  rw [putTrack, hf]
  rfl

section

variable {q : Req} {zone mask l0 l1 : Byte} {s : State}

theorem takeUp_level_unsequenced (hm : MaskOk mask) (hr : q.noreply = false) (ha : q.auth = false) (ht : q.applyAt = none)
    (hs : q.seq = 0) : takeUp q (levelBody zone mask l0 l1) s = { s with
      cl.ready := s.cl.ready ++ [validNow q [.levelSet q zone mask (levelField l0 l1)] s] } :=
  takeUp_verb_unsequenced (parseVerb_level q zone mask l0 l1) verbOf_levelSet (Nat.zero_le _) rfl (checkVerb_levelSet hm)
    hr ha ht hs

/-- A source's first SEQ is recorded (R184). -/
theorem takeUp_level_fresh (hm : MaskOk mask) (hr : q.noreply = false) (ha : q.auth = false) (ht : q.applyAt = none)
    (hs : q.seq ≠ 0) (hx : q.mbox = .span) (hn : ∀ e ∈ s.cl.track, e.src ≠ q.src) :
    takeUp q (levelBody zone mask l0 l1) s = { s with
      cl.ready := s.cl.ready ++ [validNow q [.levelSet q zone mask (levelField l0 l1)] s]
      cl.track := ({ src := q.src, last := q.seq, reply := none } :: s.cl.track).take 32 } := by
  have hc : seqClass q s = .fresh := by rw [seqClass, if_neg hs, trackOf_none hx hn]
  have hrec : recordSeq q s =
      { s with cl.track := ({ src := q.src, last := q.seq, reply := none } :: s.cl.track).take 32 } := by
    rw [recordSeq, hx]
    simp only [putTrack_new (x := { src := q.src, last := q.seq, reply := none }) hn]
  rw [takeUp_verb (parseVerb_level q zone mask l0 l1) verbOf_levelSet (Nat.zero_le _) hr ha ht, hc, hrec]
  exact enqueueClause_verb (parseVerb_level q zone mask l0 l1) verbOf_levelSet rfl (checkVerb_levelSet hm) ht

/-- A stale SEQ is turned down before anything else (Table 7-4). -/
theorem takeUp_level_stale (hr : q.noreply = false) (ha : q.auth = false) (ht : q.applyAt = none) (hs : q.seq ≠ 0) {e : Track}
    (he : trackOf q s = some e) (hne : q.seq ≠ e.last) (hd : 32767 < (q.seq - e.last).toNat) :
    takeUp q (levelBody zone mask l0 l1) s = rejectEarly q stStaleSeq s := by
  have hold : newer q.seq e.last = false := by
    simp only [newer, decide_eq_false (show ¬ (q.seq - e.last).toNat ≤ 32767 by omega), Bool.and_false]
  have hc : seqClass q s = .stale := by
    rw [seqClass, if_neg hs, he]
    simp only [if_neg hne, hold]
    rfl
  rw [takeUp_verb (parseVerb_level q zone mask l0 l1) verbOf_levelSet (Nat.zero_le _) hr ha ht, hc]

end

section

variable {zone mask l0 l1 : Byte} {x : RingSlot} {rest : List RingSlot} {t : State}

/-- The clause of a ring slot with LEVEL.SET, as it waits for its boundary. -/
abbrev levelWaits (zone mask l0 l1 : Byte) (x : RingSlot) (t : State) : Queued :=
  { req := reqOfSlot x, verbs := [.levelSet (reqOfSlot x) zone mask (levelField l0 l1)], held := false, at_ := t.now }

theorem takeUp_slot_unsequenced (hm : MaskOk mask) (hb : x.body = levelBody zone mask l0 l1) (hs : x.seq = 0) :
    takeUp (reqOfSlot x) x.body { t with span.ring := rest } =
      { t with span.ring := rest, cl.ready := t.cl.ready ++ [levelWaits zone mask l0 l1 x t] } := by
  rw [hb]
  exact takeUp_level_unsequenced hm rfl rfl rfl hs

theorem takeUp_slot_fresh (hm : MaskOk mask) (hb : x.body = levelBody zone mask l0 l1) (hs : x.seq ≠ 0)
    (hn : ∀ e ∈ t.cl.track, e.src ≠ x.src) : takeUp (reqOfSlot x) x.body { t with span.ring := rest } = { t with
      span.ring := rest
      cl.ready := t.cl.ready ++ [levelWaits zone mask l0 l1 x t]
      cl.track := ({ src := x.src, last := x.seq, reply := none } :: t.cl.track).take 32 } := by
  rw [hb]
  exact takeUp_level_fresh (q := reqOfSlot x) (s := { t with span.ring := rest }) hm rfl rfl rfl hs rfl hn

theorem takeUp_slot_stale (hb : x.body = levelBody zone mask l0 l1) (hs : x.seq ≠ 0) {e : Track}
    (he : t.cl.track.find? (fun k => k.src == x.src) = some e) (hne : x.seq ≠ e.last) (hd : 32767 < (x.seq - e.last).toNat) :
    takeUp (reqOfSlot x) x.body { t with span.ring := rest } = replyOr { reqOfSlot x with seq := 0 } false
      (replyBody x.seq [(0, 0x40, [])]) t.cl.nextId { t with span.ring := rest, cl.nextId := t.cl.nextId + 1 } := by
  rw [hb]
  exact takeUp_level_stale (q := reqOfSlot x) (s := { t with span.ring := rest }) rfl rfl rfl hs he hne hd

end

theorem takeUp_image_unsequenced {zone mask l0 l1 : Byte} {t : State} (hm : MaskOk mask)
    (hb : imageBody t = levelBody zone mask l0 l1) (hs : be16 t.svc.image 4 = 0) :
    let q : Req := { reqOfImage t with seq := 0 }
    takeUp (reqOfImage t) (imageBody t) { t with svc.submitted := false, svc.image := [] } = { t with
      svc.submitted := false
      svc.image := []
      cl.ready := t.cl.ready ++ [{ req := q, verbs := [.levelSet q zone mask (levelField l0 l1)], held := false, at_ := t.now }] } := by
  have hq : reqOfImage t = { reqOfImage t with seq := 0 } := by
    simp only [reqOfImage, hs]
  rw [hb]
  refine (takeUp_level_unsequenced hm rfl rfl rfl hs).trans ?_
  rw [← hq]
  rfl

/-! ## O40 -/

theorem takesUp_blocked {s : State} (h : s.nv.running ≠ none) : takesUp s = false := by
  have hb : npBlocked s = true := Option.isSome_iff_ne_none.2 h
  rw [takesUp, hb]
  simp only [Bool.not_true, Bool.and_false, Bool.false_and]

/-- The NP takes clauses up in RUN, unblocked, with a place free and nothing under verification. -/
theorem takesUp_true {s : State} (hm : s.pw.mode = .run) (hn : s.nv.running = none) (hq : s.span.outQ.length < 8)
    (ho : s.span.overflow = []) (hv : s.fw.verify = none) : takesUp s = true := by
  have h8 : s.span.outQ.length < Config.queuePlaces := hq
  simp only [takesUp, inRun, npBlocked, hm, hn, ho, hv, decide_eq_true h8]
  rfl

theorem submissionWaits_iff {s : State} :
    submissionWaits s = true ↔ s.svc.submitted = true ∧ s.svc.out = none ∧ s.svc.backlog = [] := by
  simp only [submissionWaits, Bool.and_eq_true, Option.isNone_iff_eq_none, List.isEmpty_iff, and_assoc]

/-- The ring's oldest clause is looked at where the NP takes clauses up and no submission came before it. -/
theorem exec_clauseTakeUp {dt : Nat} {s : State} {x : RingSlot} {rest : List RingSlot} (ht : takesUp (elapse dt s) = true)
    (hx : (elapse dt s).span.ring = x :: rest) (hr : (elapse dt s).span.roll = none)
    (hf : (elapse dt s).svc.submitted = true → (elapse dt s).svc.out = none → (elapse dt s).svc.backlog = [] →
      x.closed ≤ (elapse dt s).svc.submittedAt) :
    exec (.clauseTakeUp dt) s = .next (takeUp (reqOfSlot x) x.body { elapse dt s with span.ring := rest }) := by
  have hw : (ringFirst (elapse dt s) || !submissionWaits (elapse dt s)) = true := by
    cases hs : submissionWaits (elapse dt s) with
    | false => exact Bool.or_true _
    | true =>
      obtain ⟨h1, h2, h3⟩ := submissionWaits_iff.1 hs
      simp only [ringFirst, hx, decide_eq_true (hf h1 h2 h3), Bool.true_or]
  show execClauseTakeUp dt s = _
  have hq : rollQuery x { elapse dt s with span.ring := rest } = false := by simp only [rollQuery, hr]
  simp only [execClauseTakeUp, hx, ht, hw, Bool.and_self, if_true, hq, Bool.false_eq_true, if_false]
  rfl

/-- A ring whose clauses came after the submission. -/
theorem ringFirst_false {s : State} (h : ∀ x ∈ s.span.ring, s.svc.submittedAt < x.closed) : ringFirst s = false := by
  cases hr : s.span.ring with
  | nil => simp only [ringFirst, hr]
  | cons x rest =>
    have hx := h x (by rw [hr]; exact List.mem_cons_self)
    simp only [ringFirst, hr, decide_eq_false (Nat.not_le.2 hx)]

/-- Settles O40. -/
theorem clausesAreTakenUp : Obligations.ClausesAreTakenUp := by
  intro dt zone mask l0 l1 s hm
  refine ⟨fun hb => ?_, fun hrun hn hq ho hv => ?_⟩
  · have ht := takesUp_blocked hb
    refine ⟨?_, ?_⟩
    · show execClauseTakeUp dt s = _
      simp only [execClauseTakeUp, ht, Bool.false_and, Bool.false_eq_true, if_false]
      cases (elapse dt s).span.ring <;> rfl
    · show execSubmissionTakeUp dt s = _
      simp only [execSubmissionTakeUp, ht, Bool.false_and, Bool.false_eq_true, if_false]
      rfl
  · have ht := takesUp_true hrun hn hq ho hv
    refine ⟨fun x rest hx hr hf => ?_, fun hs hout hbl hbody hlen hseq hring => ?_⟩
    · have hexec := exec_clauseTakeUp ht hx hr hf
      refine ⟨fun hbody => ?_, fun hbody => ⟨fun h0 => ?_, fun h0 htr => ?_, fun e h0 htr hne hd => ?_⟩⟩
      · rw [hexec, hbody]
        rfl
      · exact hexec.trans (congrArg Host.Outcome.next (takeUp_slot_unsequenced hm hbody h0))
      · exact hexec.trans (congrArg Host.Outcome.next (takeUp_slot_fresh hm hbody h0 htr))
      · exact hexec.trans (congrArg Host.Outcome.next (takeUp_slot_stale hbody h0 htr hne hd))
    · have hw := submissionWaits_iff.2 ⟨hs, hout, hbl⟩
      have hf := ringFirst_false hring
      refine ⟨?_, fun x rest hx => ?_⟩
      · show execSubmissionTakeUp dt s = _
        have hb : imageBody (elapse dt s) = levelBody zone mask l0 l1 := by
          rw [imageBody, hlen]
          exact hbody
        simp only [execSubmissionTakeUp, ht, hw, hf, Bool.not_false, Bool.and_self, if_true]
        exact congrArg Host.Outcome.next (takeUp_image_unsequenced hm hb hseq)
      · show execClauseTakeUp dt s = _
        simp only [execClauseTakeUp, hx, ht, hw, hf, Bool.not_true, Bool.or_self, Bool.and_false, Bool.false_eq_true, if_false]
        rfl

end Sys2Proof.Machine
end

section
/-!
PROOFS. Transmission (05, 06, R141 to R158): the head of the outbound queue on the bus, and traffic of the wake band.
-/
namespace Sys2Proof.Machine

open Sys2Proof.Claims

-- Proofs in parallel hold one thread each, and a text this long would have more of them than the check has room for.
set_option Elab.async false

/-! ## Queues with nothing waiting for a place -/

/-- With nothing waiting, a place that frees starts nothing on a busy bus (R174). -/
theorem settleQueues_quiet {s : State} (hi : s.span.idle = false) (ho : s.span.overflow = []) (hm : s.ev.marks = [])
    (hb : s.svc.backlog = []) : settleQueues s = s := by
  have hq : fillQueue s = s := by
    rw [fillQueue, sendIdle_busy (by exact hi), ho]
    simp only [List.take_nil, List.drop_nil, List.append_nil]
    rw [← ho]
  have hl : fillLocal s = s := by
    simp only [fillLocal, hb]
    cases s.svc.out <;> rfl
  have hk : buildMarks 16 s = s := by
    simp only [buildMarks, hm]
  rw [settleQueues, hq, hl, hk, ite_self]

/-- A frame no clause waits for leaves the queue. -/
theorem frameGone_quiet {s : State} {f : OutFrame} (hc : f.clause = none) (hi : s.span.idle = false)
    (ho : s.span.overflow = []) (hm : s.ev.marks = []) (hb : s.svc.backlog = []) :
    frameGone f s = { s with span.outQ := s.span.outQ.drop 1 } := by
  rw [frameGone, hc]
  exact settleQueues_quiet (s := { s with span.outQ := s.span.outQ.drop 1 }) hi ho hm hb

/-! ## The start of an attempt -/

theorem mayTransmit_of_mayStart {t : State} (h : MayStart t) : mayTransmit t = true := by
  obtain ⟨hm, hf, hl, hw, hx⟩ := h
  rw [mayTransmit, inRun, hm, foscLocked, hf, decide_eq_true hl, hw, hx]
  rfl

theorem mayTransmit_sending {t : State} (h : t.span.tx ≠ none) : mayTransmit t = false := by
  cases hx : t.span.tx with
  | none => exact absurd hx h
  | some k => rw [mayTransmit, hx]; exact Bool.and_false _

section

variable {t : State} {f : OutFrame} {rest : List OutFrame}

theorem tried_ownSrc (t : State) (f : OutFrame) : tried (ownSrc t f) = attempt t f := by
  unfold ownSrc attempt tried unaddressed
  by_cases h : t.cfg.addr = 0
  · rw [if_pos (beq_iff_eq.2 h), if_pos h]
  · rw [if_neg fun h' => h (beq_iff_eq.1 h'), if_neg h]

/-- The head of the queue in its attempt. -/
abbrev headBegun (t : State) (f : OutFrame) (rest : List OutFrame) : State :=
  { t with
    span.wakeHold := none, span.tx := some .queue, span.txAt := t.now, span.idle := false
    span.outQ := attempt t f :: rest }

variable (hq : t.span.outQ = f :: rest) (hl : t.span.lates = []) (hr : t.span.roll = none) (hs : MayStart t)
include hq hl hr hs

/-- With no other frame under way the head of the queue starts. -/
theorem startOrDefer_starts : startOrDefer none t = headBegun t f rest := by
  have hd : defers none t = false := rfl
  rw [startOrDefer, mayTransmit_of_mayStart hs, hd]
  obtain ⟨-, -, -, hw, -⟩ := hs
  simp only [Bool.not_true, Bool.false_eq_true, if_false]
  rw [startNext_head hl hr hq, tried_ownSrc]
  simp only [beginTx, headBegun, ← hw]

/-- One that began more than a quarter bit before holds it back (R153). -/
theorem startOrDefer_defers (d : Nat) : startOrDefer (some d) t =
    if 1000000000000 / txRate f t < 4 * d then { t with span.idle := false } else headBegun t f rest := by
  have hd : defers (some d) t = decide (1000000000000 / txRate f t < 4 * d) := by
    simp only [defers, nextStart_head hl hr hq]
    rfl
  have hstart := startOrDefer_starts hq hl hr hs
  rw [startOrDefer, mayTransmit_of_mayStart hs] at hstart ⊢
  rw [hd]
  by_cases hc : 1000000000000 / txRate f t < 4 * d
  · rw [if_pos hc, decide_eq_true hc]
    rfl
  · rw [if_neg hc, decide_eq_false hc]
    exact hstart

end

/-! ## The end of an attempt -/

section

variable {t : State} {f : OutFrame} {rest : List OutFrame}

/-- An attempt that ended now, its frame not out. -/
abbrev attemptEnded (t : State) : State := { t with span.tx := none, span.idle := false, span.quietFrom := t.now }

theorem attemptFailed_queue (hx : t.span.tx = some .queue) : attemptFailed t = queueFailed (attemptEnded t) := by
  simp only [attemptFailed, hx]

/-- A queued frame's attempt that fails before the 16th leaves the frame in its place (R154). -/
theorem queueFailed_retries (hq : t.span.outQ = f :: rest) (hop : f.op = 0xFE) (ha : f.attempts < 16)
    (haddr : t.cfg.addr ≠ 0) : queueFailed t = t := by
  have hn : ¬ f.attempts ≥ Config.maxAttempts := Nat.not_le.2 ha
  have hf : ¬ f.op = 0xF0 := by rw [hop]; decide
  have hu : sendable t f = true := by
    rw [sendable, unaddressed, beq_eq_false_iff_ne.2 haddr]
    rfl
  simp only [queueFailed, hq, if_neg hn, if_neg hf]
  exact if_pos hu

/-- After the 16th the frame is dropped and counted (R156). -/
theorem queueFailed_drops (hq : t.span.outQ = f :: rest) (hop : f.op = 0xFE) (hc : f.clause = none) (hi : t.span.idle = false)
    (ho : t.span.overflow = []) (hm : t.ev.marks = []) (hb : t.svc.backlog = []) (ha : 16 ≤ f.attempts) :
    queueFailed t = { t with span.outQ := rest, span.txDropped := bump t.span.txDropped, span.lastDrop := 0xFE } := by
  have hf : ¬ f.op = 0xF0 := by rw [hop]; decide
  have hdrop : queueFailed t = dropHead f t := by
    simp only [queueFailed, hq]
    exact if_pos ha
  rw [hdrop, dropHead, if_neg hf, frameGone_quiet hc (by exact hi) (by exact ho) (by exact hm) (by exact hb), hop]
  show ({ t with
    span.outQ := t.span.outQ.drop 1, span.txDropped := bump t.span.txDropped, span.lastDrop := 0xFE } : State) = _
  rw [hq]
  rfl

/-- A frame that is out leaves the queue (R156). -/
theorem queueSent_quiet (hq : t.span.outQ = f :: rest) (hop : f.op = 0xFE) (hc : f.clause = none) (hi : t.span.idle = false)
    (ho : t.span.overflow = []) (hm : t.ev.marks = []) (hb : t.svc.backlog = []) :
    queueSent t = { t with span.outQ := rest } := by
  have hf : ¬ f.op = 0xF0 := by rw [hop]; decide
  have hgone : queueSent t = frameGone f t := by
    simp only [queueSent, hq]
    rw [if_neg hf]
  rw [hgone, frameGone_quiet hc hi ho hm hb, hq]
  rfl

end

/-- A loss before SRC is over, of a queued frame, counts a retry alone (R154). -/
theorem countLoss_before {t : State} {bit : Nat} (hx : t.span.tx = some .queue) (hb : bit < 55) : countLoss bit t = countRetry t := by
  have hn : ¬ bit ≥ bitsThroughSrc := Nat.not_le.2 hb
  rw [countLoss, if_neg hn, hx, if_neg (by decide)]

/-- One after SRC meets a contested address (R158). -/
theorem countLoss_after {t : State} {bit : Nat} (hb : 55 ≤ bit) :
    countLoss bit t = countRetry { t with span.contests := bump t.span.contests, node.contest := true } := if_pos hb

theorem syncClass_wake {sync : Nat} (h1 : 18800 ≤ sync) (h2 : sync ≤ 19600) : syncClass sync = .wakeBand := by
  rw [syncClass, if_neg (by omega), if_pos ⟨h1, h2⟩]

theorem wakeSeen_eq (dsth dstl : Byte) (t : State) : wakeSeen dsth dstl t = wakeHeard dsth dstl t := by
  unfold wakeSeen wakeHeard
  cases (matchOf dsth dstl t).isSome <;> rfl

/-! ## O41 -/

/-- A queued frame that is out (R156). -/
theorem frameSent_quiet {t : State} {f : OutFrame} {rest : List OutFrame} (hq : t.span.outQ = f :: rest) (hop : f.op = 0xFE)
    (hc : f.clause = none) (ho : t.span.overflow = []) (hm : t.ev.marks = []) (hb : t.svc.backlog = [])
    (hx : t.span.tx = some .queue) : queueSent { attemptEnded t with span.busRate := (txFrame t).map fun f => txRate f t } =
      { attemptEnded t with span.busRate := some (txRate f t), span.outQ := rest } := by
  have hf : txFrame t = some f := by
    simp only [txFrame, hx, hq, List.head?_cons]
  rw [hf]
  exact queueSent_quiet (t := { attemptEnded t with span.busRate := some (txRate f t) }) hq hop hc rfl ho hm hb

theorem exec_busIdle (dt : Nat) (s : State) (lead : Option Nat) : exec (.busIdle dt lead) s =
    .next (if mayTransmit (elapse dt s) && ifsOver (elapse dt s) then
      startOrDefer lead { elapse dt s with span.idle := true } else elapse dt s) := rfl

theorem exec_frameSent {dt : Nat} {s : State} (hx : (elapse dt s).span.tx = some .queue) : exec (.frameSent dt) s =
    .next (queueSent { attemptEnded (elapse dt s) with
      span.busRate := (txFrame (elapse dt s)).map fun f => txRate f (elapse dt s) }) := by
  show execFrameSent dt s = _
  simp only [execFrameSent, hx]
  rfl

/-- The holdoff of the wake band ends 1.75 ms after its last traffic (R141). -/
theorem exec_wakeHoldoffExpiry {dt : Nat} {s : State} {a : Nat} (ha : (elapse dt s).span.wakeHold = some a) (lead : Option Nat) :
    exec (.wakeHoldoffExpiry dt lead) s = .next (if a + 1750000000 ≤ (elapse dt s).now then
      startOrDefer lead { elapse dt s with span.wakeHold := none, span.idle := inRun (elapse dt s) } else elapse dt s) := by
  show execWakeHoldoffExpiry dt lead s = _
  simp only [execWakeHoldoffExpiry, ha]
  rfl

/-- Settles O41. -/
theorem framesAreSent : Obligations.FramesAreSent := by
  intro dt f rest s
  have hbus := exec_busIdle dt s
  have hsent := @exec_frameSent dt s
  have hfault : ∀ bit, exec (.transmitFault dt bit) s = .next (if (elapse dt s).span.tx.isNone then elapse dt s
      else attemptFailed (countRetry (elapse dt s))) := fun _ => rfl
  have hloss : ∀ bit, exec (.arbitrationLoss dt bit) s = .next (if (elapse dt s).span.tx.isNone then elapse dt s
      else attemptFailed (countLoss bit (elapse dt s))) := fun _ => rfl
  have hwake : ∀ sync dsth dstl, exec (.wakeBandTraffic dt sync dsth dstl) s =
      .next (if inRun (elapse dt s) && syncClass sync == .wakeBand then wakeSeen dsth dstl (elapse dt s)
        else elapse dt s) := fun _ _ _ => rfl
  have hexp := @exec_wakeHoldoffExpiry dt s
  generalize elapse dt s = t at *
  intro _ rate begun hq hop hc ho hm hb hl hr
  have hrate : rate = txRate f t := rfl
  clear_value rate
  subst hrate
  refine ⟨fun hs hifs => ?_, fun hifs lead => ?_, fun hx => ?_, fun sync dsth dstl hrun h1 h2 => ?_, fun a ha => ⟨fun hw lead => ?_,
    fun hw hs => ?_⟩⟩
  · have hover : ifsOver t = true := decide_eq_true hifs
    have hgo : ∀ lead, exec (.busIdle dt lead) s = .next (startOrDefer lead { t with span.idle := true }) := fun lead => by
      rw [hbus, mayTransmit_of_mayStart hs, hover]
      rfl
    exact ⟨(hgo none).trans (congrArg Host.Outcome.next
        (startOrDefer_starts (t := { t with span.idle := true }) hq hl hr hs)),
      fun d => (hgo (some d)).trans (congrArg Host.Outcome.next
        (startOrDefer_defers (t := { t with span.idle := true }) hq hl hr hs d))⟩
  · have hover : ifsOver t = false := decide_eq_false (Nat.not_le.2 hifs)
    rw [hbus, hover, Bool.and_false]
    rfl
  · have hn : t.span.tx.isNone = false := by rw [hx]; rfl
    rw [hn] at hfault hloss
    refine ⟨?_, fun ha haddr => ⟨fun bit => (hfault bit).trans (congrArg Host.Outcome.next ?_), fun bit hbit =>
      (hloss bit).trans (congrArg Host.Outcome.next ?_), fun bit hbit => (hloss bit).trans (congrArg Host.Outcome.next ?_)⟩,
      fun ha bit => (hfault bit).trans (congrArg Host.Outcome.next ?_)⟩
    · rw [hsent hx]
      exact congrArg Host.Outcome.next (frameSent_quiet hq hop hc ho hm hb hx)
    · exact (attemptFailed_queue (t := countRetry t) hx).trans
        (queueFailed_retries (t := attemptEnded (countRetry t)) hq hop ha haddr)
    · refine Eq.trans ?_ ((attemptFailed_queue (t := countRetry t) hx).trans
        (queueFailed_retries (t := attemptEnded (countRetry t)) hq hop ha haddr))
      rw [countLoss_before hx hbit]
      rfl
    · refine Eq.trans ?_ ((attemptFailed_queue
          (t := countRetry { t with span.contests := bump t.span.contests, node.contest := true }) hx).trans
        (queueFailed_retries
          (t := attemptEnded (countRetry { t with span.contests := bump t.span.contests, node.contest := true })) hq hop ha haddr))
      rw [countLoss_after hbit]
      rfl
    · exact (attemptFailed_queue (t := countRetry t) hx).trans
        (queueFailed_drops (t := attemptEnded (countRetry t)) hq hop hc rfl ho hm hb ha)
  · have hcond : (inRun t && syncClass sync == .wakeBand) = true := by
      rw [syncClass_wake h1 h2, inRun, hrun]
      rfl
    rw [hwake, hcond]
    exact congrArg Host.Outcome.next (wakeSeen_eq dsth dstl t)
  · rw [hexp ha lead, if_neg (Nat.not_le.2 hw)]
  · have hgo : ∀ lead, exec (.wakeHoldoffExpiry dt lead) s =
        .next (startOrDefer lead { t with span.wakeHold := none, span.idle := inRun t }) := fun lead => by
      rw [hexp ha lead, if_pos hw]
    exact ⟨(hgo none).trans (congrArg Host.Outcome.next
        (startOrDefer_starts (t := { t with span.wakeHold := none, span.idle := inRun t }) hq hl hr hs)),
      fun d => (hgo (some d)).trans (congrArg Host.Outcome.next
        (startOrDefer_defers (t := { t with span.wakeHold := none, span.idle := inRun t }) hq hl hr hs d))⟩

end Sys2Proof.Machine
end

section
/-!
PROOFS. Roll-call and claims (06, 14, R164 to R172, R371, R372): the slot window, the late window and the claims' holdoffs.
-/
namespace Sys2Proof.Machine

open Sys2Proof.Claims

-- Proofs in parallel hold one thread each, and a text this long would have more of them than the check has room for.
set_option Elab.async false

/-! ## The query (R164) -/

theorem rollArgs_query (b0 b1 count kind : Byte) :
    rollArgs [0x00, 0x09, 0x04, b0, b1, count, kind] = some [b0, b1, count, kind] := by
  simp only [rollArgs, layout_verb]
  rfl

theorem chkRollcall_fine {base : W16} {count kind : Byte} (hk : kind.toNat ≤ 3) (h1 : 1 ≤ base.toNat)
    (h2 : base.toNat + count.toNat ≤ 0x0FFF) : chkRollcall base count kind = stOk := by
  have h0 : (base == 0) = false := beq_eq_false_iff_ne.2 (by rintro rfl; exact absurd h1 (by decide))
  rw [chkRollcall, h0, decide_eq_false (show ¬ kind.toNat > 3 by omega), decide_eq_false (by omega)]
  rfl

theorem inRollRange_iff (base n : Nat) (t : State) :
    (inRollRange base (n + 1) t = true) = (t.cfg.addr ≠ 0 ∧ base ≤ t.cfg.addr.toNat ∧ t.cfg.addr.toNat ≤ base + n) := by
  rw [inRollRange, Bool.and_eq_true, Bool.and_eq_true, decide_eq_true_eq, decide_eq_true_eq, and_assoc, ← Nat.add_assoc,
    Nat.lt_succ_iff, unaddressed, Bool.not_eq_true', beq_eq_false_iff_ne]

/-- The roll-call that a query opens (R166). -/
abbrev rollOf (x : RingSlot) (base : Nat) (count kind : Byte) (t : State) : RollCall :=
  { src := x.src, seq := x.seq, base := base, count := count.toNat + 1, kind := kind.toNat, rate := x.rate, t0 := x.closed,
    anchor := x.closed, anchorSlot := none, readyAt := none,
    slot := if t.cfg.addr ≠ 0 ∧ base ≤ t.cfg.addr.toNat ∧ t.cfg.addr.toNat ≤ base + count.toNat
      then some (t.cfg.addr.toNat - base) else none,
    frame := none, phase := .window }

theorem beginRoll_query {x : RingSlot} {b0 b1 count kind : Byte} {t : State} (hd : x.dst = 0)
    (hb : x.body = [0x00, 0x09, 0x04, b0, b1, count, kind]) (hk : kind.toNat ≤ 3) (h1 : 1 ≤ b0.toNat + 256 * b1.toNat)
    (h2 : b0.toNat + 256 * b1.toNat + count.toNat ≤ 0x0FFF) :
    beginRoll x t = { t with span.roll := some (rollOf x (b0.toNat + 256 * b1.toNat) count kind t) } := by
  have hbase : fieldLe [b0, b1, count, kind] 0 2 = b0.toNat + 256 * b1.toNat := rfl
  have hcount : fieldLe [b0, b1, count, kind] 2 1 = count.toNat := rfl
  have hkind : fieldLe [b0, b1, count, kind] 3 1 = kind.toNat := rfl
  have hn : (BitVec.ofNat 16 (b0.toNat + 256 * b1.toNat)).toNat = b0.toNat + 256 * b1.toNat := by
    rw [BitVec.toNat_ofNat, Nat.mod_eq_of_lt (by omega)]
  have hchk : ¬ chkRollcall (BitVec.ofNat 16 (b0.toNat + 256 * b1.toNat)) count kind ≠ stOk :=
    not_not.2 (chkRollcall_fine hk (by rw [hn]; exact h1) (by rw [hn]; exact h2))
  have hq : ¬ (x.dst ≠ 0 ∨ x.body.length < 7) := by
    rw [hd, hb]
    show ¬ ((0 : W16) ≠ 0 ∨ 7 < 7)
    decide
  rw [beginRoll, if_neg hq, hb, rollArgs_query]
  simp only [hbase, hcount, hkind]
  rw [if_neg (by exact hchk)]
  simp only [inRollRange_iff]

/-- A frame that passes the checks of a broadcast query is delivered, and opens its roll-call (R151, R164). -/
theorem closeMatched_query {f : RxFrame} {b0 b1 count kind s0 s1 q0 q1 c0 c1 : Byte} {t : State}
    (hr : t.span.ring.length < 16) (hbr : f.broken = false) (hk : kind.toNat ≤ 3)
    (hc : f.chars = [0, 0, s0, s1, q0, q1, 7, 0x00, 0x09, 0x04, b0, b1, count, kind, c0, c1]) (hcrc : crc16 f.chars = 0)
    (h1 : 1 ≤ b0.toNat + 256 * b1.toNat) (h2 : b0.toNat + 256 * b1.toNat + count.toNat ≤ 0x0FFF) :
    let x : RingSlot := { dst := 0, src := be16 f.chars 2, seq := be16 f.chars 4, body := (f.chars.drop 7).take 7,
                          stamp := wtAgo f.ago t, rate := f.rate, kind := .broadcast,
                          closed := t.now + 1000000000000 / (2 * f.rate) }
    closeMatched f .broadcast t = { t with
      span.ring := t.span.ring ++ [x], span.lastRate := f.rate, span.held := some f.rate
      span.roll := some (rollOf x (b0.toNat + 256 * b1.toNat) count kind t) } := by
  intro x
  have hlen : (f.chars.getD 6 0).toNat = 7 := by rw [hc]; rfl
  have hn : f.chars.length = 16 := by rw [hc]; rfl
  have htake : f.chars.take 16 = f.chars := by rw [← hn, List.take_length]
  have hclose : closeMatched f .broadcast t = deliver { f with chars := f.chars.take 16 } .broadcast t := by
    simp only [closeMatched, hlen, hn, hbr, htake, hcrc]
    rfl
  have hring : ¬ t.span.ring.length ≥ Config.ringSlots := Nat.not_le.2 hr
  have hdst : be16 f.chars 0 = 0 := by
    rw [hc]
    show BitVec.ofNat 16 ((0 : Byte).toNat * 256 + (0 : Byte).toNat) = 0
    decide
  rw [hclose, htake, deliver, if_neg hring]
  simp only [hlen, hdst]
  exact beginRoll_query (x := x) (t := { t with
    span.ring := t.span.ring ++ [x], span.lastRate := f.rate, span.held := some f.rate }) rfl (by rw [show x.body = (f.chars.drop 7).take 7 from rfl, hc]; rfl) hk h1 h2

/-- A frame's close is received where the receiver was on, at an arbitrated rate (R68, R130). -/
theorem closeFrame_query {f : RxFrame} {b0 b1 count kind s0 s1 q0 q1 c0 c1 : Byte} {t : State} (hm : t.pw.mode = .run)
    (hf : t.pw.fosc = true) (hl : t.pw.lockAt + f.ago ≤ t.now) (hs1 : 50000 ≤ f.sync) (hs2 : f.sync ≤ 1050000)
    (hroll : t.span.roll = none)
    (hc : f.chars = [0, 0, s0, s1, q0, q1, 7, 0x00, 0x09, 0x04, b0, b1, count, kind, c0, c1]) :
    closeFrame 0 f t = closeMatched f .broadcast (busHeard f.rate 0 t) := by
  have hon : receives f.ago t = true := by
    rw [receives, inRun, hm, hf, decide_eq_true hl]
    rfl
  have hsync : syncClass f.sync = .arbitrated := if_pos ⟨hs1, hs2⟩
  have hanchor : anchorStep f (busSeen f.rate 0 t) = busHeard f.rate 0 t := by
    have hr : (busSeen f.rate 0 t).span.roll = none := hroll
    rw [anchorStep, hr]
    rfl
  have hmatch : ∀ u, matchOf (f.chars.getD 0 0) (f.chars.getD 1 0) u = some .broadcast := fun u => by rw [hc]; rfl
  have hlen : ¬ f.chars.length < 2 := by rw [hc]; exact (show ¬ 16 < 2 by decide)
  simp only [closeFrame, hon, hsync, hanchor, hmatch, if_neg hlen]
  rfl

/-! ## Its take-up (R172, R375) -/

theorem parseVerb_roll (q : Req) (b0 b1 count kind : Byte) : parseVerb q 0x09 [b0, b1, count, kind] =
    .inr (.rollcall q (BitVec.ofNat 16 (b0.toNat + 256 * b1.toNat)) count kind) := by
  have hf : fieldLe [b0, b1, count, kind] 0 2 = b0.toNat + 256 * b1.toNat := rfl
  exact congrArg (fun n => Sum.inr (Instr.rollcall q (BitVec.ofNat 16 n) count kind)) hf

theorem rollLen_le (kind : Byte) : rollLen kind ≤ 234 := by
  unfold rollLen
  split_ifs <;> decide

/-- ROLLCALL as a verb. -/
def rollVerb (base : W16) (count kind : Byte) : Verb where
  op := 0x09
  timed := false
  prot := false
  result := rollLen kind
  chk _ _ := chkRollcall base count kind
  eff _ s := s
  ans _ s := some (ansRollcall base count kind s)

/-- A query's clause is accepted as any other: it waits, for its reply to be made at once. -/
theorem takeUp_roll {x : RingSlot} {b0 b1 count kind : Byte} {t : State} (hs : x.seq = 0)
    (hb : x.body = [0x00, 0x09, 0x04, b0, b1, count, kind]) (hk : kind.toNat ≤ 3) (h1 : 1 ≤ b0.toNat + 256 * b1.toNat)
    (h2 : b0.toNat + 256 * b1.toNat + count.toNat ≤ 0x0FFF) : ∃ w, takeUp (reqOfSlot x) x.body t =
      { t with cl.ready := t.cl.ready ++ [w] } := by
  have hn : (BitVec.ofNat 16 (b0.toNat + 256 * b1.toNat)).toNat = b0.toNat + 256 * b1.toNat := by
    rw [BitVec.toNat_ofNat, Nat.mod_eq_of_lt (by omega)]
  have hchk : chkRollcall (BitVec.ofNat 16 (b0.toNat + 256 * b1.toNat)) count kind = stOk :=
    chkRollcall_fine hk (by rw [hn]; exact h1) (by rw [hn]; exact h2)
  have hc := checkVerb_passes (q := reqOfSlot x) (s := t)
    (v := rollVerb (BitVec.ofNat 16 (b0.toNat + 256 * b1.toNat)) count kind) rfl hchk hchk false
  rw [hb]
  exact ⟨_, takeUp_verb_unsequenced (parseVerb_roll _ b0 b1 count kind) rfl (rollLen_le kind) rfl hc rfl rfl rfl hs⟩

/-- The reply's frame (R375). -/
abbrev rollReply (r : RollCall) (t : State) : OutFrame :=
  { dst := r.src, src := t.cfg.addr, seq := t.span.seq, rate := r.rate, op := 0xFE, attempts := 0, clause := none,
    body := [0x80] ++ leBytes 2 r.seq.toNat ++ rollBytes r.kind t }

/-- A reply that is made: its frame, and the SEQ and the SKIP marks it uses (R157, Table 14-4). -/
theorem rollReady_makes {r : RollCall} {k : Nat} {t : State} (hr : t.span.roll = some r) (hs : r.slot = some k)
    (hd : neverDst r.src = false) : rollReady false t = { t with
      span.seq := nextSeq t.span.seq
      span.skipMark := if r.kind = 1 then 0 else t.span.skipMark
      span.roll := some { r with readyAt := some t.now, frame := some (rollReply r t) } } := by
  have hmade : (r.slot.isNone || false || neverDst r.src) = false := by
    rw [hs, hd]
    rfl
  simp only [rollReady, hr]
  rw [hmade, if_neg Bool.false_ne_true]
  simp only [rollFrame, takeSeq, rollRead]
  by_cases hk : r.kind = 1
  · rw [if_pos hk, if_pos hk]
    rfl
  · rw [if_neg hk, if_neg hk]
    rfl

theorem neverDst_requester {a : W16} (h1 : 0x2000 ≤ a.toNat) (h2 : a.toNat ≤ 0x2FFF) : neverDst a = false := by
  have h0 : a ≠ 0 := by rintro rfl; exact absurd h1 (by decide)
  have hf : a ≠ 0xFFFF := by rintro rfl; exact absurd h2 (by decide)
  rw [neverDst, beq_eq_false_iff_ne.2 h0, beq_eq_false_iff_ne.2 hf, beq_eq_false_iff_ne.2 (by omega)]
  rfl

/-- The take-up of a query makes the reply ready and restarts REST_HOLD (R76, R172). -/
theorem takeRoll_makes {x : RingSlot} {r : RollCall} {k : Nat} {b0 b1 count kind : Byte} {t : State}
    (hr : t.span.roll = some r) (hk : r.slot = some k) (hd : neverDst r.src = false) (hs : x.seq = 0)
    (hb : x.body = [0x00, 0x09, 0x04, b0, b1, count, kind]) (h3 : kind.toNat ≤ 3) (h1 : 1 ≤ b0.toNat + 256 * b1.toNat)
    (h2 : b0.toNat + 256 * b1.toNat + count.toNat ≤ 0x0FFF) : takeRoll x t = { t with
      span.seq := if t.span.seq = 0xFFFF then 1 else t.span.seq + 1
      span.skipMark := if r.kind = 1 then 0 else t.span.skipMark
      pw.restDue := t.now + Config.msPs * t.cfg.restHold
      pw.restFree := false
      span.roll := some { r with readyAt := some t.now, frame := some (rollReply r t) } } := by
  obtain ⟨w, hw⟩ := takeUp_roll (t := t) hs hb h3 h1 h2
  have hlen : (t.cl.ready ++ [w]).length > t.cl.ready.length := by rw [List.length_append]; exact Nat.lt_succ_self _
  have h6 : (x.body.getD 0 0).getLsbD 6 = false := by
    rw [hb]
    show (0 : Byte).getLsbD 6 = false
    decide
  have hdrop : (t.cl.ready ++ [w]).dropLast = t.cl.ready := List.dropLast_concat
  rw [takeRoll, hw, h6]
  simp only [hdrop]
  rw [if_pos (by exact hlen), rollReady_makes (t := restartHold { t with cl.ready := t.cl.ready }) hr hk hd, nextSeq_eq]
  rfl

theorem exec_takeRoll {dt : Nat} {s : State} {x : RingSlot} {rest : List RingSlot} {r : RollCall}
    (ht : takesUp (elapse dt s) = true) (hx : (elapse dt s).span.ring = x :: rest) (hr : (elapse dt s).span.roll = some r)
    (hsub : (elapse dt s).svc.submitted = false) (h1 : x.src = r.src) (h2 : x.seq = r.seq) (h3 : x.closed = r.t0)
    (h4 : r.readyAt = none) :
    exec (.clauseTakeUp dt) s = .next (takeRoll x { elapse dt s with span.ring := rest }) := by
  have hw : submissionWaits (elapse dt s) = false := by
    rw [submissionWaits, hsub]
    rfl
  have hq : rollQuery x { elapse dt s with span.ring := rest } = true := by
    simp only [rollQuery, hr, h1, h2, h3, h4, beq_self_eq_true]
    rfl
  show execClauseTakeUp dt s = _
  simp only [execClauseTakeUp, hx, ht, hw, hq, Bool.not_false, Bool.or_true, Bool.and_self, if_true]
  rfl

/-! ## The slot (R169 to R171) -/

/-- What SLOT_REPLY_START does with the node's slot `k` (R169, R170). -/
theorem exec_slotReplyStart {dt : Nat} {s : State} {r : RollCall} {k : Nat} (hr : (elapse dt s).span.roll = some r) (hk : r.slot = some k)
    (busy recessive edge : Bool) : exec (.slotReplyStart dt busy recessive edge) s =
      .next (if r.phase = .window ∧ (slotStart r k).1 ≤ (elapse dt s).now ∧ inRun (elapse dt s) = true ∧ busy = false then
          if slotLost r k recessive edge (elapse dt s) then
            { elapse dt s with span.roll := some { r with phase := .yielded } }
          else startSlot r (elapse dt s)
        else elapse dt s) := by
  show execSlotReplyStart dt busy recessive edge s = _
  simp only [execSlotReplyStart, hr, hk]
  rfl

section

variable {t : State} {r : RollCall} {k : Nat}

/-- A reply that is ready, at its instant, on a recessive bus. -/
theorem slotLost_false {f : OutFrame} {a : Nat} (hf : r.frame = some f) (ha : r.readyAt = some a)
    (hready : a + 11 * 1000000000000 / r.rate ≤ (slotStart r k).1) (hs : MayStart t) (hlen : (slotStart r k).2 ≤ 20000)
    (hn : t.nv.running = none) (hlate : t.now ≤ (slotStart r k).1 + 1000000000000 / (2 * r.rate) / 2) :
    slotLost r k true false t = false := by
  have h1 : decide ((slotStart r k).2 > 20000) = false := decide_eq_false (Nat.not_lt.2 hlen)
  have h2 : npBlocked t = false := by rw [npBlocked, hn]; rfl
  have h3 : decide ((slotStart r k).1 + halfBit r.rate / 2 < t.now) = false := decide_eq_false (Nat.not_lt.2 hlate)
  have h4 : decide (a + bitsPs r.rate (charBits 1) > (slotStart r k).1) = false := decide_eq_false (Nat.not_lt.2 hready)
  simp only [slotLost, h1, h2, h3, h4, mayTransmit_of_mayStart hs, hf, ha]
  rfl

theorem slotLost_edge (recessive : Bool) : slotLost r k recessive true t = true := by
  simp only [slotLost, Bool.or_true, Bool.true_or]

theorem slotLost_dominant (edge : Bool) : slotLost r k false edge t = true := by
  simp only [slotLost, Bool.not_false, Bool.or_true, Bool.true_or]

/-- The slot reply's attempt. -/
theorem startSlot_begins {f : OutFrame} (hf : r.frame = some f) : startSlot r t = { t with
    span.tx := some .slot, span.txAt := t.now, span.idle := false
    span.roll := some { r with phase := .slotSent, frame := some (attempt t f) } } := by
  rw [startSlot, hf, Option.map_some, tried_ownSrc]
  rfl

end

theorem exec_frameSent_slot {dt : Nat} {s : State} {r : RollCall} {f : OutFrame} (hr : (elapse dt s).span.roll = some r)
    (hf : r.frame = some f) (hx : (elapse dt s).span.tx = some .slot) : exec (.frameSent dt) s =
      .next { attemptEnded (elapse dt s) with
        span.busRate := some (txRate f (elapse dt s))
        span.roll := some { r with frame := none, phase := .slotSent } } := by
  have htx : txFrame (elapse dt s) = some f := by
    rw [txFrame, hx]
    exact (congrArg (·.bind (·.frame)) hr).trans hf
  show execFrameSent dt s = _
  simp only [execFrameSent, hx, htx, hr]
  rfl

/-- A loss in the slot before SRC is over yields it and counts nothing (R171). -/
theorem attemptFailed_slot {t : State} {r : RollCall} {bit : Nat} (hr : t.span.roll = some r) (hx : t.span.tx = some .slot)
    (hb : bit < 55) : attemptFailed (countLoss bit t) = { attemptEnded t with
      span.roll := some { r with phase := .yielded } } := by
  have hn : ¬ bit ≥ bitsThroughSrc := Nat.not_le.2 hb
  rw [countLoss, if_neg hn, if_pos hx]
  simp only [attemptFailed, hx, hr]
  rfl

/-! ## The late window (R167, R172) -/

section

variable {dt : Nat} {s : State}

/-- A node whose slot is done, or that has none, leaves the roll-call at TL (R167). -/
theorem exec_lateWindowOpen_done {r : RollCall} (hr : (elapse dt s).span.roll = some r) (hTl : rollTl r ≤ (elapse dt s).now)
    (hx : (elapse dt s).span.tx = none) (hi : (elapse dt s).span.idle = false) (hd : r.slot = none ∨ r.phase = .slotSent) :
    exec (.lateWindowOpen dt) s = .next { elapse dt s with span.roll := none } := by
  have h1 : ¬ ((elapse dt s).now < rollTl r ∨ (elapse dt s).span.tx.isSome = true) := by
    rw [hx]
    exact not_or.2 ⟨Nat.not_lt.2 hTl, by decide⟩
  have h2 : r.slot.isNone = true ∨ r.phase = .slotSent := by rwa [Option.isNone_iff_eq_none]
  show execLateWindowOpen dt s = _
  simp only [execLateWindowOpen, hr, if_neg h1, if_pos h2]
  exact congrArg Host.Outcome.next (sendIdle_busy (by exact hi))

/-- One whose reply is late goes on to the late window, once no NV block is in the way (R172, R203). -/
theorem exec_lateWindowOpen_late {r : RollCall} {f : OutFrame} (hr : (elapse dt s).span.roll = some r)
    (hTl : rollTl r ≤ (elapse dt s).now) (hx : (elapse dt s).span.tx = none) (hs : r.slot.isSome = true)
    (hp : r.phase ≠ .slotSent) (hf : r.frame = some f) :
    exec (.lateWindowOpen dt) s = .next (if npBlocked (elapse dt s) then elapse dt s else openLate r f (elapse dt s)) := by
  have h1 : ¬ ((elapse dt s).now < rollTl r ∨ (elapse dt s).span.tx.isSome = true) := by
    rw [hx]
    exact not_or.2 ⟨Nat.not_lt.2 hTl, by decide⟩
  have h2 : ¬ (r.slot.isNone = true ∨ r.phase = .slotSent) := by
    rw [Option.isNone_iff_eq_none, not_or]
    exact ⟨Option.isSome_iff_ne_none.1 hs, hp⟩
  show execLateWindowOpen dt s = _
  simp only [execLateWindowOpen, hr, if_neg h1, if_neg h2, hf]
  rfl

/-- A late reply draws its holdoff from TL, or from the end of an NV block that came later (R172, R203). -/
theorem openLate_draws (r : RollCall) (f : OutFrame) (t : State) : openLate r f t = { t with
    draws := t.draws + 1, span.roll := none
    span.lates := t.span.lates ++ [{
      frame := f, offered := false, begunAt := none, cancelled := false
      due := max (rollTl r) (t.nv.lastEnd.getD 0) + 10000000 * (Config.draw t.draws % (10 * r.count + 1))
      limit := rollTl r + 100000000 * r.count + 100000000000 }] } := by
  have hl : lateLimit r = rollTl r + 100000000 * r.count + 100000000000 := by
    simp only [lateLimit, Config.usPs]
    omega
  simp only [openLate, drawN, endRoll, hl]
  rfl

end

section

variable {t : State} {l : LateReply}

/-- A lone late reply, offered on an idle bus, starts (R152). -/
theorem sendIdle_late (hl : t.span.lates = [l]) (ho : l.offered = true) (hr : t.span.roll = none) (hi : t.span.idle = true)
    (hs : MayStart t) : sendIdle t = { t with
      span.tx := some .late, span.txAt := t.now, span.idle := false
      span.lates := [{ l with frame := attempt t l.frame, begunAt := some (l.begunAt.getD t.now) }] } := by
  have htake : takeLate t.span.lates = some (l, []) := by
    rw [hl]
    exact if_pos ho
  have hnext : nextStart t = some (.late, l.frame) := by
    simp only [nextStart, nextLate, htake, Option.map_some, windowHolds, hr]
    rfl
  rw [sendIdle, hi, mayTransmit_of_mayStart hs]
  simp only [startNext, hnext, htake, Bool.and_self, if_true, LateReply.begin, tried_ownSrc]
  rfl

/-- A late reply that did not start by its limit is dropped and counted (R156, R172). -/
theorem cancelWaiting_drops (hl : t.span.lates = [l]) (hlim : l.limit ≤ t.now) (hb : l.begunAt = none) (hop : l.frame.op = 0xFE) :
    cancelWaiting 0 t = { t with span.lates := [], span.txDropped := bump t.span.txDropped, span.lastDrop := 0xFE } := by
  have hover : lateOver t.now l = true := by
    rw [lateOver, hb, decide_eq_true hlim]
    rfl
  simp only [cancelWaiting, hl, List.drop_zero, List.take_zero, List.filter_cons, hover, if_true, List.filter_nil,
    Bool.not_true, Bool.false_eq_true, if_false, List.append_nil, List.foldl_cons, List.foldl_nil, countDrop, hop]

/-- The reply in its attempt is no waiting one. -/
theorem cancelWaiting_sending (hl : t.span.lates = [l]) : cancelWaiting 1 t = t := by
  simp only [cancelWaiting, hl, List.drop_succ_cons, List.drop_zero, List.take_succ_cons, List.take_zero, List.filter_nil,
    List.append_nil, List.foldl_nil]
  rw [← hl]

theorem cancelRoll_none (hr : t.span.roll = none) : cancelRoll t = t := by
  simp only [cancelRoll, hr]

/-- A reply that began in time is not cancelled. -/
theorem cancelSending_inTime {b : Nat} (hl : t.span.lates = [l]) (hb : l.begunAt = some b) (h : b ≤ l.limit) :
    cancelSending t = t := by
  have hover : lateOver t.now l = false := by
    rw [lateOver, hb]
    simp only [decide_eq_false (Nat.not_lt.2 h), Bool.and_false]
  simp only [cancelSending, hl, hover, Bool.not_false, if_true]

section

variable {b : Nat} (hl : t.span.lates = [l]) (hb : l.begunAt = some b) (h1 : l.limit < b) (h2 : l.limit ≤ t.now)
include hb h1 h2

theorem lateOver_begun : lateOver t.now l = true := by
  rw [lateOver, hb]
  simp only [decide_eq_true h1, decide_eq_true h2, Bool.and_self]

include hl

/-- Before its commit point a late reply stops (Table 6-6). -/
theorem cancelSending_stops (hop : l.frame.op = 0xFE) (hc : t.now / 6250 < commitPoint l.frame t / 6250) :
    cancelSending t = { t with
      span.lates := [], span.txDropped := bump t.span.txDropped, span.lastDrop := 0xFE
      span.tx := none, span.idle := false, span.quietFrom := t.now } := by
  have hover := lateOver_begun hb h1 h2
  have hc' : t.now / Config.foscPs < commitPoint l.frame t / Config.foscPs := hc
  simp only [cancelSending, hl, hover, Bool.not_true, Bool.false_eq_true, if_false, if_pos hc', countDrop, endLate, hop,
    List.drop_succ_cons, List.drop_zero]

/-- From its commit point on it goes out, and is counted then (Table 6-6). -/
theorem cancelSending_goesOut (hc : commitPoint l.frame t / 6250 ≤ t.now / 6250) :
    cancelSending t = { t with span.lates := [{ l with cancelled := true }] } := by
  have hover := lateOver_begun hb h1 h2
  have hc' : ¬ t.now / Config.foscPs < commitPoint l.frame t / Config.foscPs := Nat.not_lt.2 hc
  simp only [cancelSending, hl, hover, Bool.not_true, Bool.false_eq_true, if_false, if_neg hc']

end

end

theorem exec_lateReplyCancel (dt : Nat) (s : State) : exec (.lateReplyCancel dt) s =
    .next (sendIdle (if (elapse dt s).span.tx = some .late then cancelSending (cancelRoll (cancelWaiting 1 (elapse dt s)))
      else cancelRoll (cancelWaiting 0 (elapse dt s)))) := rfl

theorem sendIdle_sending {t : State} (h : t.span.tx ≠ none) : sendIdle t = t := by
  rw [sendIdle, mayTransmit_sending h, Bool.and_false]
  rfl

theorem exec_lateReplyHoldoff (dt : Nat) (s : State) : exec (.lateReplyHoldoff dt) s =
    .next (if npBlocked (elapse dt s) then elapse dt s else
      sendIdle { elapse dt s with span.lates := (elapse dt s).span.lates.map (offerLate (elapse dt s).now) }) := rfl

theorem exec_frameSent_late {dt : Nat} {s : State} {l : LateReply} (hl : (elapse dt s).span.lates = [l])
    (hx : (elapse dt s).span.tx = some .late) (hc : l.cancelled = true) : exec (.frameSent dt) s =
      .next { attemptEnded (elapse dt s) with
        span.busRate := some (txRate l.frame (elapse dt s)), span.lates := []
        span.sentAfterCancel := bump (elapse dt s).span.sentAfterCancel } := by
  have htx : txFrame (elapse dt s) = some l.frame := by
    rw [txFrame, hx]
    exact congrArg (fun x : List LateReply => x.head?.map (·.frame)) hl
  show execFrameSent dt s = _
  simp only [execFrameSent, hx, htx, lateSent, hl, hc, if_true, endLate]
  rfl

/-! ## Claims (R371, R372) -/

theorem exec_claimHoldoff {dt : Nat} {s : State} {c : ClaimWait} {rest : List ClaimWait}
    (hc : (elapse dt s).span.claims = c :: rest) (hd : c.due ≤ (elapse dt s).now) (hb : c.body ≠ [])
    (hid : ∀ x ∈ rest, x.id ≠ c.id) (hm : (elapse dt s).pw.mode = .run) (hn : (elapse dt s).nv.running = none) :
    exec (.claimHoldoff dt) s = .next (sendReply c.req c.body (claimSrc c.req (elapse dt s)) c.id
      { elapse dt s with span.claims := rest }) := by
  have hgo : (npBlocked (elapse dt s) || !inRun (elapse dt s)) = false := by
    rw [npBlocked, hn, inRun, hm]
    rfl
  have hfirst : claimDue (elapse dt s) = some c := by
    have hcond : (decide (c.due ≤ (elapse dt s).now) && !c.body.isEmpty) = true := by
      rw [decide_eq_true hd, List.isEmpty_eq_false_iff.2 hb]
      rfl
    rw [claimDue, hc, List.find?_cons, hcond]
  have hrest : (c :: rest).filter (fun x => x.id != c.id) = rest := by
    rw [List.filter_cons, if_neg (by rw [bne_self_eq_false]; decide)]
    exact List.filter_eq_self.2 fun x hx => bne_iff_ne.2 (hid x hx)
  show execClaimHoldoff dt s = _
  simp only [execClaimHoldoff, hgo, hfirst, hc, hrest]
  rfl

/-- Where a claim's reply comes from (R372). -/
theorem claimSrc_eq (q : Req) (t : State) :
    claimSrc q t = if q.mbox = .svc then 0xFFFE else if t.cfg.addr = 0 then 0xFFFF else t.cfg.addr := by
  unfold claimSrc replySrc unaddressed
  cases q.mbox with
  | svc => rfl
  | span => by_cases ha : t.cfg.addr = 0 <;> simp [ha]

/-! ## O42 -/

/-- Settles O42. -/
theorem rollCallRuns : Obligations.RollCallRuns := by
  intro dt s
  have hcu := @exec_takeRoll dt s
  have hslot := @exec_slotReplyStart dt s
  have hfs := @exec_frameSent_slot dt s
  have hloss : ∀ bit, exec (.arbitrationLoss dt bit) s = .next (if (elapse dt s).span.tx.isNone then elapse dt s
      else attemptFailed (countLoss bit (elapse dt s))) := fun _ => rfl
  have hdone := @exec_lateWindowOpen_done dt s
  have hlate := @exec_lateWindowOpen_late dt s
  have hhold := exec_lateReplyHoldoff dt s
  have hcancel := exec_lateReplyCancel dt s
  have hfl := @exec_frameSent_late dt s
  have hclaim := @exec_claimHoldoff dt s
  have hclose : ∀ f, exec (.spanlineFrameClose dt f) s = .next (closeFrame 0 f (elapse dt s)) := fun _ => rfl
  generalize elapse dt s = t at *
  intro _ dropped
  refine ⟨?_, fun r hr => ⟨fun x rest b0 b1 count kind k hx h1 h2 h3 h4 hk ha hs hsrc1 hsrc2 hb hkind hb1 hb2 hm hn hq ho hv hsub => ?_,
      fun k a f hk hp hst hm => ?_, fun f hf hx => ⟨?_, fun bit hbit => ?_⟩, fun hTl hx hi hd => ?_,
      fun f hTl hx hs hp hf => ⟨fun hn => ?_, fun hn => ?_⟩⟩,
    fun l hl hr => ⟨fun hd hn => ⟨fun hi => ?_, fun hi hs => ?_⟩, fun hlim hb hop hx hi => ?_, ?_⟩,
    fun c rest hc hd hb hid hm hn => ?_⟩
  · intro f b0 b1 count kind s0 s1 q0 q1 c0 c1 hm hf hl hs1 hs2 hroll hring hbr hk hc hcrc base h1 h2 t0
    rw [hclose, closeFrame_query hm hf hl hs1 hs2 hroll hc]
    exact congrArg Host.Outcome.next (closeMatched_query (t := busHeard f.rate 0 t) hring hbr hk hc hcrc h1 h2)
  · rw [hcu (takesUp_true hm hn hq ho hv) hx hr hsub h1 h2 h3 h4]
    exact congrArg Host.Outcome.next (takeRoll_makes (t := { t with span.ring := rest }) hr hk
      (by rw [← h1]; exact neverDst_requester hsrc1 hsrc2) hs hb hkind hb1 hb2)
  · have hrun : inRun t = true := beq_iff_eq.2 hm
    have hgo : ∀ recessive edge, exec (.slotReplyStart dt false recessive edge) s =
        .next (if slotLost r k recessive edge t then { t with span.roll := some { r with phase := .yielded } }
          else startSlot r t) := fun recessive edge => by
      rw [hslot hr hk, if_pos ⟨hp, hst, hrun, rfl⟩]
    refine ⟨?_, fun hf ha hready hs hlen hn hnow => ?_, ?_, ?_⟩
    · rw [hslot hr hk, if_neg fun h => absurd h.2.2.2 (by decide)]
    · rw [hgo, slotLost_false hf ha hready hs hlen hn hnow]
      exact congrArg Host.Outcome.next (startSlot_begins hf)
    · rw [hgo, slotLost_edge]
      rfl
    · rw [hgo, slotLost_dominant]
      rfl
  · exact hfs hr hf hx
  · rw [hloss, hx]
    exact congrArg Host.Outcome.next (attemptFailed_slot hr hx hbit)
  · exact hdone hr hTl hx hi hd
  · rw [hlate hr hTl hx hs hp hf, npBlocked, Option.isSome_iff_ne_none.2 hn]
    rfl
  · refine ⟨Config.draw t.draws % (10 * r.count + 1), Nat.le_of_lt_succ (Nat.mod_lt _ (Nat.succ_pos _)), ?_⟩
    rw [hlate hr hTl hx hs hp hf, npBlocked, hn, openLate_draws]
    rfl
  · have hoff : t.span.lates.map (offerLate t.now) = [{ l with offered := true }] := by
      rw [hl, List.map_cons, List.map_nil, offerLate, if_pos hd]
    rw [hhold, npBlocked, hn, hoff]
    exact congrArg Host.Outcome.next (sendIdle_busy (by exact hi))
  · have hoff : t.span.lates.map (offerLate t.now) = [{ l with offered := true }] := by
      rw [hl, List.map_cons, List.map_nil, offerLate, if_pos hd]
    rw [hhold, npBlocked, hn, hoff]
    exact congrArg Host.Outcome.next (sendIdle_late (t := { t with span.lates := [{ l with offered := true }] })
      (l := { l with offered := true }) rfl rfl hr hi hs)
  · rw [hcancel, hx, if_neg (by decide), cancelWaiting_drops hl hlim hb hop, cancelRoll_none (by exact hr),
      sendIdle_busy (by exact hi)]
  · intro b hx hb hop rate commit
    refine ⟨fun hin => ?_, fun h1 h2 => ⟨fun hc => ?_, fun hc => ?_⟩, fun hcan => ?_⟩
    · rw [hcancel, hx, if_pos rfl, cancelWaiting_sending hl, cancelRoll_none hr, cancelSending_inTime hl hb hin,
        sendIdle_sending (by rw [hx]; decide)]
    · rw [hcancel, hx, if_pos rfl, cancelWaiting_sending hl, cancelRoll_none hr, cancelSending_stops hl hb h1 h2 hop hc]
      exact congrArg Host.Outcome.next (sendIdle_busy rfl)
    · rw [hcancel, hx, if_pos rfl, cancelWaiting_sending hl, cancelRoll_none hr, cancelSending_goesOut hl hb h1 h2 hc]
      exact congrArg Host.Outcome.next (sendIdle_sending (by rw [show _ = t.span.tx from rfl, hx]; decide))
    · exact hfl hl hx hcan
  · rw [hclaim hc hd hb hid hm hn, claimSrc_eq]

end Sys2Proof.Machine
end

section
/-!
PROOFS. Boundaries of a quiet node (01, 07, 11, R15 to R24, R186, R187, R308, R309): where they fall, and what they change.
-/
namespace Sys2Proof.Machine

open Sys2Proof.Claims

-- Proofs in parallel hold one thread each, and a text this long would have more of them than the check has room for.
set_option Elab.async false

/-! ## Where a boundary falls (R15, R195, R308, R309) -/

theorem lockedT_wt {t : State} (h : t.ka.wt.toNat % t.cfg.frameValue = 0) : lockedT t = some t.ka.wt := if_pos h

/-- A slew has counted past a multiple of n (R195). -/
theorem lockedT_passed {t : State} {j : Jump} {l : List Jump} (h1 : t.ka.wt.toNat % t.cfg.frameValue ≠ 0)
    (h2 : (t.ka.wt.toNat - 1) % t.cfg.frameValue = 0) (hj : t.ka.jumps = j :: l) (hs : j.step = false) (hp : 0 < j.size)
    (ha : j.at_ = t.now - t.ka.sub) : lockedT t = some (t.ka.wt - 1) := by
  have hw : wtPassed t = true := by
    simp only [wtPassed, hj, hs, decide_eq_true (show j.size > 0 from hp), ha, beq_self_eq_true]
    rfl
  exact (if_neg h1).trans (if_pos ⟨hw, h2⟩)

theorem syncPeriod_unlocked {t : State} (h : t.rd.syncLocked = false) : syncPeriod t = false := by
  rw [syncPeriod, h]
  rfl

/-- A WT-locked boundary of a value not placed before. -/
theorem boundaryDue_locked {t : State} {v : W48} (hin : (inRun t && !(t.relay.on && t.relay.input == .receiving)) = true)
    (hs : t.rd.syncLocked = false) (hf : t.cfg.freeRun = false) (hst : t.ka.startIn = 0) (hv : lockedT t = some v)
    (hl : t.rd.lastT ≠ v) : boundaryDue t = true ∧ renderNow t = v := by
  have hd : clockDue t = true := by
    simp only [clockDue, hf, Bool.false_eq_true, if_false, hst, beq_self_eq_true, hv, beq_eq_false_iff_ne.2 hl, Bool.false_and,
      Bool.not_false, Bool.and_self]
  refine ⟨?_, ?_⟩
  · rw [boundaryDue, hin, syncPeriod_unlocked hs, hd]
    rfl
  · rw [renderNow, hf, syncPeriod_unlocked hs, hv]
    rfl

theorem boundaryDue_wt {t : State} (hin : (inRun t && !(t.relay.on && t.relay.input == .receiving)) = true)
    (h : WtBoundary t) : boundaryDue t = true ∧ renderNow t = t.ka.wt := by
  obtain ⟨hs, hf, -, hw, hst, hl⟩ := h
  exact boundaryDue_locked hin hs hf hst (lockedT_wt hw) hl

/-- Each way in which a boundary is placed. -/
theorem boundaryDue_placed {t : State} {r : W48} (hin : (inRun t && !(t.relay.on && t.relay.input == .receiving)) = true)
    (h : Placed r t) : boundaryDue t = true ∧ renderNow t = r := by
  rcases h with ⟨h, rfl⟩ | ⟨hs, hf, hst, h1, h2, hl, rfl, j, l, hj, hstep, hp, ha⟩ | ⟨hs, hf, hd, rfl⟩
    | ⟨hs, hh, hi, rfl, hd⟩
  · exact boundaryDue_wt hin h
  · exact boundaryDue_locked hin hs hf hst (lockedT_passed h1 h2 hj hstep hp ha) hl
  · refine ⟨?_, ?_⟩
    · rw [boundaryDue, hin, syncPeriod_unlocked hs, clockDue, hf, decide_eq_true hd]
      rfl
    · rw [renderNow, hf]
      rfl
  · have hsync : syncPeriod t = true := by
      rw [syncPeriod, hs, List.isEmpty_eq_false_iff.2 hi]
      rfl
    refine ⟨?_, ?_⟩
    · have hd' : t.rd.lastNow + meanInterval t ≤ t.now := hd
      rw [boundaryDue, hin, hsync, hh, decide_eq_true hd']
      rfl
    · rw [renderNow, hsync, Bool.or_true]
      rfl

/-! ## What a quiet boundary leaves as it is -/

theorem flipStep_none {t : W48} {u : State} (h : u.st.commit = none) : flipStep t u = u := by
  simp only [flipStep, h]

theorem bootSceneNow_past {t : W48} {u : State} (h : u.rd.bootScene = false) : bootSceneNow t u = u := by
  have hd : bootSceneDue u = false := by
    rw [bootSceneDue, h]
    rfl
  rw [bootSceneNow, hd]
  rfl

theorem eachPort_id {f : Port → State → State} {u : State} (h : ∀ p, f p u = u) : eachPort f u = u := by
  simp only [eachPort, allPorts, List.foldl_cons, List.foldl_nil, h]

/-- With nothing changed since the last boundary the map stays (R20). -/
theorem commitMap_unchanged {t : W48} {u : State} (hu : u.fail.unreach = 0) (hf : u.fail.fresh = false)
    (hc : u.fail.coming = 0) (hm : liveMap u = u.fail.map) : commitMap t u = u := by
  have hr : eachPort applyUnreach u = u := eachPort_id fun p => by
    rw [applyUnreach, hu]
    exact if_neg (by simp)
  have hseq : (Vector.ofFn fun i : Fin 4 => if ((0 : BitVec 16).toNat / 16 ^ i.val) % 16 = 0 then u.fail.fseq.get i
      else u.fail.fseqNext.get i) = u.fail.fseq := by
    ext i hi
    rw [Vector.getElem_ofFn, if_pos (by simp)]
    rfl
  have hlate : u.fail.late ||| u.fail.coming = u.fail.late := by rw [hc]; exact BitVec.or_zero
  have hmask : u.fail.mask ||| u.fail.coming = u.fail.mask := by rw [hc]; exact BitVec.or_zero
  have hp : takePages u = u := by
    simp only [takePages, hlate, hmask, ite_self]
    simp only [hc, hseq]
    rw [← hc]
  simp only [commitMap, hr, hp, hm, hf, Bool.false_eq_true, if_false, if_true]
  rw [← hu, ← hf]

theorem nextCfg_stored {u : State} (hr : u.relay.on = false) (p : Port) : nextCfg p u = u.cfg.ports.get p := by
  simp only [nextCfg, hr, Bool.false_eq_true, if_false]

/-- A port whose parameters are the stored ones is left alone (R283). -/
theorem reconfigure_same {u : State} {p : Port} (hr : u.relay.on = false) (hc : (u.ports.get p).cfg = u.cfg.ports.get p) :
    reconfigure p u = u := by
  simp only [reconfigure, nextCfg_stored hr, hc, true_or, if_true]

/-- With every port off the port condition of R461 holds. -/
theorem portSeen_off {u : State} (h : ∀ p : Port, (u.ports.get p).cfg.enable = false) : portSeen u = true := by
  have ha : (allPorts.all fun p => !(u.ports.get p).cfg.enable) = true :=
    List.all_eq_true.2 fun p _ => by rw [h p]; rfl
  rw [portSeen, ha, Bool.or_true]

theorem settle_quiet {t : W48} {u : State} (h : Quiet u) : settle t u = { u with fw.sawPort := true } := by
  obtain ⟨-, hr, -, hc, -, -, -, -, hu, hf, hm, hl, hp⟩ := h
  have hports : eachPort reconfigure u = u := eachPort_id fun p => reconfigure_same hr (hp p).2.1
  have hseen : portSeen u = true := portSeen_off fun p => by rw [(hp p).2.1]; exact (hp p).2.2
  simp only [settle, flipStep_none hc, commitMap_unchanged hu hf hm hl, hports, hseen, Bool.or_true]

theorem sendFrames_off {t : W48} {u : State} (h : ∀ p : Port, (u.ports.get p).state = .off) : sendFrames t u = u := by
  have hs : ∀ p, sendsData u (u.ports.get p) = false := fun p => by
    rw [sendsData, h p]
    exact Bool.and_false _
  have hb : ∀ p : Port, boundaryFrame p [] (u.now + 8 * Config.usPs) false u = u := fun p => by
    simp only [boundaryFrame, hs, Bool.not_false, if_true]
  rw [sendFrames]
  split
  · rfl
  · simp only [hs, Bool.false_eq_true, if_false, allPorts, List.map_cons, List.map_nil, List.foldl_cons, List.foldl_nil, hb]

theorem loadStep_off {u : State} (h : ∀ p : Port, (u.ports.get p).state = .off) : loadStep u = u := by
  have ha : anyRunning u = false := List.any_eq_false.2 fun p _ => by
    rw [pstate, h p]
    decide
  rw [loadStep, ha]
  rfl

/-- After its clauses a quiet boundary changes nothing (R22, R75, R196, R311). -/
theorem boundaryTail_quiet {t : W48} {u : State} (h : Quiet u) : correctStep (framesOrRest sendFrames t (pulse u)) = u := by
  obtain ⟨-, -, -, -, ho, hs, -, hc, -, -, -, -, hp⟩ := h
  have hoff : ∀ p : Port, (u.ports.get p).state = .off := fun p => (hp p).1
  have hready : restReady u = false := by
    simp only [restReady, ho, Bool.false_and]
  have hpulse : pulse u = u := if_neg hs
  rw [hpulse, framesOrRest, hready, if_neg Bool.false_ne_true, sendFrames_off hoff, loadStep_off hoff]
  simp only [correctStep, hc]

/-! ## Its clauses -/

/-- A boundary of a quiet node: what its clauses and their answers make of the state that has been placed. -/
theorem boundaryWith_quiet {r : W48} {t v : State} (h : Quiet t) {l : List Due}
    (hc : clauseSteps r (openBoundary r t) = (v, l)) (hv : Quiet v)
    (ha : Quiet (answerAll l { v with fw.sawPort := true })) :
    boundaryWith sendFrames r t = answerAll l { v with fw.sawPort := true } := by
  have hb : (openBoundary r t).rd.bootScene = false := h.2.2.1
  have hcm : (openBoundary r t).st.commit = none := h.2.2.2.1
  have he : boundaryEffects r t = answerAll l { v with fw.sawPort := true } := by
    simp only [boundaryEffects, bootSceneNow_past hb, flipStep_none hcm, hc, settle_quiet hv]
  rw [boundaryWith, he, boundaryTail_quiet ha]

/-- Clauses wait during an NV block (R24, R204). -/
theorem clauseSteps_blocked {r : W48} {u : State} (h : npBlocked u = true) : clauseSteps r u = (u, []) := by
  simp only [clauseSteps, timedStep, untimedStep, h, if_true]

theorem dueClauses_nil {r : W48} {u : State} (h : u.cl.timed = []) : dueClauses r u = [] := by
  rw [dueClauses, h]
  rfl

/-- Without clauses nothing takes effect. -/
theorem clauseSteps_none {r : W48} {u : State} (ht : u.cl.timed = []) (hr : u.cl.ready = []) : clauseSteps r u = (u, []) := by
  cases hb : npBlocked u with
  | true => exact clauseSteps_blocked hb
  | false =>
    have h1 : timedStep r (u, []) = (u, []) := by
      simp only [timedStep, hb, Bool.false_eq_true, if_false, dueClauses_nil ht, List.foldl_nil, ht, List.filter_nil]
      rw [← ht]
    rw [clauseSteps, h1]
    simp only [untimedStep, hb, Bool.false_eq_true, if_false, hr, List.foldl_nil]
    rw [← hr]

/-- A quiet boundary with no clause for it. -/
theorem boundaryWith_passes {r : W48} {t : State} (h : Quiet t)
    (hc : clauseSteps r (openBoundary r t) = (openBoundary r t, [])) : boundaryWith sendFrames r t = passed r t :=
  boundaryWith_quiet h hc h h

/-! ## LEVEL.SET at a boundary -/

/-- The lanes after a LEVEL.SET follow from the lanes before it. -/
theorem setLane_lanes_congr {z c : Nat} {k : Key} {f : Lane → Lane} {u v : State} (h : u.rd.lanes = v.rd.lanes) :
    (setLane z c k f u).rd.lanes = (setLane z c k f v).rd.lanes := by
  have hz : zoneLane u z c = zoneLane v z c := by simp only [zoneLane, h]
  simp only [setLane, hz, h]
  split
  · exact h
  · rfl

theorem setLanes_lanes_congr {zs cs : List Nat} {k : Key} {f : Lane → Lane} {u v : State} (h : u.rd.lanes = v.rd.lanes) :
    (setLanes zs cs k f u).rd.lanes = (setLanes zs cs k f v).rd.lanes := by
  have hzone : ∀ (cs : List Nat) (z : Nat) {u v : State}, u.rd.lanes = v.rd.lanes →
      (cs.foldl (fun s c => setLane z c k f s) u).rd.lanes = (cs.foldl (fun s c => setLane z c k f s) v).rd.lanes := by
    intro cs z
    induction cs with
    | nil => exact id
    | cons c cs ih => exact fun h => ih (setLane_lanes_congr h)
  unfold setLanes
  induction zs generalizing u v with
  | nil => exact h
  | cons z zs ih => exact ih (hzone cs z h)

/-- The boundary data of a clause's one verb. -/
abbrev bdAt (q : Req) (r : W48) (u pre : State) : Bd := bdOf q r { id := u.cl.nextId, idx := 0 } pre

/-- The clause of one LEVEL.SET takes effect at render time `r`: its lanes are written, REST_HOLD restarts, and its answer is
due (R19, R76). -/
theorem applyClause_levelSet {r : W48} {q : Req} {zone mask : Byte} {level : W16} {held : Bool} {at_ : Nat} {u : State}
    (hm : MaskOk mask) :
    let w : Queued := { req := q, verbs := [.levelSet q zone mask level], held := held, at_ := at_ }
    let o := openClause q w.verbs (lateStatus w r u) u
    applyClause r w (u, []) = (restartHold (effLevelSet zone mask level (bdAt q r u o) o),
      [(levelSetVerb zone mask level, bdAt q r u o)]) := by
  intro w o
  have hk : checkFrom true q r u.cl.nextId u 0 w.verbs { u with now := at_ } = none :=
    checkFrom_one verbOf_levelSet rfl (checkVerb_levelSet hm)
  simp only [applyClause, w, hk, effectsFrom, verbOf_levelSet, List.isEmpty_cons, List.nil_append]
  rfl

/-- Its answer closes the clause, with the clause's own status for OK (R179, R191). -/
theorem answerAll_levelSet {q : Req} {zone mask : Byte} {level : W16} {b : Bd} {late : Byte} {u v : State}
    (hb : b.tok = { id := u.cl.nextId, idx := 0 }) (hi : idsOk u.cl.waiting u.cl.nextId)
    (hw : v.cl.waiting = u.cl.waiting ++ [{ id := u.cl.nextId, req := q, entries := [{ op := 0x20, res := none }], late := late }]) :
    answerAll [(levelSetVerb zone mask level, b)] v =
      replyOr q false (replyBody q.seq [(0x20, late, [])]) u.cl.nextId (closeClause u.cl.nextId v) := by
  have ha : answerAll [(levelSetVerb zone mask level, b)] v = resolveNow { id := u.cl.nextId, idx := 0 } stOk [] v := by
    simp only [answerAll, List.foldl_cons, List.foldl_nil, hb]
    rfl
  rw [ha, resolveNow_last hw hi rfl]
  exact finishClause_one (op := 0x20) (by decide) (by decide)

/-! ## What a reply leaves as it is -/

theorem replyGone_frame (c : Option Nat) (s : State) :
    ∃ rr sr, replyGone c s = { s with pw.resetReq := rr, pw.shelfReq := sr } := by
  cases c with
  | none => exact ⟨_, _, rfl⟩
  | some id =>
    cases hr : s.pw.resetReq with
    | none =>
      simp only [replyGone, hr]
      split
      · exact ⟨_, _, rfl⟩
      · exact ⟨none, s.pw.shelfReq, by rw [← hr]⟩
    | some r =>
      simp only [replyGone, hr]
      split_ifs <;> exact ⟨_, _, rfl⟩

theorem putOut_frame (f : OutFrame) (s : State) : ∃ x, putOut f s = { s with span := x } := by
  obtain ⟨x, hx⟩ := sendIdle_frame { s with span.outQ := s.span.outQ ++ [f] }
  exact ⟨x, hx⟩

theorem queueReply_frame (f : OutFrame) (s : State) : ∃ x, queueReply f s = { s with span := x } := by
  unfold queueReply
  split
  · exact putOut_frame f s
  · exact ⟨_, rfl⟩

theorem queueLocal_frame (f : OutFrame) (s : State) : ∃ x, queueLocal f s = { s with svc := x } := by
  unfold queueLocal
  split <;> exact ⟨_, rfl⟩

/-- A reply, made or not, touches the queues, the clauses, and a reset or a SHELF entry that waited for it. -/
theorem replyOr_frame (q : Req) (always : Bool) (body : List Byte) (id : Nat) (s : State) : ∃ sp c sv rr sr,
    replyOr q always body id s = { s with span := sp, cl := c, svc := sv, pw.resetReq := rr, pw.shelfReq := sr } := by
  unfold replyOr
  split
  · obtain ⟨rr, sr, h⟩ := replyGone_frame (some id) s
    exact ⟨_, _, _, rr, sr, h⟩
  · cases hm : q.mbox with
    | span =>
      rw [sendReply_span hm]
      obtain ⟨c, hc⟩ := replyMade_frame q (replyFrame q body (replySrc q s) id s) s
      obtain ⟨x, hx⟩ := queueReply_frame (replyFrame q body (replySrc q s) id s) (replyMade q (replyFrame q body (replySrc q s) id s) s)
      exact ⟨x, c, s.svc, s.pw.resetReq, s.pw.shelfReq, by rw [hx, hc]⟩
    | svc =>
      rw [sendReply_svc hm]
      obtain ⟨c, hc⟩ := replyMade_frame q (replyFrame q body (replySrc q s) id s) s
      obtain ⟨x, hx⟩ := queueLocal_frame (replyFrame q body (replySrc q s) id s) (replyMade q (replyFrame q body (replySrc q s) id s) s)
      exact ⟨_, c, x, s.pw.resetReq, s.pw.shelfReq, by rw [hx, hc]⟩

theorem quiet_replyOr {q : Req} {always : Bool} {body : List Byte} {id : Nat} {u : State} (h : Quiet u) :
    Quiet (replyOr q always body id u) := by
  obtain ⟨sp, c, sv, rr, sr, he⟩ := replyOr_frame q always body id u
  rw [he]
  exact h

/-! ## O43 -/

section

variable (zone mask : Byte) (level : W16) (q : Req) (r : W48)

/-- The lanes that a LEVEL.SET leaves at render time `r`. -/
def levelLanes (u : State) : Tab Lane := (effLevelSet zone mask level (bdAt q r u u) u).rd.lanes

theorem levelLanes_lanesSet (u : State) :
    LanesSet zone mask { wt := q.applyAt.getD r, src := q.src, seq := q.seq } (q.applyAt.getD r)
      (fun _ _ l => { l with l0 := level, l1 := level, d := 0 }) u (levelLanes zone mask level q r u) := by
  obtain ⟨L, he, hL⟩ := effLevelSet_lanesSet zone mask level (bdAt q r u u) u
  have hl : levelLanes zone mask level q r u = L := by rw [levelLanes, he]
  rw [hl]
  exact hL

/-- Only the lanes count for them. -/
theorem effLevelSet_levelLanes {o u v : State} (h : o.rd.lanes = v.rd.lanes) :
    effLevelSet zone mask level (bdAt q r u o) o = { o with rd.lanes := levelLanes zone mask level q r v } := by
  obtain ⟨L, he, -⟩ := effLevelSet_lanesSet zone mask level (bdAt q r u o) o
  have hL : levelLanes zone mask level q r v = (effLevelSet zone mask level (bdAt q r u o) o).rd.lanes :=
    (setLanes_lanes_congr h).symm
  rw [hL, he]

end

section

variable {r : W48} {q : Req} {zone mask : Byte} {level : W16} {held : Bool} {at_ : Nat} {t u : State}

/-- A clause of one LEVEL.SET in its queue. -/
abbrev levelQueued (q : Req) (zone mask : Byte) (level : W16) (held : Bool) (at_ : Nat) : Queued :=
  { req := q, verbs := [.levelSet q zone mask level], held := held, at_ := at_ }

/-- The state in which such a clause has taken effect and waits for its answer. -/
abbrev levelServed (zone mask : Byte) (level : W16) (q : Req) (r : W48) (late : Byte) (v u : State) : State :=
  restartHold { openClause q [.levelSet q zone mask level] late u with rd.lanes := levelLanes zone mask level q r v }

theorem applyClause_served (hm : MaskOk mask) {v : State} (h : u.rd.lanes = v.rd.lanes) : ∃ b : Bd,
    b.tok = { id := u.cl.nextId, idx := 0 } ∧ applyClause r (levelQueued q zone mask level held at_) (u, []) =
      (levelServed zone mask level q r (lateStatus (levelQueued q zone mask level held at_) r u) v u,
        [(levelSetVerb zone mask level, b)]) := by
  have he := applyClause_levelSet (zone := zone) (mask := mask) (r := r) (q := q) (held := held) (at_ := at_) (u := u) (level := level) hm
  dsimp only at he
  rw [effLevelSet_levelLanes zone mask level q r (v := v) (by exact h)] at he
  exact ⟨_, rfl, he⟩

/-- The answer that follows (R177). -/
theorem answerAll_served {b : Bd} {late : Byte} {v u x : State} (hb : b.tok = { id := u.cl.nextId, idx := 0 })
    (hi : idsOk u.cl.waiting u.cl.nextId)
    (hx : x = { levelServed zone mask level q r late v u with fw := x.fw }) :
    answerAll [(levelSetVerb zone mask level, b)] x =
      replyOr q false (replyBody q.seq [(0x20, late, [])]) u.cl.nextId
        { counted u with rd.lanes := levelLanes zone mask level q r v, fw := x.fw } := by
  have hw : x.cl.waiting = u.cl.waiting
      ++ [{ id := u.cl.nextId, req := q, entries := [{ op := 0x20, res := none }], late := late }] := by
    rw [hx]
    rfl
  rw [answerAll_levelSet hb hi hw]
  refine congrArg (replyOr q false _ u.cl.nextId) ?_
  rw [hx]
  exact congrArg (fun y : State => { restartHold y with rd.lanes := levelLanes zone mask level q r v, fw := x.fw })
    (closeClause_openClause hi)

theorem clauseSteps_ready {w : Queued} (ht : u.cl.timed = []) (hr : u.cl.ready = [w]) (hn : u.nv.running = none) :
    clauseSteps r u = applyClause r w ({ u with cl.ready := [] }, []) := by
  have hb : npBlocked u = false := by rw [npBlocked, hn]; rfl
  have h1 : timedStep r (u, []) = (u, []) := by
    simp only [timedStep, hb, Bool.false_eq_true, if_false, dueClauses_nil ht, List.foldl_nil, ht, List.filter_nil]
    rw [← ht]
  rw [clauseSteps, h1]
  simp only [untimedStep, hb, Bool.false_eq_true, if_false, hr, List.foldl_cons, List.foldl_nil]

/-- A timed clause whose time has come takes effect (R187). -/
theorem timedStep_due {w : Queued} {a : W48} (hq : w.req.applyAt = some a) (ha : a.toNat ≤ r.toNat) (ht : u.cl.timed = [w])
    (hn : u.nv.running = none) : timedStep r (u, []) = applyClause r w ({ u with cl.timed := [] }, []) := by
  have hb : npBlocked u = false := by rw [npBlocked, hn]; rfl
  have hd : decide ((w.req.applyAt.getD 0).toNat ≤ r.toNat) = true := by
    rw [hq]
    exact decide_eq_true ha
  have hdue : dueClauses r u = [w] := by
    simp only [dueClauses, ht, List.filter_cons, hd, if_true, List.filter_nil, List.foldl_cons, List.foldl_nil, insertDue]
  simp only [timedStep, hb, Bool.false_eq_true, if_false, hdue, ht, List.filter_cons, hd, Bool.not_true, List.filter_nil,
    List.foldl_cons, List.foldl_nil]

/-- With no other clause waiting it is the boundary's only one. -/
theorem clauseSteps_timed {w : Queued} {a : W48} (hq : w.req.applyAt = some a) (ha : a.toNat ≤ r.toNat) (ht : u.cl.timed = [w])
    (hn : u.nv.running = none) {x : State} {l : List Due} (hx : applyClause r w ({ u with cl.timed := [] }, []) = (x, l))
    (hr : x.cl.ready = []) : clauseSteps r u = (x, l) := by
  have hu : ({ x with cl.ready := [] } : State) = x := by rw [← hr]
  rw [clauseSteps, timedStep_due hq ha ht hn, hx]
  simp only [untimedStep, hr, List.foldl_nil, hu, ite_self]

theorem lateStatus_untimed {w : Queued} (hq : w.req.applyAt = none) : lateStatus w r u = 0 := by
  simp only [lateStatus, hq]
  rfl

theorem lateStatus_timed {w : Queued} {a : W48} (hq : w.req.applyAt = some a) (hs : u.rd.syncLocked = false)
    (hf : u.cfg.freeRun = false) :
    lateStatus w r u = if w.held = true ∨ a.toNat + u.cfg.frameValue ≤ r.toNat then 0x01 else 0 := by
  have hp : periodTicks u = u.cfg.frameValue := by
    simp only [periodTicks, hs, hf, Bool.false_and, Bool.false_eq_true, if_false]
  simp only [lateStatus, hq, hp, Bool.or_eq_true, decide_eq_true_eq]
  rfl

end

section

variable {q : Req} {zone mask : Byte} {level : W16} {held : Bool} {at_ : Nat} {t : State}

/-- A quiet boundary with one clause, of which `u` is left and `w` takes effect. -/
theorem boundaryWith_serves {r : W48} (h : Quiet t) (hm : MaskOk mask) (hi : idsOk t.cl.waiting t.cl.nextId) {u : State}
    (hu : ∃ c, u = { openBoundary r t with cl := c } ∧ c.waiting = t.cl.waiting ∧ c.nextId = t.cl.nextId)
    {late : Byte} (hl : lateStatus (levelQueued q zone mask level held at_) r u = late)
    (hc : ∀ x l, applyClause r (levelQueued q zone mask level held at_) (u, []) = (x, l) →
      x.cl.ready = [] → clauseSteps r (openBoundary r t) = (x, l))
    (hr : u.cl.ready = []) : boundaryWith sendFrames r t = replyOr q false (replyBody q.seq [(0x20, late, [])]) t.cl.nextId
      { counted u with rd.lanes := levelLanes zone mask level q r t, fw.sawPort := true } := by
  obtain ⟨c, rfl, hcw, hcn⟩ := hu
  obtain ⟨b, hb, he⟩ := applyClause_served (r := r) (q := q) (held := held) (at_ := at_) (level := level) hm
    (u := { openBoundary r t with cl := c }) (v := t) rfl
  have hans := answerAll_served (zone := zone) (mask := mask) (level := level) (q := q) (r := r) (late := late) (v := t)
    (u := { openBoundary r t with cl := c })
    (x := { levelServed zone mask level q r late t { openBoundary r t with cl := c } with fw.sawPort := true })
    hb (by simp only [hcw, hcn]; exact hi) rfl
  rw [hl] at he
  rw [boundaryWith_quiet h (hc _ _ he hr) (by exact h) (by rw [hans]; exact quiet_replyOr (by exact h)), hans]
  exact congrArg (fun n => replyOr q false _ n _) hcn

end

/-- Settles O43. -/
theorem boundaryServesClauses : Obligations.BoundaryServesClauses := by
  intro dt s
  have hfb : exec (.frameBoundary dt) s = .next (if boundaryDue (elapse dt s) then
      boundaryWith sendFrames (renderNow (elapse dt s)) (elapse dt s) else elapse dt s) := rfl
  have htd : exec (.timedClauseDue dt) s = .next (if boundaryDue (elapse dt s) then
      answerAll (timedStep (renderNow (elapse dt s)) (elapse dt s, [])).2
        (timedStep (renderNow (elapse dt s)) (elapse dt s, [])).1 else elapse dt s) := rfl
  generalize elapse dt s = t at *
  intro _ hquiet
  have hin : (inRun t && !(t.relay.on && t.relay.input == .receiving)) = true := by
    rw [inRun, hquiet.1, hquiet.2.1]
    rfl
  refine ⟨fun r hp => ?_, fun q zone mask level held at_ hm hn hw hi => ?_⟩
  · obtain ⟨hdue, hr⟩ := boundaryDue_placed hin hp
    rw [hdue, if_pos rfl, hr] at hfb htd
    refine ⟨fun h1 h2 => ?_, fun hn => ?_⟩
    · rw [hfb, boundaryWith_passes hquiet (clauseSteps_none h1 h2)]
    · have hb : npBlocked t = true := Option.isSome_iff_ne_none.2 hn
      have hstep : timedStep r (t, []) = (t, []) := by simp only [timedStep, hb, if_true]
      rw [hfb, htd, boundaryWith_passes hquiet (clauseSteps_blocked hb), hstep]
      exact ⟨rfl, rfl⟩
  · obtain ⟨hdue, hr⟩ := boundaryDue_wt hin hw
    rw [hdue, if_pos rfl, hr] at hfb htd
    obtain ⟨hsl, hfr, -, -, -, -⟩ := hw
    intro w set
    refine ⟨fun hq ht hready => ⟨levelLanes zone mask level q t.ka.wt t, ?_, ?_⟩, fun a hq ha ht hready => ?_⟩
    · rw [hfb, boundaryWith_serves hquiet hm hi (u := { openBoundary t.ka.wt t with cl.ready := [] }) ⟨_, rfl, rfl, rfl⟩
        (lateStatus_untimed hq) (fun x l hx _ => (clauseSteps_ready (u := openBoundary t.ka.wt t) ht hready hn).trans hx) rfl]
      rfl
    · have hL := levelLanes_lanesSet zone mask level q t.ka.wt t
      rw [hq] at hL
      exact hL
    · have hL := levelLanes_lanesSet zone mask level q t.ka.wt t
      rw [hq] at hL
      refine ⟨levelLanes zone mask level q t.ka.wt t, ?_, ?_, hL⟩
      · rw [hfb, boundaryWith_serves hquiet hm hi (u := { openBoundary t.ka.wt t with cl.timed := [] }) ⟨_, rfl, rfl, rfl⟩
          (lateStatus_timed hq hsl hfr)
          (fun x l hx hxr => clauseSteps_timed (u := openBoundary t.ka.wt t) hq ha ht hn hx hxr) hready]
        rfl
      · obtain ⟨b, hb, he⟩ := applyClause_served (r := t.ka.wt) (q := q) (held := held) (at_ := at_) (level := level) hm
          (u := { t with cl.timed := [] }) (v := t) rfl
        rw [lateStatus_timed (u := { t with cl.timed := [] }) hq hsl hfr] at he
        rw [htd, timedStep_due (u := t) hq ha ht hn, he]
        exact congrArg _ (answerAll_served (r := t.ka.wt) (u := { t with cl.timed := [] }) (v := t) (q := q) (zone := zone)
          (mask := mask) (level := level) (x := levelServed zone mask level q t.ka.wt _ t { t with cl.timed := [] }) hb hi rfl)

end Sys2Proof.Machine
end

section
/-!
PROOFS. Boundaries that SYNC edges place (R193, R309), and the flip of the deck banks at a boundary (R25, R200).
-/
namespace Sys2Proof.Machine

open Sys2Proof.Claims

-- Proofs in parallel hold one thread each, and a text this long would have more of them than the check has room for.
set_option Elab.async false

/-! ## O45 -/

/-- The keystone window of R193, for a keystone that was accepted. -/
theorem keyInWindow_at {t : State} {a : Nat} (h : t.ka.ksAt = some a) :
    keyInWindow t = (t.ka.good && decide (t.now < a + 244140625 * 268436)) := by
  simp only [keyInWindow, h]
  rfl

/-- A quiet node's accepted SYNC edge is a boundary (R309). -/
theorem boundaryWith_edge {t : State} (h : Quiet t) (ht : t.cl.timed = []) (hr : t.cl.ready = []) (l : List Nat) :
    boundaryWith sendFrames t.ka.wt { t with rd.intervals := l, rd.edgeAt := some t.now, rd.syncHold := false } =
      { passed t.ka.wt t with rd.intervals := l, rd.edgeAt := some t.now, rd.syncHold := false } :=
  boundaryWith_passes (t := { t with rd.intervals := l, rd.edgeAt := some t.now, rd.syncHold := false }) h
    (clauseSteps_none ht hr)

theorem pushInterval_first {now : Nat} {t : State} (h : t.rd.edgeAt = none) : pushInterval now t = t.rd.intervals := by
  simp only [pushInterval, h]

theorem pushInterval_next {now a : Nat} {t : State} (h : t.rd.edgeAt = some a) :
    pushInterval now t = ((now - a) :: t.rd.intervals).take 8 := by
  simp only [pushInterval, h]

theorem exec_syncEdge {dt : Nat} {s t : State} (h : elapse dt s = t) : exec (.syncEdge dt) s = .next
    (if inRun t && t.rd.syncLocked && !(t.relay.on && t.relay.input == .receiving)
        && decide (t.rd.lastNow + 1900000000 ≤ t.now) then
      boundaryWith sendFrames t.ka.wt
        { t with rd.intervals := pushInterval t.now t, rd.edgeAt := some t.now, rd.syncHold := false }
    else t) := by
  subst h
  rfl

theorem exec_syncHold {dt : Nat} {s t : State} (h : elapse dt s = t) {a : Nat} (ha : t.rd.edgeAt = some a) :
    exec (.syncHold dt) s = .next (if t.rd.syncLocked = true ∧ t.rd.intervals ≠ [] ∧ a + 40000000000 ≤ t.now then
      { t with rd.syncHold := true } else t) := by
  subst h
  rw [exec, execSyncHold]
  simp only [ha]
  rfl

theorem exec_keystoneWindowExpiry {dt : Nat} {s t : State} (h : elapse dt s = t) :
    exec (.keystoneWindowExpiry dt) s = .next (if keyInWindow t then t else { t with ka.good := false }) := by
  subst h
  rfl

/-- Settles O45. -/
theorem edgesPlaceBoundaries : Obligations.EdgesPlaceBoundaries := by
  intro dt s
  generalize h : elapse dt s = t
  intro t'
  subst t'
  refine ⟨fun hq hs hd ht hr => ?_, fun hd => ?_, fun a ha hs hi hd => ?_, fun a ha => ?_⟩
  · have hon : (inRun t && t.rd.syncLocked && !(t.relay.on && t.relay.input == .receiving)
        && decide (t.rd.lastNow + 1900000000 ≤ t.now)) = true := by
      rw [inRun, hq.1, hq.2.1, hs, decide_eq_true hd]
      rfl
    rw [exec_syncEdge h, hon, if_pos rfl, boundaryWith_edge hq ht hr]
    exact ⟨fun hn => by rw [pushInterval_first hn]; rfl, fun a ha => by rw [pushInterval_next ha]⟩
  · rw [exec_syncEdge h, decide_eq_false (Nat.not_le.2 hd), Bool.and_false]
    rfl
  · rw [exec_syncHold h ha, if_pos ⟨hs, hi, hd⟩]
  · rw [exec_keystoneWindowExpiry h, keyInWindow_at ha]
    cases hg : t.ka.good with
    | true => simp only [Bool.true_and, decide_eq_true_eq]
    | false =>
      have hsame : ({ t with ka.good := false } : State) = t := by rw [← hg]
      simp only [Bool.false_and, Bool.false_eq_true, hsame, ite_self]


/-! ## What a boundary does to the banks and the stage

After a flip everything else at its boundary leaves the banks, the stage and the clauses' queues as they are. -/

/-- What a flip touches, the queues of clauses, the boundary's place in time and relay mode. -/
def stageView (s : State) : Tab Byte × Tab Byte × Option Nat × W48 × Stage × List Queued × List Queued × Nat × Relay :=
  (s.rd.active, s.rd.staging, s.rd.stale, s.rd.lastT, s.st, s.cl.timed, s.cl.ready, s.rd.lastNow, s.relay)

/-- State `s` has the banks, the stage and the queues of `o`, and no free value of `o` is free again. -/
def StageKept (o s : State) : Prop := stageView s = stageView o ∧ o.draws ≤ s.draws

section

variable {o s : State}

theorem StageKept.rfl : StageKept o o := ⟨Eq.refl _, Nat.le_refl _⟩

theorem ite_stage {c : Prop} [Decidable c] {a b : State} (ha : StageKept o a) (hb : StageKept o b) :
    StageKept o (if c then a else b) := by
  split
  · exact ha
  · exact hb

theorem foldl_stage {α : Type} {f : State → α → State} (hf : ∀ s a, StageKept o s → StageKept o (f s a)) (l : List α)
    (h : StageKept o s) : StageKept o (l.foldl f s) := by
  induction l generalizing s with
  | nil => exact h
  | cons a l ih => exact ih (hf s a h)

theorem eachPort_stage {f : Port → State → State} (hf : ∀ p s, StageKept o s → StageKept o (f p s)) (h : StageKept o s) :
    StageKept o (eachPort f s) := foldl_stage (fun s p => hf p s) _ h

/-! ### Answers and events -/

theorem cacheReply_stage {q : Req} {f : OutFrame} (h : StageKept o s) : StageKept o (cacheReply q f s) := by
  unfold cacheReply
  split
  · exact h
  · cases q.mbox <;> exact h

theorem replyGone_stage {c : Option Nat} (h : StageKept o s) : StageKept o (replyGone c s) := by
  obtain ⟨rr, sr, he⟩ := replyGone_frame c s
  rw [he]
  exact h

theorem queueReply_stage {f : OutFrame} (h : StageKept o s) : StageKept o (queueReply f s) := by
  obtain ⟨x, he⟩ := queueReply_frame f s
  rw [he]
  exact h

theorem queueLocal_stage {f : OutFrame} (h : StageKept o s) : StageKept o (queueLocal f s) := by
  obtain ⟨x, he⟩ := queueLocal_frame f s
  rw [he]
  exact h

theorem sendReply_stage {q : Req} {body : List Byte} {src : W16} {id : Nat} (h : StageKept o s) :
    StageKept o (sendReply q body src id s) := by
  cases hm : q.mbox with
  | span =>
    rw [sendReply_span hm]
    exact queueReply_stage (cacheReply_stage h)
  | svc =>
    rw [sendReply_svc hm]
    exact queueLocal_stage (cacheReply_stage h)

theorem replyOr_stage {q : Req} {always : Bool} {body : List Byte} {id : Nat} (h : StageKept o s) :
    StageKept o (replyOr q always body id s) := by
  unfold replyOr
  split
  · exact replyGone_stage h
  · exact sendReply_stage h

theorem finishClause_stage {q : Req} {es : List (Byte × Byte × List Byte)} {id : Nat} (h : StageKept o s) :
    StageKept o (finishClause q es id s) := by
  unfold finishClause
  split
  · split
    · exact h
    · exact replyGone_stage h
  · exact replyOr_stage h

theorem resolveNow_stage {tok : Tok} {st : Byte} {bytes : List Byte} (h : StageKept o s) :
    StageKept o (resolveNow tok st bytes s) := by
  unfold resolveNow
  split
  · exact h
  · dsimp only
    split
    · exact finishClause_stage h
    · exact h

theorem resolve_stage {tok : Tok} {st : Byte} {bytes : List Byte} (h : StageKept o s) :
    StageKept o (resolve tok st bytes s) := by
  unfold resolve
  split
  · exact h
  · exact resolveNow_stage h

theorem resolveOpt_stage {tok : Option Tok} {st : Byte} {bytes : List Byte} (h : StageKept o s) :
    StageKept o (resolveOpt tok st bytes s) := by
  cases tok with
  | none => exact h
  | some tok => exact resolve_stage h

/-- An event draws its holdoff. -/
theorem raise_stage {op : Byte} {port : Nat} {fields : List Byte} {stamp : W48} (h : StageKept o s) :
    StageKept o (raise op port fields stamp s) := by
  unfold raise
  split
  · exact h
  · exact ⟨h.1, Nat.le_succ_of_le h.2⟩

/-! ### Jobs -/

theorem commitSec_stage {ch : SecChange} (h : StageKept o s) : StageKept o (commitSec ch s) := by
  unfold commitSec
  dsimp only
  split <;> exact h

theorem touchSlot_stage {a : Nat} (h : StageKept o s) : StageKept o (touchSlot a s) := by
  unfold touchSlot
  dsimp only
  split
  · exact h
  · refine commitSec_stage ?_
    split
    · split <;> exact h
    · exact h

theorem secFailed_stage {ch : SecChange} (h : StageKept o s) : StageKept o (secFailed ch s) := by
  unfold secFailed
  split
  · split <;> exact h
  · split <;> exact h
  · exact h

theorem secCommitted_stage {ch : SecChange} (h : StageKept o s) : StageKept o (secCommitted ch s) := by
  unfold secCommitted
  dsimp only
  split <;> exact h

theorem finishJob_stage {j : Job} (h : StageKept o s) : StageKept o (finishJob j s) := by
  unfold finishJob
  dsimp only
  split
  case h_1 => exact resolveOpt_stage (touchSlot_stage h)
  case h_2 => exact resolveOpt_stage (touchSlot_stage h)
  case h_3 => exact resolveOpt_stage h
  case h_4 => exact resolveOpt_stage h
  case h_5 =>
    refine resolveOpt_stage ?_
    split <;> exact h
  case h_6 => exact resolveOpt_stage h
  case h_7 =>
    refine resolveOpt_stage ?_
    split <;> exact h
  case h_8 =>
    refine resolveOpt_stage ?_
    split <;> exact h
  case h_12 => split <;> exact h
  case h_15 ch _ =>
    have hs : StageKept o (if j.failed = true then secFailed ch s else secCommitted ch s) := by
      split
      · exact secFailed_stage h
      · exact secCommitted_stage h
    generalize (if j.failed = true then secFailed ch s else secCommitted ch s) = x at *
    split
    · split <;> exact resolveOpt_stage hs
    · exact resolveOpt_stage hs
    · exact resolveOpt_stage hs
  all_goals exact h

theorem endEmpty_stage (h : StageKept o s) : StageKept o (endEmpty s) :=
  foldl_stage (fun _ _ => finishJob_stage) _ h

theorem cutDeckSave_stage (h : StageKept o s) : StageKept o (cutDeckSave s) := endEmpty_stage h

/-! ### The map -/

theorem replaceFail_stage (h : StageKept o s) : StageKept o (replaceFail s) := by
  unfold replaceFail
  split
  · exact h
  · split <;> exact h

theorem applyUnreach_stage {p : Port} (h : StageKept o s) : StageKept o (applyUnreach p s) := by
  unfold applyUnreach
  split <;> exact h

theorem takePages_stage (h : StageKept o s) : StageKept o (takePages s) := by
  unfold takePages
  dsimp only
  split <;> exact h

theorem commitMap_stage {t : W48} (h : StageKept o s) : StageKept o (commitMap t s) := by
  have hp : StageKept o (takePages (eachPort applyUnreach s)) := takePages_stage (eachPort_stage (fun _ _ => applyUnreach_stage) h)
  unfold commitMap
  dsimp only
  split
  · exact hp
  · exact replaceFail_stage hp

/-! ### Ports -/

theorem upPort_stage {p : Port} {f : PortState → PortState} (h : StageKept o s) : StageKept o (upPort p f s) := h

theorem trimMap_stage {p : Port} {n : Nat} (h : StageKept o s) : StageKept o (trimMap p n s) := h

theorem addItem_stage {p : Port} {m : Maint} (h : StageKept o s) : StageKept o (addItem p m s) := upPort_stage h

theorem sendForward_stage {p : Port} {ty fmt start : Nat} {latch : Bool} {rate : Byte} {slots : List (List Nat)}
    (h : StageKept o s) : StageKept o (sendForward p ty fmt latch rate slots start s) := upPort_stage h

theorem stopPorts_stage (h : StageKept o s) : StageKept o (stopPorts s) := foldl_stage (fun _ _ => upPort_stage) _ h

theorem enterRest_stage (h : StageKept o s) : StageKept o (enterRest s) := by
  unfold enterRest
  have hs := stopPorts_stage h
  generalize stopPorts s = x at *
  exact hs

theorem cutConfigs_stage {p : Port} (h : StageKept o s) : StageKept o (cutConfigs p s) := by
  unfold cutConfigs
  refine foldl_stage (fun x c hx => ?_) _ h
  dsimp only
  split
  · exact hx
  · exact resolve_stage hx

theorem cutRequests_stage {p : Port} (h : StageKept o s) : StageKept o (cutRequests p s) := by
  unfold cutRequests
  exact cutConfigs_stage (foldl_stage (fun _ _ => resolve_stage) _ (foldl_stage (fun _ _ => resolve_stage) _ h))

theorem changeState_stage {p : Port} {new : PState} {reason : Byte} (h : StageKept o s) :
    StageKept o (changeState p new reason s) := by
  unfold changeState
  dsimp only
  split
  · exact h
  · exact raise_stage h

theorem turnOff_stage {p : Port} (h : StageKept o s) : StageKept o (turnOff p s) :=
  upPort_stage (trimMap_stage (changeState_stage (cutRequests_stage h)))

theorem wantReset_stage {p : Port} {w : ResetWhy} (h : StageKept o s) : StageKept o (wantReset p w s) := by
  unfold wantReset
  dsimp only
  split
  · exact h
  · exact addItem_stage (upPort_stage h)

theorem reconfigure_stage {p : Port} (h : StageKept o s) : StageKept o (reconfigure p s) := by
  unfold reconfigure
  dsimp only
  split_ifs
  · exact h
  · exact turnOff_stage h
  · exact upPort_stage h
  · exact h
  · exact wantReset_stage (upPort_stage h)
  · exact upPort_stage h
  · exact upPort_stage h
  · exact wantReset_stage (trimMap_stage (upPort_stage (cutRequests_stage h)))
  · exact wantReset_stage (upPort_stage (cutRequests_stage h))

theorem emitFrame_stage {p : Port} {cells : List (List Nat)} {start : Nat} {latch : Bool} (h : StageKept o s) :
    StageKept o (emitFrame p cells start latch s) := by
  cases hc : (s.ports.get p).configs with
  | cons c l =>
    simp only [emitFrame, hc]
    with_reducible exact ite_stage h (sendForward_stage (upPort_stage h))
  | nil =>
    simp only [emitFrame, hc]
    have hs : StageKept o (sendForward p tyData (s.ports.get p).cfg.fmt.toNat latch (s.ports.get p).cfg.rate
      (cells.map (·.take (fmtChannels (s.ports.get p).cfg.fmt.toNat))) start s) := sendForward_stage h
    generalize sendForward p tyData (s.ports.get p).cfg.fmt.toNat latch (s.ports.get p).cfg.rate
      (cells.map (·.take (fmtChannels (s.ports.get p).cfg.fmt.toNat))) start s = x at *
    have hd : ∀ {f : PortState → PortState} {c : Prop} [Decidable c], StageKept o
        (if c then addItem p .identity (addItem p .census (upPort p f x)) else upPort p f x) :=
      ite_stage (addItem_stage (addItem_stage (upPort_stage hs))) (upPort_stage hs)
    with_reducible exact ite_stage (addItem_stage (upPort_stage hd)) hd

theorem boundaryFrame_stage {p : Port} {cells : List (List Nat)} {start : Nat} {latch : Bool} (h : StageKept o s) :
    StageKept o (boundaryFrame p cells start latch s) := by
  unfold boundaryFrame
  dsimp only
  split_ifs
  · exact h
  · exact h
  · exact h
  · exact emitFrame_stage h

theorem sendFrames_stage {t : W48} (h : StageKept o s) : StageKept o (sendFrames t s) := by
  unfold sendFrames
  split
  · exact h
  · exact foldl_stage (fun _ _ => boundaryFrame_stage) _ h

/-! ### The parts of a boundary -/

theorem settle_stage {t : W48} (hc : s.st.commit = none) (h : StageKept o s) : StageKept o (settle t s) := by
  have hs : StageKept o (eachPort reconfigure (commitMap t s)) :=
    eachPort_stage (fun _ _ => reconfigure_stage) (commitMap_stage h)
  unfold settle
  rw [flipStep_none hc]
  generalize eachPort reconfigure (commitMap t s) = x at *
  exact hs

theorem loadStep_stage (hl : s.st.loads = []) (h : StageKept o s) : StageKept o (loadStep s) := by
  unfold loadStep
  split
  · simp only [loadSector, hl, List.find?_nil]
    exact h
  · exact h

theorem correctStep_stage (h : StageKept o s) : StageKept o (correctStep s) := by
  unfold correctStep
  split
  · exact h
  · exact h
  · exact raise_stage h

theorem framesOrRest_stage {t : W48} (hl : o.st.loads = []) (h : StageKept o s) :
    StageKept o (framesOrRest sendFrames t s) := by
  unfold framesOrRest
  split
  · exact enterRest_stage h
  · have hf := sendFrames_stage (t := t) h
    exact loadStep_stage (by rw [← hl]; exact congrArg (fun v => v.2.2.2.2.1.loads) hf.1) hf

theorem boundaryTail_stage {t : W48} (hl : o.st.loads = []) (h : StageKept o s) :
    StageKept o (correctStep (framesOrRest sendFrames t (pulse s))) :=
  correctStep_stage (framesOrRest_stage hl (ite_stage h h))

end

/-! ### The boot scene -/

theorem foldl_lanes {α : Type} {f : State → α → State} (hf : ∀ s a, ∃ L, f s a = { s with rd.lanes := L }) (l : List α)
    (s : State) : ∃ L, l.foldl f s = { s with rd.lanes := L } := by
  induction l generalizing s with
  | nil => exact ⟨_, rfl⟩
  | cons a l ih =>
    obtain ⟨L, hL⟩ := hf s a
    obtain ⟨M, hM⟩ := ih (f s a)
    exact ⟨M, by rw [List.foldl_cons, hM, hL]⟩

theorem bootLane_frame (z c : Nat) (f : Lane → Lane) (s : State) : ∃ L, bootLane z c f s = { s with rd.lanes := L } := by
  unfold bootLane
  dsimp only
  split <;> exact ⟨_, rfl⟩

/-- The boot scene touches lanes alone (R89). -/
theorem bootSceneNow_frame (t : W48) (s : State) : ∃ L b, bootSceneNow t s = { s with rd.lanes := L, rd.bootScene := b } := by
  unfold bootSceneNow
  split
  · dsimp only
    split
    · obtain ⟨L, hL⟩ := foldl_lanes (fun s r => foldl_lanes (fun s c => bootLane_frame _ c _ s) _ s) _
        { s with rd.bootScene := false }
      exact ⟨L, false, hL⟩
    · exact ⟨_, false, rfl⟩
  · exact ⟨_, _, rfl⟩

/-! ## O44 -/

/-- A flip that falls due with no load running (R200). -/
theorem flipStep_due {r : W48} {c : Commit} {u : State} (hc : u.st.commit = some c)
    (hd : c.asap = true ∨ c.c.toNat ≤ r.toNat) (hl : u.st.loads = []) : flipStep r u = flipBanks r c u := by
  have hw : (c.asap || decide (c.c.toNat ≤ r.toNat)) = true := by
    simpa only [Bool.or_eq_true, decide_eq_true_eq] using hd
  have hr : loadRuns u = false := by
    rw [loadRuns, hl]
    rfl
  simp only [flipStep, hc, hw, hr, Bool.not_false, if_true]

theorem exec_frameBoundary {dt : Nat} {s t : State} (h : elapse dt s = t) :
    exec (.frameBoundary dt) s = .next (if boundaryDue t then boundaryWith sendFrames (renderNow t) t else t) := by
  subst h
  rfl

/-- The state in which the banks have flipped (R25, R200). -/
abbrev flipped (u : State) : State :=
  spend { u with rd.active := u.rd.staging, rd.staging := [], rd.stale := some u.draws, st.commit := none, st.owner := none }

theorem flipBanks_stage {r : W48} {c : Commit} {u : State} : StageKept (flipped u) (flipBanks r c u) :=
  resolve_stage (cutDeckSave_stage StageKept.rfl)

/-- A boundary with a flip due and no clause: what follows the flip keeps what the flip made of the banks and the stage. -/
theorem boundaryWith_flips {r : W48} {c : Commit} {t : State} (hc : t.st.commit = some c)
    (hd : c.asap = true ∨ c.c.toNat ≤ r.toNat) (hl : t.st.loads = []) (ht : t.cl.timed = []) (hr : t.cl.ready = []) :
    ∃ L b, StageKept (flipped { openBoundary r t with rd.lanes := L, rd.bootScene := b }) (boundaryWith sendFrames r t) := by
  obtain ⟨L, b, hv⟩ := bootSceneNow_frame r (openBoundary r t)
  have hx : StageKept (flipped { openBoundary r t with rd.lanes := L, rd.bootScene := b })
      (flipStep r (bootSceneNow r (openBoundary r t))) := by
    rw [hv, flipStep_due (by exact hc) hd (by exact hl)]
    exact flipBanks_stage
  refine ⟨L, b, ?_⟩
  rw [boundaryWith, boundaryEffects]
  generalize flipStep r (bootSceneNow r (openBoundary r t)) = x at *
  have hxt : x.cl.timed = [] := (congrArg (fun v => v.2.2.2.2.2.1) hx.1).trans ht
  have hxr : x.cl.ready = [] := (congrArg (fun v => v.2.2.2.2.2.2.1) hx.1).trans hr
  have hxc : x.st.commit = none := congrArg (fun v => v.2.2.2.2.1.commit) hx.1
  rw [clauseSteps_none hxt hxr]
  exact boundaryTail_stage hl (settle_stage hxc hx)

/-- Settles O44. -/
theorem banksFlipAtBoundary : Obligations.BanksFlipAtBoundary := by
  intro dt c s
  generalize h : elapse dt s = t
  intro t'
  subst t'
  intro hrun hrel hw hc hd hl ht hr
  have hin : (inRun t && !(t.relay.on && t.relay.input == .receiving)) = true := by
    rw [inRun, hrun, hrel]
    rfl
  obtain ⟨hdue, hnow⟩ := boundaryDue_wt hin hw
  obtain ⟨L, b, hk, hdraws⟩ := boundaryWith_flips (r := t.ka.wt) hc hd hl ht hr
  refine ⟨boundaryWith sendFrames t.ka.wt t, ?_, congrArg (fun v => v.1) hk, congrArg (fun v => v.2.1) hk,
    congrArg (fun v => v.2.2.1) hk, congrArg (fun v => v.2.2.2.2.1.commit) hk, congrArg (fun v => v.2.2.2.2.1.owner) hk,
    congrArg (fun v => v.2.2.2.1) hk, hdraws⟩
  rw [exec_frameBoundary h, hdue, if_pos rfl, hnow]

end Sys2Proof.Machine
end

section
/-!
PROOFS. The SVC registers (08, R207 to R225): what a write and a read of each does.
-/
namespace Sys2Proof.Machine

open Sys2Proof.Claims

-- Proofs in parallel hold one thread each, and a text this long would have more of them than the check has room for.
set_option Elab.async false

/-! ## Writes of the other registers (R212, R214, R222) -/

/-- Registers other than SVDATA, SVDOOR and SVCTL take nothing (R212). -/
theorem svcActs_readOnly {r b : Byte} {u : State} (h2 : r ≠ 2) (h3 : r ≠ 3) (h7 : r ≠ 7) : svcActs r b u = u := by
  rw [svcActs, if_neg h2, if_neg h3, if_neg h7]

/-- A character that comes during an NV block is kept for its end (R222). -/
theorem svcChar_deferred {c : SvcChar} {t : State} (h : SvcHears t) (hn : t.nv.running ≠ none) :
    svcChar c t = svcEdge { t with svc.deferred := t.svc.deferred ++ [c] } := by
  have hb : npBlocked t = true := Option.isSome_iff_ne_none.2 hn
  simp only [svcChar, svcHears_of_claim h, hb, if_true]

/-- The first character after an idle that no SVSYNC made, without baud lock (R209). -/
theorem svcChar_unset {c : SvcChar} {t : State} (hi : t.svc.idle = true) (hb : t.svc.ctl.getLsbD 1 = false) :
    svcChar c t = svcEdge { t with svc.rate := none } := by
  have hh : svcHears t = false := by
    rw [svcHears, baudLock, hi, hb]
    exact Bool.and_false _
  simp only [svcChar, hh, baudLock, hi, hb, Bool.false_eq_true, if_false, Bool.not_false, Bool.and_self, if_true]

theorem svcSelected_addressed {r : Byte} {t : State} : svcSelected true r t =
    { t with svc.idle := false, svc.edgeAt := t.now, svc.armed := false, svc.sel := some (false, r) } := by
  rw [svcSelected, Bool.not_true, Bool.and_false]

theorem svcTake_bad {parity : Bool} {t : State} : svcTake (.bad parity) t =
    { t with svc.pe := t.svc.pe || parity, svc.fe := t.svc.fe || !parity, svc.sel := none } := by
  cases h : t.svc.sel <;> simp only [svcTake]

/-! ## Reads (R211) -/

theorem svcTake_readAddr {a : Byte} {t : State} (h : a.getLsbD 7 = true) : svcTake (.addr a) t =
    { t with svc.armed := t.svc.armed && a == 0x82, svc.sel := some (true, a &&& 0x7F) } := by
  simp only [svcTake, h]

theorem svcTake_count {r n : Byte} {t : State} (h : t.svc.sel = some (true, r)) : svcTake (.data n) t = svcRead r n.toNat t := by
  simp only [svcTake, h]

/-- A line on which a read's address character has come (R211). -/
abbrev svcReading (a : Byte) (t : State) : State :=
  { t with svc.idle := false, svc.edgeAt := t.now, svc.armed := t.svc.armed && a == 0x82, svc.sel := some (true, a &&& 0x7F) }

theorem svcAccess_reads {a n : Byte} {t : State} (h : SvcHears t) (hn : t.nv.running = none) (ha : a.getLsbD 7 = true) :
    svcAccess (some a) n t = svcRead (a &&& 0x7F) n.toNat (svcReading a t) := by
  have hsel : svcChar (.addr a) t = svcReading a t := by rw [svcChar_heard h hn, svcTake_readAddr ha]; rfl
  have hh : SvcHears (svcReading a t) := by
    obtain ⟨hm, hf, hl, hr, -⟩ := h
    exact ⟨hm, hf, hl, hr, rfl⟩
  calc svcAccess (some a) n t = svcChar (.data n) (svcReading a t) := by rw [← hsel]; rfl
    _ = svcTake (.data n) (svcReading a t) := svcChar_heard hh hn
    _ = svcRead (a &&& 0x7F) n.toNat (svcReading a t) := svcTake_count rfl

theorem svcRead_factory {r : Byte} {n : Nat} {u : State} (h : u.sec.factory = true) :
    svcRead r n u = { u with svc.sel := none } := by
  simp only [svcRead, h, if_true]

/-- The state in which a read of a register other than SVDATA is answered. -/
abbrev svcAnswering (t : State) : State :=
  { t with svc.idle := false, svc.edgeAt := t.now, svc.armed := false, svc.sel := none }

/-- Only the address character of SVDATA's read keeps FE, PE and OE armed (R216). -/
theorem svcReading_unarmed {a : Byte} {t : State} (h : a ≠ 0x82) :
    svcReading a t = { svcAnswering t with svc.sel := some (true, a &&& 0x7F) } := by
  rw [svcReading, beq_eq_false_iff_ne.2 h, Bool.and_false]

theorem svcRead_stat {u : State} (hf : u.sec.factory = false) :
    svcRead 1 1 u = { u with svc.sel := none, svc.sent := [svstat u], svc.col := false, svc.armed := true } := by
  simp only [svcRead, hf, Bool.false_eq_true, if_false, if_true]
  rfl

theorem svcRead_cause {u : State} (hf : u.sec.factory = false) :
    svcRead 5 1 u = { u with svc.sel := none, svc.sent := [u.svc.cause], svc.cause := 0 } := by
  simp only [svcRead, hf, Bool.false_eq_true, if_false]
  rfl

/-- A register that reading does not change (R212). -/
theorem svcRead_plain {r : Byte} {n : Nat} {u : State} (hf : u.sec.factory = false) (h1 : r ≠ 1) (h2 : r ≠ 2) (h5 : r ≠ 5) :
    svcRead r n u = { u with svc.sel := none, svc.sent := List.replicate n (svRegister u r.toNat) } := by
  simp only [svcRead, hf, Bool.false_eq_true, if_false, h1, h2, h5]
  rfl

/-- FE, PE and OE of a read of SVDATA (R216). -/
abbrev errorsCleared (u : State) : State :=
  if u.svc.armed then { u with svc.fe := false, svc.pe := false, svc.oe := false } else u

/-- One byte of SVDATA (R216, R220). -/
theorem svcRead_data {u : State} {im : SvcImage} (hf : u.sec.factory = false) (ho : u.svc.out = some im) :
    svcRead 2 1 u = emptyOut { errorsCleared u with
      svc.sel := none, svc.sent := [im.bytes.headD 0], svc.armed := false
      svc.out := some { im with bytes := im.bytes.drop 1, begun := true } } := by
  have hr : svcRead 2 1 u = svcReadData 1 { u with svc.sel := none, svc.sent := [] } := by
    simp only [svcRead, hf, Bool.false_eq_true, if_false]
    rfl
  rw [hr, svcReadData, clearErrors, errorsCleared]
  cases ha : u.svc.armed with
  | true => simp only [readData, ho, ha]; rfl
  | false => simp only [readData, ho, ha]; rfl

/-- An image with bytes left stays (R220). -/
theorem emptyOut_left {u : State} {im : SvcImage} (ho : u.svc.out = some im) (hb : im.bytes ≠ []) : emptyOut u = u := by
  simp only [emptyOut, ho, List.isEmpty_eq_false_iff.2 hb, Bool.false_eq_true, if_false]

/-- The last byte of a reply that nothing waits for empties the mailbox (R220). -/
theorem emptyOut_last {u : State} {im : SvcImage} (ho : u.svc.out = some im) (hb : im.bytes = []) (hop : im.op = 0xFE)
    (hc : im.clause = none) (hov : u.span.overflow = []) (hbl : u.svc.backlog = []) (hm : u.ev.marks = [])
    (hi : u.span.idle = false) : emptyOut u = { u with svc.out := none } := by
  have hne : ¬ ((0xFE : Byte) = 0xF0) := by decide
  simp only [emptyOut, ho, hb, List.isEmpty_nil, if_true, hop, hc, hne, if_false, replyGone]
  exact settleQueues_quiet (s := { u with svc.out := none }) hi hov hm hbl

theorem readAddr_register {r : Byte} (h : r.toNat < 128) :
    (0x80 ||| r).getLsbD 7 = true ∧ (0x80 ||| r) &&& 0x7F = r := by
  refine ⟨by simp, ?_⟩
  have hd : (0x80 ||| r) &&& 0x7F = r &&& 0x7F := by
    rw [BitVec.and_or_distrib_right]
    exact BitVec.zero_or
  rw [hd, register_masked h]

/-! ## O47 -/

section

variable {dt : Nat} {s t : State} (h : elapse dt s = t)
include h

theorem exec_registerWrite (a : Byte) (l : List Byte) : exec (.registerWrite dt a l) s =
    .next (l.foldl (fun s b => svcChar (.data b) s) (svcChar (.addr a) t)) := by subst h; rfl

theorem exec_registerWrite_one (a b : Byte) : exec (.registerWrite dt a [b]) s = .next (svcAccess (some a) b t) := by
  rw [exec_registerWrite h, svcAccess, List.foldl_cons, List.foldl_nil]

theorem exec_registerWrite_none (a : Byte) : exec (.registerWrite dt a []) s = .next (svcChar (.addr a) t) := by
  rw [exec_registerWrite h, List.foldl_nil]

theorem exec_svcCharacterError (parity : Bool) : exec (.svcCharacterError dt parity) s =
    .next (if parity && !t.svc.ctl.getLsbD 0 then t else svcChar (.bad parity) t) := by subst h; rfl

theorem exec_svsync (valid : Bool) (rate : Nat) : exec (.svsync dt valid rate) s = .next (svcSync valid rate t) := by
  subst h; rfl

theorem exec_svcIdle : exec (.svcIdle dt) s = .next (if t.svc.edgeAt + 20000000000 ≤ t.now then
    { t with svc.idle := true, svc.sel := none, svc.rate := if baudLock t then t.svc.rate else none } else t) := by
  subst h; rfl

theorem exec_svstatRead (n : Byte) : exec (.svstatRead dt n) s = .next (svcAccess (some 0x81) n t) := by subst h; rfl

theorem exec_svcauseRead (n : Byte) : exec (.svcauseRead dt n) s = .next (svcAccess (some 0x85) n t) := by subst h; rfl

theorem exec_svdataRead (n : Byte) : exec (.svdataRead dt n) s = .next (svcAccess (some 0x82) n t) := by subst h; rfl

theorem exec_collision (reg sent : Byte) : exec (.collision dt reg sent) s = .next (if svcAnswers t then
    { svcAccess (some (0x80 ||| reg)) sent t with svc.col := true } else t) := by subst h; rfl

end

/-- SVSYNC after an idle sets the rate, or ends it (R209). -/
theorem svcSync_idle {valid : Bool} {rate : Nat} {t : State} (hr : t.pw.mode = .run) (hf : t.pw.fosc = true)
    (hl : t.pw.lockAt ≤ t.now) (hi : t.svc.idle = true) (hb : t.svc.ctl.getLsbD 1 = false) : svcSync valid rate t =
      svcEdge { t with svc.rate := if valid && decide (9600 ≤ rate) && decide (rate ≤ 921600) then some rate else none } := by
  have hs : svcReady t = true := by
    rw [svcReady, inRun, hr, foscLocked, hf, decide_eq_true hl]
    rfl
  simp only [svcSync, hs, hi, baudLock, hb, Bool.not_true, Bool.false_eq_true, if_false, Bool.false_and]

/-- There are no registers from 8 on (R212). -/
theorem svRegister_other {t : State} {r : Nat} (h : 8 ≤ r) : svRegister t r = 0 := by
  have hne : ∀ k, k < 8 → r ≠ k := fun k hk => by omega
  rw [svRegister, if_neg (hne 0 (by decide)), if_neg (hne 1 (by decide)), if_neg (hne 3 (by decide)),
    if_neg (hne 4 (by decide)), if_neg (hne 5 (by decide)), if_neg (hne 6 (by decide)), if_neg (hne 7 (by decide))]

/-- What the registers that reading does not change hold (R212). -/
theorem registerReads_plain {dt : Nat} {s t : State} (h : elapse dt s = t) (hh : SvcHears t) (hn : t.nv.running = none)
    (hf : t.sec.factory = false) {reg : Byte} (hr : reg.toNat < 128) (h1 : reg ≠ 1) (h2 : reg ≠ 2) (h5 : reg ≠ 5) (n : Byte) :
    exec (.registerWrite dt (0x80 ||| reg) [n]) s = .next { svcAnswering t with
        svc.sent := List.replicate n.toNat (svRegister t reg.toNat) }
    ∧ exec (.collision dt reg n) s = .next { svcAnswering t with
        svc.sent := List.replicate n.toNat (svRegister t reg.toNat), svc.col := true } := by
  obtain ⟨h7, hreg⟩ := readAddr_register hr
  have hd : (0x80 ||| reg) ≠ 0x82 := fun e => h2 (by rw [← hreg, e]; decide)
  have ha : svcAccess (some (0x80 ||| reg)) n t = { svcAnswering t with
      svc.sent := List.replicate n.toNat (svRegister t reg.toNat) } := by
    rw [svcAccess_reads hh hn h7, svcReading_unarmed hd, hreg, svcRead_plain (by exact hf) h1 h2 h5]
    rfl
  have hans : svcAnswers t = true := by
    rw [svcAnswers, svcHears_of_claim hh, npBlocked, hn, hf]
    rfl
  exact ⟨(exec_registerWrite_one h _ _).trans (congrArg _ ha), by rw [exec_collision h, hans, if_pos rfl, ha]⟩

/-- Settles O47. -/
theorem registersAreWrittenAndRead : Obligations.RegistersAreWrittenAndRead := by
  refine ⟨fun dt b s => ?_, fun dt s => ?_⟩
  · generalize h : elapse dt s = t
    intro t'
    subst t'
    intro x edge
    refine ⟨fun hh => ⟨fun hn => ⟨?_, fun reg hr h2 h3 h7 => ?_, ?_, ?_, ?_⟩, fun hn => ?_⟩,
      fun hrun hf hl hi hb => ⟨fun rate h1 h2 => ?_, fun rate hr => ?_, fun rate => ?_, ?_⟩, fun hi => ?_, fun hi => ?_⟩
    · rw [exec_svctlWrite, h, svcAccess_writes hh hn (by decide) (.inl rfl)]
      simp only [svcSelected_addressed]
      rfl
    · rw [exec_registerWrite_one h]
      have ha := svcAccess_writes (addressed := true) (r := reg) (b := b) hh hn hr (.inl rfl)
      rw [svcActs_readOnly h2 h3 h7, svcSelected_addressed] at ha
      exact congrArg _ ha
    · rw [exec_registerWrite_none h, svcChar_heard hh hn, svcTake_addr (by decide), svcSelected_addressed]
    · rw [exec_svcCharacterError h, svcChar_heard hh hn, svcTake_bad]
      simp only [Bool.false_and, Bool.false_eq_true, if_false, Bool.or_false, Bool.not_false, Bool.or_true]
      rfl
    · rw [exec_svcCharacterError h, svcChar_heard hh hn, svcTake_bad]
      cases hp : t.svc.ctl.getLsbD 0 with
      | true =>
        simp only [Bool.not_true, Bool.and_false, Bool.false_eq_true, if_false, if_true, Bool.or_false, Bool.or_true]
        rfl
      | false => rfl
    · have hh' : SvcHears (svcEdge { t with svc.deferred := t.svc.deferred ++ [.addr 2] }) := by
        obtain ⟨hm, hf, hl, hr, -⟩ := hh
        exact ⟨hm, hf, hl, hr, rfl⟩
      have ha : svcAccess (addrIf true 2) b t = svcChar (.data b) (svcChar (.addr 2) t) := rfl
      rw [exec_svdataWrite, h, ha, svcChar_deferred hh hn, svcChar_deferred hh' (by exact hn)]
      simp only [svcEdge, List.append_assoc, List.cons_append, List.nil_append]
      rfl
    · rw [exec_svsync h, svcSync_idle hrun hf hl hi hb, decide_eq_true h1, decide_eq_true h2]
      rfl
    · rw [exec_svsync h, svcSync_idle hrun hf hl hi hb]
      have hv : (true && decide (9600 ≤ rate) && decide (rate ≤ 921600)) = false := by
        simp only [Bool.true_and, Bool.and_eq_false_iff, decide_eq_false_iff_not]
        omega
      rw [hv]
      rfl
    · rw [exec_svsync h, svcSync_idle hrun hf hl hi hb]
      rfl
    · rw [exec_svdataWrite, h]
      exact congrArg _ (svcChar_unset hi hb)
    · rw [exec_svcIdle h, if_pos hi, baudLock]
    · rw [exec_svcIdle h, if_neg (Nat.not_le.2 hi)]
  · generalize h : elapse dt s = t
    intro t'
    subst t'
    intro read hh hn
    refine ⟨fun hf n => ⟨?_, ?_⟩, fun hf => ⟨?_, ?_, fun n => ?_, fun im b ho => ?_⟩⟩
    · rw [exec_svstatRead h, svcAccess_reads hh hn (by decide), svcReading_unarmed (by decide), svcRead_factory (by exact hf)]
    · rw [exec_svcauseRead h, svcAccess_reads hh hn (by decide), svcReading_unarmed (by decide), svcRead_factory (by exact hf)]
    · rw [exec_svstatRead h, svcAccess_reads hh hn (by decide), svcReading_unarmed (by decide)]
      exact congrArg _ (svcRead_stat (by exact hf))
    · rw [exec_svcauseRead h, svcAccess_reads hh hn (by decide), svcReading_unarmed (by decide)]
      exact congrArg _ (svcRead_cause (by exact hf))
    · refine ⟨registerReads_plain h hh hn hf (by decide) (by decide) (by decide) (by decide) n,
        registerReads_plain h hh hn hf (by decide) (by decide) (by decide) (by decide) n,
        registerReads_plain h hh hn hf (by decide) (by decide) (by decide) (by decide) n,
        registerReads_plain h hh hn hf (by decide) (by decide) (by decide) (by decide) n,
        registerReads_plain h hh hn hf (by decide) (by decide) (by decide) (by decide) n, fun reg h8 hr => ?_⟩
      have hne : ∀ r : Byte, r.toNat < 8 → reg ≠ r := fun r hr e => absurd (e ▸ h8) (Nat.not_le.2 hr)
      have hz : svRegister t reg.toNat = 0 := svRegister_other h8
      have hp := registerReads_plain h hh hn hf hr (hne 1 (by decide)) (hne 2 (by decide)) (hne 5 (by decide)) n
      rw [hz] at hp
      exact hp
    · have hc : errorsCleared (svcReading 0x82 t) = if t.svc.armed then
          { svcReading 0x82 t with svc.fe := false, svc.pe := false, svc.oe := false } else svcReading 0x82 t := by
        simp only [errorsCleared, beq_self_eq_true, Bool.and_true]
      have ha : svcAccess (some 0x82) 1 t = emptyOut { errorsCleared (svcReading 0x82 t) with
          svc.sel := none, svc.sent := [im.bytes.headD 0], svc.armed := false
          svc.out := some { im with bytes := im.bytes.drop 1, begun := true } } := by
        rw [svcAccess_reads hh hn (by decide)]
        exact svcRead_data (by exact hf) (by exact ho)
      rw [exec_svdataRead h, ha, hc]
      refine ⟨fun l hl hne => ?_, fun hl hop hcl hov hbl hm hi => ?_⟩
      · rw [emptyOut_left rfl (by rw [hl]; exact hne), hl]
        cases t.svc.armed <;> rfl
      · rw [hl]
        cases t.svc.armed <;> exact congrArg _ (emptyOut_last rfl rfl hop hcl hov hbl hm hi)

end Sys2Proof.Machine
end

section
/-!
PROOFS. The loop returns of a port, its readiness and LAMPEN (09, 10, R90, R229, R255, R273, R274).
-/
namespace Sys2Proof.Machine

open Sys2Proof.Claims

-- Proofs in parallel hold one thread each, and a text this long would have more of them than the check has room for.
set_option Elab.async false

/-! ## One port of a state -/

@[simp] theorem setPort_setPort {p : Port} {x y : PortState} {s : State} : setPort p y (setPort p x s) = setPort p y s := by
  simp only [setPort, Vector.set_set]

@[simp] theorem upPort_setPort {p : Port} {f : PortState → PortState} {x : PortState} {s : State} :
    upPort p f (setPort p x s) = setPort p (f x) s := by
  rw [upPort, setPort_get_self, setPort_setPort]

theorem setPort_same {p : Port} {s : State} : setPort p (s.ports.get p) s = s := by
  have h : s.ports.set p.val (s.ports.get p) = s.ports := Vector.set_getElem_self p.isLt
  rw [setPort, h]

theorem upPort_same {p : Port} {f : PortState → PortState} {s : State} (h : f (s.ports.get p) = s.ports.get p) :
    upPort p f s = s := by
  rw [upPort, h, setPort_same]

@[simp] theorem pstate_setPort {p : Port} {x : PortState} {s : State} : pstate (setPort p x s) p = x.state := by
  rw [pstate, setPort_get_self]

/-! ## Observations touch the map and the count of bad words -/

theorem drawFail_frame (s : State) : ∃ fl d, drawFail s = { s with fail := fl, draws := d } := by
  unfold drawFail
  split
  · exact ⟨_, _, rfl⟩
  · exact ⟨_, _, rfl⟩

theorem pageChanged_frame (p : Port) (pos : Nat) (fseq : Byte) (s : State) :
    ∃ fl d, pageChanged p pos fseq s = { s with fail := fl, draws := d } := by
  unfold pageChanged
  dsimp only
  split
  · obtain ⟨fl, d, h⟩ := drawFail_frame { s with
      fail.fresh := true, fail.fseqNext := s.fail.fseqNext.set p.val fseq
      fail.coming := s.fail.coming ||| BitVec.ofNat 16 (2 ^ (cellIndex p pos / 256)) }
    exact ⟨fl, d, h⟩
  · exact ⟨_, _, rfl⟩

/-- What an observation leaves: `parity` counted, the map and its draws as they come. -/
abbrev observed (p : Port) (n : Nat) (fl : Fail) (d : Nat) (s : State) : State :=
  { setPort p { s.ports.get p with parity := n } s with fail := fl, draws := d }

theorem observed_same (p : Port) (s : State) : observed p (s.ports.get p).parity s.fail s.draws s = s :=
  (setPort_same : setPort p (s.ports.get p) s = s)

theorem observed_observed (p : Port) (n m : Nat) (fl gl : Fail) (d e : Nat) (s : State) :
    observed p m gl e (observed p n fl d s) = observed p m gl e s := by
  have h : (observed p n fl d s).ports.get p = { s.ports.get p with parity := n } := setPort_get_self
  rw [observed, h]
  simp only [setPort, Vector.set_set]
  rfl

theorem observe_frame (p : Port) (fseq : Byte) (pos : Nat) (w : W12) (s : State) :
    ∃ n fl d, observe p fseq pos w s = observed p n fl d s := by
  obtain ⟨n, hn⟩ : ∃ n, (if wordValid w then s else upPort p (fun x => { x with parity := bump x.parity }) s) =
      observed p n s.fail s.draws s := by
    split
    · exact ⟨_, (observed_same p s).symm⟩
    · exact ⟨_, rfl⟩
  have hpage : ∀ c, ∃ m fl d, pageChanged p pos fseq { observed p n s.fail s.draws s with fail.cells := c } =
      observed p m fl d s := fun c => by
    obtain ⟨fl, d, h⟩ := pageChanged_frame p pos fseq { observed p n s.fail s.draws s with fail.cells := c }
    exact ⟨n, fl, d, h⟩
  unfold observe
  rw [hn]
  dsimp only
  split_ifs
  · exact ⟨_, _, _, rfl⟩
  · exact ⟨n, _, _, rfl⟩
  · exact hpage _
  · exact ⟨n, _, _, rfl⟩
  · exact hpage _

theorem observeAll_frame (p : Port) (fseq : Byte) (pos : Nat) (l : List W12) (s : State) :
    ∃ n fl d, observeAll p fseq pos l s = observed p n fl d s := by
  induction l generalizing pos s with
  | nil => exact ⟨_, _, _, (observed_same p s).symm⟩
  | cons w l ih =>
    obtain ⟨n, fl, d, h⟩ : ∃ n fl d,
        (if pos < (s.ports.get p).cfg.n then observe p fseq pos w s else s) = observed p n fl d s := by
      split
      · exact observe_frame p fseq pos w s
      · exact ⟨_, _, _, (observed_same p s).symm⟩
    obtain ⟨m, gl, e, hm⟩ := ih (pos + 1) (observed p n fl d s)
    exact ⟨m, gl, e, by rw [observeAll, h, hm, observed_observed]⟩

theorem observations_frame (p : Port) (fseq : Byte) (l : List W12) (s : State) :
    ∃ n fl d, observations p fseq l s = observed p n fl d s := by
  unfold observations
  split
  · exact observeAll_frame p fseq 0 l s
  · exact ⟨_, _, _, (observed_same p s).symm⟩

/-! ## A return that is taken, or lost (R249, R273, R274) -/

section

variable {p : Port} {x : PortState} {a : Await} {t : State}

/-- One more piece of break evidence; the third starts a census (R274). -/
theorem breakEvidence_counts (h : x.evidence < 2) :
    breakEvidence p (setPort p x t) = setPort p { x with evidence := x.evidence + 1 } t := by
  have hn : ¬ x.evidence + 1 ≥ 3 := by omega
  simp only [breakEvidence, setPort_get_self, hn, if_false, upPort_setPort]

theorem breakEvidence_third (h : 2 ≤ x.evidence) :
    breakEvidence p (setPort p x t) = addItem p .census (setPort p { x with evidence := 0 } t) := by
  have hn : x.evidence + 1 ≥ 3 := by omega
  simp only [breakEvidence, setPort_get_self, hn, if_true, upPort_setPort]

theorem evidenceIfOk_ok {bad : Bool} (hx : x.state = .ok) : evidenceIfOk p bad (setPort p x t) =
    if bad then breakEvidence p (setPort p x t) else setPort p { x with evidence := 0 } t := by
  simp only [evidenceIfOk, pstate_setPort, hx, if_true, upPort_setPort]

/-- Only the return of a QUERY moves a pulse (R258). -/
theorem returnEnded_other (h : a.type ≠ 3) (s : State) : returnEnded p a s = s := by
  have hq : (a.type == tyQuery) = false := beq_eq_false_iff_ne.2 h
  refine upPort_same ?_
  simp only [hq, Bool.and_false, Bool.false_and, Bool.false_eq_true, if_false]

theorem returnEnded_frame : ∃ pl, returnEnded p a (setPort p x t) = setPort p { x with pulse := pl } t := by
  unfold returnEnded
  rw [upPort_setPort]
  split
  · exact ⟨_, rfl⟩
  · exact ⟨x.pulse, rfl⟩

theorem awaits_over : [a].filter (fun b => b != a) = [] := by simp

/-- A DATA return lost on a port in OK ends the collection and is evidence (R249, R274). -/
theorem lostReturn_data (hx : x.state = .ok) (ha : x.awaits = [a]) (hty : a.type = 1) : lostReturn p a (setPort p x t) =
    breakEvidence p (setPort p { x with awaits := [], srNext := none, srAcc := [], srLen := 0 } t) := by
  have hd : a.type = tyData := hty
  have hq : a.type ≠ 3 := by omega
  rw [lostReturn, if_pos hd, returnEnded_other hq, endCollection, upPort_setPort, upPort_setPort, ha, awaits_over,
    evidenceIfOk_ok (by exact hx), if_pos rfl]

theorem collectSr_frame (fseq : Byte) (l : List W12) (x : PortState) : ∃ n acc len ids,
    collectSr fseq l x = { x with srNext := n, srAcc := acc, srLen := len, ids := ids } := by
  unfold collectSr
  dsimp only
  split
  · split
    · exact ⟨_, _, _, _, rfl⟩
    · exact ⟨_, _, _, _, rfl⟩
  · exact ⟨_, _, _, _, rfl⟩

/-- Words for every cell leave no evidence, whatever the frame (R274). -/
theorem returnEvidence_full (hx : x.state = .ok) (hw : x.cfg.n ≤ x.w.getD 0) :
    returnEvidence p a (setPort p x t) = setPort p { x with evidence := 0 } t := by
  have hs : decide (x.w.getD 0 < x.cfg.n) = false := decide_eq_false (Nat.not_lt.2 hw)
  simp only [returnEvidence, setPort_get_self, hs, Bool.not_false, Bool.true_or, if_true, evidenceIfOk_ok hx, Bool.false_eq_true,
    if_false]

/-- A return with words for every cell, on a port in OK (R273, R274). -/
theorem goodReturn_full {l : List W12} (hx : x.state = .ok) (ha : x.awaits = [a]) (hn : x.cfg.n ≤ l.length) :
    ∃ sn sa sl ids pl n fl d, goodReturn p a l (setPort p x t) = { setPort p { x with
      awaits := [], w := some l.length, returned := true, srNext := sn, srAcc := sa, srLen := sl, ids := ids, pulse := pl
      parity := n, evidence := 0 } t with fail := fl, draws := d } := by
  obtain ⟨sn, sa, sl, ids, hc⟩ := collectSr_frame a.fseq l { x with awaits := [], w := some l.length, returned := true }
  obtain ⟨pl, hp⟩ := returnEnded_frame (p := p) (a := a) (t := t)
    (x := { x with awaits := [], w := some l.length, returned := true, srNext := sn, srAcc := sa, srLen := sl, ids := ids })
  obtain ⟨n, fl, d, ho⟩ := observations_frame p a.fseq l (setPort p { x with
    awaits := [], w := some l.length, returned := true, srNext := sn, srAcc := sa, srLen := sl, ids := ids, pulse := pl } t)
  refine ⟨sn, sa, sl, ids, pl, n, fl, d, ?_⟩
  rw [goodReturn, upPort_setPort, ha, awaits_over, hc, hp, ho, observed, setPort_get_self, setPort_setPort]
  have hr := returnEvidence_full (p := p) (a := a) (t := { t with fail := fl, draws := d }) (x := { x with
    awaits := [], w := some l.length, returned := true, srNext := sn, srAcc := sa, srLen := sl, ids := ids, pulse := pl
    parity := n }) hx hn
  have hs : pstate (setPort p { x with
      awaits := [], w := some l.length, returned := true, srNext := sn, srAcc := sa, srLen := sl, ids := ids, pulse := pl
      parity := n, evidence := 0 } { t with fail := fl, draws := d }) p = .ok := pstate_setPort.trans hx
  refine Eq.trans (congrArg (fun v => match pstate v p with
    | .broken _ => addItem p .census v
    | _ => v) hr) ?_
  dsimp only
  rw [hs]
  rfl

end

theorem takesReturns_ok {t : State} {x : PortState} (hm : t.pw.mode = .run) (he : x.cfg.enable = true) (hs : x.cfg.stub = false)
    (hp : x.stopped = false) (hx : x.state = .ok) : takesReturns t x = true := by
  rw [takesReturns, inRun, hm, he, hs, hp, hx]
  rfl

theorem awaitOf_echo {x : PortState} {a : Await} {hd : W32} (ha : x.awaits = [a]) (h : headerOk hd = true) (ht : a.type = hdrType hd)
    (hf : a.fmt = hdrFmt hd) (hq : a.fseq = hdrFseq hd) : awaitOf x hd = some a := by
  have hp : (a.type == hdrType hd && a.fmt == hdrFmt hd && a.fseq == hdrFseq hd) = true := by
    rw [ht, hf, hq]
    simp only [beq_self_eq_true, Bool.and_self]
  rw [awaitOf, if_pos h, ha]
  exact List.find?_cons_of_pos hp

section

variable {dt : Nat} {p : Port} {s t : State} (h : elapse dt s = t)
include h

theorem exec_loopReturn (r : Return) : exec (.loopReturn dt p r) s =
    .next (if takesReturns t (t.ports.get p) then takeReturn p r t else t) := by subst h; rfl

theorem exec_returnDeadline : exec (.returnDeadline dt p) s = .next (if takesReturns t (t.ports.get p) then
    ((t.ports.get p).awaits.filter fun a => decide (a.due ≤ t.now)).foldl (fun s a => lostReturn p a s) t else t) := by
  subst h; rfl

theorem exec_stringFrameEof : exec (.stringFrameEof dt p) s = .next
    (if (t.ports.get p).last.isSome && decide ((t.ports.get p).eofAt ≤ t.now) then
      configDone p (upPort p (fun x =>
        { x with release := false, ready := x.ready || (x.cfg.enable && x.cfg.stub && x.framed) }) t)
    else t) := by subst h; rfl

theorem exec_readinessTimeout {a : Nat} (ha : (t.ports.get p).firstAt = some a) : exec (.readinessTimeout dt p) s = .next
    (if (t.ports.get p).cfg.enable = true ∧ (t.ports.get p).ready = false ∧ inRun t = true ∧ a + 1000000000000 ≤ t.now then
      raisePort p (t.ports.get p).state.code (t.ports.get p).state.code 1 (markReady p t) else t) := by
  subst h
  rw [exec, execReadinessTimeout]
  simp only [ha]
  rfl

theorem exec_lampenAssert : exec (.lampenAssert dt) s = .next (if inRun t && !t.pw.vioLow && allReady t then
    { t with pw.lampMet := true, pw.lampen := !t.pw.lampHold } else t) := by subst h; rfl

end

theorem sat_tol (v : Nat) : sat 32 v = min v 0xFFFFFFFF := rfl

/-- A return that echoes the frame awaited, on a port that takes returns (R90, R255). -/
theorem takeReturn_echo {p : Port} {r : Return} {a : Await} {t : State}
    (he : awaitOf (t.ports.get p) r.header = some a) (hd : t.now ≤ a.due) : takeReturn p r t =
      if r.clean && decide (r.tol ≤ 8) then
        goodReturn p a r.words (setPort p { t.ports.get p with tol := min ((t.ports.get p).tol + r.tol) 0xFFFFFFFF, ready := true } t)
      else lostReturn p a (setPort p { t.ports.get p with tol := min ((t.ports.get p).tol + r.tol) 0xFFFFFFFF, ready := true } t) := by
  have he' : awaitOf { t.ports.get p with tol := min ((t.ports.get p).tol + r.tol) 0xFFFFFFFF } r.header = some a := he
  have hl : ¬ a.due < t.now := Nat.not_lt.2 hd
  simp only [takeReturn, countTol, sat_tol, upPort, setPort_get_self, he']
  refine (if_neg hl).trans ?_
  rw [markReady, upPort_setPort]

/-- With no report address an event is not held (R352). -/
theorem raise_none {t : State} (h : t.cfg.notify.addr = 0) {op : Byte} {port : Nat} {fields : List Byte} {stamp : W48} :
    raise op port fields stamp t = t := if_pos h

theorem configDone_none {p : Port} {t : State} (h : (t.ports.get p).configs = []) : configDone p t = t := by
  simp only [configDone, h]

/-- Settles O48. -/
theorem returnsAreTaken : Obligations.ReturnsAreTaken := by
  intro dt p s
  generalize h : elapse dt s = t
  intro t'
  subst t'
  intro x lost
  refine ⟨fun hm hen hst hsp hx => ⟨fun r a ha hh hty hfm hq hd => ?_, fun a ha hd hty => ?_⟩, fun hl hd hc => ?_,
    fun a ha hd hen hr hm hn => ?_, fun hm hv hr => ?_⟩
  · rw [exec_loopReturn h, takesReturns_ok hm hen hst hsp hx, if_pos rfl,
      takeReturn_echo (awaitOf_echo ha hh hty hfm hq) hd]
    refine ⟨fun hc ht hw => ?_, fun hty hb hev => ?_⟩
    · obtain ⟨sn, sa, sl, ids, pl, n, fl, d, hg⟩ := goodReturn_full (p := p) (a := a) (t := t) (l := r.words)
        (x := { x with tol := min (x.tol + r.tol) 0xFFFFFFFF, ready := true }) hx ha hw
      rw [hc, decide_eq_true ht, Bool.and_true, if_pos rfl, hg]
      refine ⟨_, rfl, ?_⟩
      dsimp only
      simp only [setPort_get_self, setPort_rd, setPort_span, true_and]
      exact ⟨hx, fun k hk => setPort_get_of_ne hk⟩
    · have hbad : (r.clean && decide (r.tol ≤ 8)) = false := by
        rcases hb with hb | hb
        · rw [hb, Bool.false_and]
        · rw [decide_eq_false (Nat.not_le.2 hb), Bool.and_false]
      rw [hbad, if_neg Bool.false_ne_true]
      have hlost := lostReturn_data (t := t) (p := p) (x := { x with tol := min (x.tol + r.tol) 0xFFFFFFFF, ready := true })
        hx ha hty
      rw [hlost, breakEvidence_counts (by exact hev)]
  · have hf : (t.ports.get p).awaits.filter (fun a => decide (a.due ≤ t.now)) = [a] := by
      rw [ha]
      exact List.filter_cons_of_pos (decide_eq_true hd)
    have hlost := lostReturn_data (t := t) (p := p) (x := t.ports.get p) hx ha hty
    rw [setPort_same] at hlost
    rw [exec_returnDeadline h, takesReturns_ok hm hen hst hsp hx, if_pos rfl, hf, List.foldl_cons, List.foldl_nil, hlost]
    exact ⟨fun hev => congrArg _ (breakEvidence_counts hev), fun hev => congrArg _ (breakEvidence_third hev)⟩
  · rw [exec_stringFrameEof h, hl, decide_eq_true hd, Bool.and_true, if_pos rfl]
    refine congrArg _ (configDone_none ?_)
    rw [upPort_get_self]
    exact hc
  · have hrun : inRun t = true := by rw [inRun, hm]; rfl
    have hn' : (markReady p t).cfg.notify.addr = 0 := hn
    rw [exec_readinessTimeout h ha, if_pos ⟨hen, hr, hrun, hd⟩, raisePort, raise_none hn']
    rfl
  · have hall : allReady t = true := by
      refine List.all_eq_true.2 fun k _ => ?_
      cases he : (t.ports.get k).cfg.enable with
      | false => rfl
      | true => rw [hr k he]; rfl
    rw [exec_lampenAssert h, inRun, hm, hv, hall]
    rfl

end Sys2Proof.Machine
end

section
/-!
PROOFS. The maintenance of a port (09, 10, R256 to R262, R272, R279, R281): the start of an item and the presence sample.
-/
namespace Sys2Proof.Machine

open Sys2Proof.Claims

-- Proofs in parallel hold one thread each, and a text this long would have more of them than the check has room for.
set_option Elab.async false

/-! ## What an answer to a clause leaves as it is -/

/-- `u` is `s` but for its queues and clauses, and for what waited for a reply. -/
def Answered (s u : State) : Prop := ∃ sp c sv rr sr,
  u = { s with span := sp, cl := c, svc := sv, pw.resetReq := rr, pw.shelfReq := sr }

theorem Answered.refl (s : State) : Answered s s := ⟨_, _, _, _, _, rfl⟩

theorem Answered.trans {s u v : State} (h : Answered s u) (k : Answered u v) : Answered s v := by
  obtain ⟨sp, c, sv, rr, sr, rfl⟩ := h
  obtain ⟨sp', c', sv', rr', sr', rfl⟩ := k
  exact ⟨sp', c', sv', rr', sr', rfl⟩

theorem Answered.ports {s u : State} (h : Answered s u) : u.ports = s.ports := by
  obtain ⟨sp, c, sv, rr, sr, rfl⟩ := h
  rfl

theorem Answered.cnt {s u : State} (h : Answered s u) : u.cnt = s.cnt := by
  obtain ⟨sp, c, sv, rr, sr, rfl⟩ := h
  rfl

theorem finishClause_answered (q : Req) (es : List (Byte × Byte × List Byte)) (id : Nat) (s : State) :
    Answered s (finishClause q es id s) := by
  unfold finishClause
  split
  · split
    · exact ⟨_, _, _, _, _, rfl⟩
    · obtain ⟨rr, sr, h⟩ := replyGone_frame (some id) s
      exact ⟨_, _, _, rr, sr, h⟩
  · exact replyOr_frame _ _ _ _ _

theorem resolveNow_answered (tok : Tok) (st : Byte) (bytes : List Byte) (s : State) : Answered s (resolveNow tok st bytes s) := by
  unfold resolveNow
  split
  · exact .refl s
  · dsimp only
    split
    · exact Answered.trans (u := { s with cl.waiting := _ }) ⟨_, _, _, _, _, rfl⟩ (finishClause_answered _ _ _ _)
    · exact ⟨_, _, _, _, _, rfl⟩

theorem resolve_answered (tok : Tok) (st : Byte) (bytes : List Byte) (s : State) : Answered s (resolve tok st bytes s) := by
  unfold resolve
  split
  · exact ⟨_, _, _, _, _, rfl⟩
  · exact resolveNow_answered tok st bytes s

theorem foldl_answered {α : Type} {f : State → α → State} (hf : ∀ s a, Answered s (f s a)) (l : List α) (s : State) :
    Answered s (l.foldl f s) := by
  induction l generalizing s with
  | nil => exact .refl s
  | cons a l ih => exact (hf s a).trans (ih (f s a))

/-! ## The start of an item (R256, R258, R272) -/

theorem le_foldl_max (l : List Nat) (n : Nat) : n ≤ l.foldl max n := by
  induction l generalizing n with
  | nil => exact Nat.le_refl n
  | cons a l ih => exact Nat.le_trans (Nat.le_max_left n a) (ih (max n a))

section

variable {p : Port} {m : Maint} {t : State}

/-- What the start of an item comes to (R256, R258, R262). -/
def Begun (p : Port) (m : Maint) (t u : State) : Prop :=
  let x := t.ports.get p
  (u.ports.get p).cur = some m ∧ (∀ e ∈ (u.ports.get p).items, e ∈ x.items ∧ e.1 ≠ m)
  ∧ (m = .reset → (u.ports.get p).fseq = x.fseq ∧ (u.ports.get p).pulse = some { at_ := t.now, width := 60000000 })
  ∧ (m ≠ .reset → (u.ports.get p).fseq = x.fseq + 1
      ∧ (∃ side, (u.ports.get p).last = some { header := headerOf 3 x.cfg.fmt.toNat (x.fseq + 1) side false, slots := [] })
      ∧ ∃ a, (u.ports.get p).eofAt + x.cfg.n * 16 * bitPs x.cfg.rate + 2000000 ≤ a ∧ (u.ports.get p).pulse = some {
          at_ := a, width := if m = .census then 8000000 else if m = .status then 2000000 else 4000000 })
  ∧ u.rd = t.rd ∧ ∀ k ≠ p, u.ports.get k = t.ports.get k

theorem items_left {m : Maint} {l : List (Maint × Nat)} : ∀ e ∈ l.filter (fun i => i.1 != m), e ∈ l ∧ e.1 ≠ m := by
  intro e he
  obtain ⟨hm, hne⟩ := List.mem_filter.1 he
  exact ⟨hm, bne_iff_ne.1 hne⟩

theorem startItem_reset : Begun p .reset t (startItem p .reset t) := by
  have hg : (startItem p .reset t).ports.get p = _ := upPort_get_self p _ t
  refine ⟨by rw [hg], by rw [hg]; exact items_left, fun _ => ?_, fun h => absurd rfl h, rfl, fun k hk => setPort_get_of_ne hk⟩
  rw [hg]
  exact ⟨rfl, rfl⟩

/-- A QUERY frame leaves (R231, R234). -/
theorem sendForward_query (p : Port) (t : State) : ∃ y side,
    sendForward p tyQuery (t.ports.get p).cfg.fmt.toNat false (t.ports.get p).cfg.rate [] t.now t = setPort p y t
    ∧ y.fseq = (t.ports.get p).fseq + 1 ∧ y.items = (t.ports.get p).items ∧ y.cfg = (t.ports.get p).cfg
    ∧ y.last = some { header := headerOf 3 (t.ports.get p).cfg.fmt.toNat ((t.ports.get p).fseq + 1) side false, slots := [] } :=
  ⟨_, _, rfl, rfl, rfl, rfl, rfl⟩

theorem startQuery_begun (h : m ≠ .reset) : Begun p m t (startQuery p m t) := by
  obtain ⟨y, side, hs, hf, hi, hc, hl⟩ := sendForward_query p t
  obtain ⟨a, ha⟩ : ∃ a, ((y.awaits.filter fun a => a.fseq == y.fseq).map (·.due)).foldl max (pulseFrom y) = a := ⟨_, rfl⟩
  have hle : pulseFrom y ≤ a := ha ▸ le_foldl_max _ _
  have hq : startQuery p m t = setPort p { y with
      items := y.items.filter fun i => i.1 != m, cur := some m, pulse := some { at_ := a, width := pulseWidth m } } t := by
    simp only [startQuery, hs, setPort_get_self, beginItem, upPort_setPort, ha]
  have hw : pulseWidth m = if m = .census then 8000000 else if m = .status then 2000000 else 4000000 := by
    cases m with
    | reset => exact absurd rfl h
    | census => rfl
    | status => rfl
    | identity => rfl
  rw [hq]
  refine ⟨by rw [setPort_get_self], ?_, fun e => absurd e h, fun _ => ?_, rfl, fun k hk => setPort_get_of_ne hk⟩
  · rw [setPort_get_self, ← hi]
    exact items_left
  · rw [setPort_get_self, ← hw, ← hc]
    exact ⟨hf, ⟨side, hc ▸ hl⟩, a, hle, rfl⟩

theorem startItem_begun : Begun p m t (startItem p m t) := by
  cases m with
  | reset => exact startItem_reset
  | census => exact startQuery_begun (by decide)
  | status => exact startQuery_begun (by decide)
  | identity => exact startQuery_begun (by decide)

end

/-- The item at the head of those that wait is picked where it is admitted (R272, R281). -/
theorem pickItem_head {x : PortState} {m : Maint} {since : Nat} {rest : List (Maint × Nat)} {ok : Maint × Nat → Bool}
    (h : x.items = (m, since) :: rest) (hf : x.fresh = true → m ≠ .census) (ho : ok (m, since) = true) :
    pickItem x ok = some m := by
  have hadm : (ok (m, since) && !(x.fresh && (m, since).1 == .census)) = true := by
    cases hx : x.fresh with
    | false => rw [ho]; rfl
    | true => rw [ho, beq_eq_false_iff_ne.2 (hf hx)]; rfl
  rw [pickItem, h]
  exact congrArg (Option.map Prod.fst) (List.find?_cons_of_pos hadm)

/-! ## The presence sample (R262, R281) -/

section

variable {dt : Nat} {p : Port} {s t : State} (h : elapse dt s = t)
include h

theorem exec_maintenanceStart : exec (.maintenanceStart dt p) s = .next (if maintReady t (t.ports.get p) then
    match pickItem (t.ports.get p) fun i => canFinish t (t.ports.get p) i.1 with
    | some m => startItem p m t
    | none => t else t) := by subst h; rfl

theorem exec_maintenanceForced : exec (.maintenanceForced dt p) s = .next (if maintReady t (t.ports.get p) then
    match pickItem (t.ports.get p) fun i => decide (i.2 + 1000000000000 ≤ t.now) with
    | some m => startItem p m t
    | none => t else t) := by subst h; rfl

theorem exec_presenceSample (low : Bool) : exec (.presenceSample dt p low) s = .next
    (if (t.ports.get p).cur = some .reset ∧ inRun t = true ∧ releasedFor 20000000 (t.ports.get p) t = true then
      settleLine p (presence p low t) else t) := by subst h; rfl

end

theorem maintReady_live {t : State} {x : PortState} (hm : t.pw.mode = .run) (hv : t.pw.vioLow = false) (hs : x.stopped = false)
    (hr : x.state ≠ .relay) (he : x.cfg.enable = true) (hg : itemGap x t.now = true) : maintReady t x = true := by
  rw [maintReady, portLive, inRun, hm, hv, hs, bne_iff_ne.2 hr, he, hg]
  rfl

/-- With nothing waiting for SnO the line stays as it is. -/
theorem settleLine_idle {p : Port} {t : State} (hd : (t.ports.get p).due = none) (hk : (t.ports.get p).keepDue = false) :
    settleLine p t = t := by
  have hdue : settleDue p t = t := by simp only [settleDue, hd]
  rw [settleLine, hdue, settleKeep, hk]
  rfl

theorem releasedFor_pulse {x : PortState} {t : State} {l : Pulse} (h : x.pulse = some l) {ago : Nat} :
    releasedFor ago x t = decide (l.at_ + l.width + ago ≤ t.now) := by
  rw [releasedFor, releasedAt, h]
  rfl

/-- The ports other than `p` are those of `t`. -/
def OthersKept (p : Port) (t s : State) : Prop := ∀ k ≠ p, s.ports.get k = t.ports.get k

theorem OthersKept.refl (p : Port) (t : State) : OthersKept p t t := fun _ _ => rfl

theorem upPort_others {p : Port} {t s : State} {f : PortState → PortState} (h : OthersKept p t s) :
    OthersKept p t (upPort p f s) := fun k hk => (upPort_get_of_ne f s hk).trans (h k hk)

theorem othersKept_of_ports {p : Port} {t s u : State} (hp : u.ports = s.ports) (h : OthersKept p t s) : OthersKept p t u := by
  intro k hk
  rw [hp]
  exact h k hk

theorem Answered.others {p : Port} {t s u : State} (ha : Answered s u) (h : OthersKept p t s) : OthersKept p t u :=
  othersKept_of_ports ha.ports h

/-- A chain found at boot (R262, R281, R338). -/
theorem presence_found {p : Port} {t : State} (hw : (t.ports.get p).why = .boot) {l : Pulse} (hl : (t.ports.get p).pulse = some l) :
    ∃ y, (presence p true t).ports.get p = y ∧ y.state = .ok ∧ y.cur = none
      ∧ y.freeAt = max t.now (l.at_ + l.width + 45000000) ∧ y.fresh = true ∧ y.due = (t.ports.get p).due
      ∧ y.keepDue = (t.ports.get p).keepDue ∧ (presence p true t).cnt.cycles.get p = bump (t.cnt.cycles.get p)
      ∧ ∀ k ≠ p, (presence p true t).ports.get k = t.ports.get k := by
  refine ⟨_, rfl, ?_⟩
  simp only [presence, hw, if_true, chainFound, firstState, upPort_get_self, hl, upPort_cnt, vector_get_set, true_and]
  exact ⟨rfl, fun k hk => by simp only [upPort_get_of_ne _ _ hk]⟩

/-- Every PORT.PROBE of the port is answered (R408). -/
theorem serveProbes_answered (p : Port) (s : State) :
    Answered (upPort p (fun x => { x with probes := [] }) s) (serveProbes p s) :=
  foldl_answered (fun s tok => resolve_answered tok _ _ s) _ _

/-- What waits on a port without CONFIG requests is cut (R393). -/
theorem cutRequests_answered {p : Port} {s : State} (hc : (s.ports.get p).configs = []) : ∃ u,
    Answered (upPort p (fun x => { x with idents := [], probes := [] }) s) u
    ∧ cutRequests p s = upPort p (fun x => { x with configs := [] }) u := by
  obtain ⟨u, hu⟩ : ∃ u, (s.ports.get p).idents.foldl
      (fun s i => resolve i.tok stPartial (List.replicate (8 * i.count) 0) s)
      ((s.ports.get p).probes.foldl (fun s t => resolve t stPartial [0, 0, 0, 0xFF, 0xFF] s)
        (upPort p (fun x => { x with idents := [], probes := [] }) s)) = u := ⟨_, rfl⟩
  have ha : Answered (upPort p (fun x => { x with idents := [], probes := [] }) s) u := by
    rw [← hu]
    exact (foldl_answered (fun s tok => resolve_answered tok _ _ s) _ _).trans
      (foldl_answered (fun s (i : IdentReq) => resolve_answered i.tok _ _ s) _ _)
  have hcu : (u.ports.get p).configs = [] := by
    rw [ha.ports, upPort_get_self]
    exact hc
  refine ⟨u, ha, ?_⟩
  rw [cutRequests, hu, cutConfigs, hcu, List.foldl_nil]

/-- No chain at boot: what waits for its answer is answered (R262, R281, R393). -/
theorem presence_absent {p : Port} {t : State} (hw : (t.ports.get p).why = .boot) (hc : (t.ports.get p).configs = []) :
    ∃ y, (presence p false t).ports.get p = y ∧ y.state = .nochain ∧ y.cur = none
      ∧ y.items = (t.ports.get p).items.filter (fun i => i.1 != .census && i.1 != .identity)
      ∧ y.due = (t.ports.get p).due ∧ y.keepDue = (t.ports.get p).keepDue ∧ (presence p false t).cnt = t.cnt
      ∧ ∀ k ≠ p, (presence p false t).ports.get k = t.ports.get k := by
  obtain ⟨v, hv, hcnt, hother, hcf, hst, hcur, hitems, hdue, hkeep⟩ : ∃ v, presence p false t = cutRequests p (serveProbes p v) ∧ v.cnt = t.cnt ∧ OthersKept p t v
      ∧ (v.ports.get p).configs = [] ∧ (v.ports.get p).state = .nochain ∧ (v.ports.get p).cur = none
      ∧ (v.ports.get p).items = ((t.ports.get p).items.filter fun i => i.1 != .census).filter (fun i => i.1 != .identity)
      ∧ (v.ports.get p).due = (t.ports.get p).due ∧ (v.ports.get p).keepDue = (t.ports.get p).keepDue := by
    refine ⟨?v, ?eq, ?kept⟩
    case eq =>
      rw [presence, hw, if_neg Bool.false_ne_true, chainAbsent]
    case kept =>
      simp only [firstState, upPort_get_self, hc, upPort_cnt, true_and, and_self, and_true]
      exact fun k hk => by simp only [upPort_get_of_ne _ _ hk]
  have hs := serveProbes_answered p v
  have hsp : (serveProbes p v).ports.get p = { v.ports.get p with probes := [] } := by rw [hs.ports, upPort_get_self]
  obtain ⟨u, hu, hcut⟩ := cutRequests_answered (p := p) (s := serveProbes p v) (by rw [hsp]; exact hcf)
  have hup : u.ports.get p = { v.ports.get p with probes := [], idents := [] } := by
    rw [hu.ports, upPort_get_self, hsp]
  refine ⟨{ v.ports.get p with probes := [], idents := [], configs := [] }, ?_, hst, hcur, ?_, hdue, hkeep, ?_, ?_⟩
  · rw [hv, hcut, upPort_get_self, hup]
  · rw [hitems, List.filter_filter]
    refine List.filter_congr fun i _ => Bool.and_comm _ _
  · rw [hv, hcut, upPort_cnt, hu.cnt, upPort_cnt, hs.cnt, upPort_cnt, hcnt]
  · rw [hv, hcut]
    exact upPort_others (hu.others (upPort_others (hs.others (upPort_others hother))))

/-- Settles O49. -/
theorem maintenanceRuns : Obligations.MaintenanceRuns := by
  intro dt p s
  generalize h : elapse dt s = t
  intro t'
  subst t'
  intro x
  refine ⟨fun m since rest hi hm hv hst hr hen hg hfr => ?_, fun l hc hl hm hd hk => ⟨fun low hlt => ?_, fun hle hw => ?_⟩⟩
  · intro begun
    have hready := maintReady_live hm hv hst hr hen hg
    refine ⟨fun hf => ⟨startItem p m t, ?_, startItem_begun⟩, fun hs => ⟨startItem p m t, ?_, startItem_begun⟩⟩
    · rw [exec_maintenanceStart h, if_pos hready, pickItem_head hi hfr hf]
    · rw [exec_maintenanceForced h, if_pos hready, pickItem_head hi hfr (decide_eq_true hs)]
  · have hrel : releasedFor 20000000 (t.ports.get p) t = false := by
      rw [releasedFor_pulse hl]
      exact decide_eq_false (Nat.not_le.2 hlt)
    rw [exec_presenceSample h, if_neg fun e => Bool.false_ne_true (hrel.symm.trans e.2.2)]
  · have hrel : releasedFor 20000000 (t.ports.get p) t = true := (releasedFor_pulse hl).trans (decide_eq_true hle)
    have hin : inRun t = true := by rw [inRun, hm]; rfl
    have hex : ∀ low, exec (.presenceSample dt p low) s = .next (settleLine p (presence p low t)) := fun low => by
      rw [exec_presenceSample h, if_pos ⟨hc, hin, hrel⟩]
    refine ⟨?_, fun hcf => ?_⟩
    · obtain ⟨y, hy, hst, hcur, hfree, hfresh, hdue, hkeep, hcyc, hother⟩ := presence_found hw hl
      have hsettle : settleLine p (presence p true t) = presence p true t :=
        settleLine_idle (by rw [hy, hdue]; exact hd) (by rw [hy, hkeep]; exact hk)
      refine ⟨presence p true t, by rw [hex, hsettle], ?_⟩
      rw [hy]
      exact ⟨hst, hcur, hfree, hfresh, hcyc, hother⟩
    · obtain ⟨y, hy, hst, hcur, hitems, hdue, hkeep, hcnt, hother⟩ := presence_absent hw hcf
      have hsettle : settleLine p (presence p false t) = presence p false t :=
        settleLine_idle (by rw [hy, hdue]; exact hd) (by rw [hy, hkeep]; exact hk)
      refine ⟨presence p false t, by rw [hex, hsettle], ?_⟩
      rw [hy]
      exact ⟨hst, hcur, hitems, hcnt, hother⟩

end Sys2Proof.Machine
end

section
/-!
PROOFS. Backward answers, their time limits and the periodic probes (09, 10, R261, R275 to R280).
-/
namespace Sys2Proof.Machine

open Sys2Proof.Claims

-- Proofs in parallel hold one thread each, and a text this long would have more of them than the check has room for.
set_option Elab.async false

/-! ## What the parts of an answer make of the port -/

/-- An item of class `m` waits. -/
def Waits (m : Maint) (l : List (Maint × Nat)) : Prop := ∃ since, (m, since) ∈ l

theorem waits_of_any {m : Maint} {l : List (Maint × Nat)} (h : (l.any fun i => i.1 == m) = true) : Waits m l := by
  obtain ⟨i, hi, hm⟩ := List.any_eq_true.1 h
  have he : i.1 = m := eq_of_beq hm
  exact ⟨i.2, he ▸ hi⟩

section

variable {p : Port} {s : State} {y : PortState} (h : s.ports.get p = y)
include h

theorem upPort_port (f : PortState → PortState) : (upPort p f s).ports.get p = f y := by rw [upPort_get_self, h]

theorem answered_port {u : State} (ha : Answered s u) : u.ports.get p = y := by rw [ha.ports, h]

/-- An item waits, whether it had been waiting or not (R272). -/
theorem addItem_port (m : Maint) : ∃ l, (addItem p m s).ports.get p = { y with items := l } ∧ Waits m l := by
  rw [addItem, upPort_port h]
  cases ha : y.items.any fun i => i.1 == m with
  | true => exact ⟨y.items, rfl, waits_of_any ha⟩
  | false => exact ⟨_, rfl, s.now, by simp⟩

/-- A reset with presence is wanted (R281): unless one is in progress it waits. -/
theorem wantReset_port (w : ResetWhy) (hc : y.cur = none) :
    ∃ l v, (wantReset p w s).ports.get p = { y with items := l, why := v } ∧ Waits .reset l := by
  have hq : (!w.holds && ((s.ports.get p).cur == some .reset
      || ((s.ports.get p).items.any (fun i => i.1 == .reset) && (s.ports.get p).why.holds))) = true → Waits .reset y.items := by
    intro hq
    rw [h, hc] at hq
    refine waits_of_any ?_
    simp only [Bool.and_eq_true, Bool.or_eq_true] at hq
    exact (hq.2.resolve_left (by decide)).1
  unfold wantReset
  dsimp only
  split
  · rename_i hw
    exact ⟨y.items, y.why, h, hq hw⟩
  · obtain ⟨l, hl, hwait⟩ := addItem_port (upPort_port h fun x => { x with why := w }) .reset
    exact ⟨l, w, hl, hwait⟩

theorem raise_port {op : Byte} {port : Nat} {fields : List Byte} {stamp : W48} :
    (raise op port fields stamp s).ports.get p = y := by
  unfold raise
  split
  · exact h
  · exact h

theorem changeState_port (new : PState) (reason : Byte) :
    (changeState p new reason s).ports.get p = { y with state := new, ready := y.ready || new.isDown } := by
  have hu := upPort_port h fun x => { x with state := new, ready := x.ready || new.isDown }
  unfold changeState
  dsimp only
  split
  · exact hu
  · rw [raisePort]
    refine raise_port ?_
    exact hu

theorem serveProbes_port : (serveProbes p s).ports.get p = { y with probes := [] } :=
  answered_port (upPort_port h _) (serveProbes_answered p s)

theorem observed_port (n : Nat) (fl : Fail) (d : Nat) : (observed p n fl d s).ports.get p = { y with parity := n } := by
  rw [← h]
  exact setPort_get_self

theorem evidenceIfOk_port (bad : Bool) : ∃ n l, (evidenceIfOk p bad s).ports.get p = { y with evidence := n, items := l } := by
  unfold evidenceIfOk
  split
  · split
    · unfold breakEvidence
      dsimp only
      split
      · obtain ⟨l, hl, -⟩ := addItem_port (upPort_port h fun x => { x with evidence := 0 }) .census
        exact ⟨0, l, hl⟩
      · exact ⟨_, y.items, upPort_port h _⟩
    · exact ⟨_, y.items, upPort_port h _⟩
  · exact ⟨_, _, h⟩

/-! ### The outcome of a census (R278, R279) -/

/-- Whether a census finds more cells than the state of the port has (R279). -/
def PState.betterBy (c : Nat) : PState → Bool
  | .broken k => decide (c > k)
  | _ => false

theorem probeOutcome_eq (c : Nat) : ∃ u, u.ports.get p = { y with c := some c, tries := 3 } ∧ probeOutcome p c s =
    if y.state.betterBy c && !y.second then wantReset p .probe (upPort p (fun x => { x with second := true }) u)
    else if c = 0 then wantReset p .zero (upPort p (fun x => { x with second := false }) u)
    else serveProbes p (changeState p
      (if c ≥ y.cfg.n then (if y.cfg.stub || y.returned then PState.ok else .broken y.cfg.n) else .broken c) 0
      (upPort p (fun x => { x with second := false }) u)) := by
  have hu := upPort_port h fun x => { x with c := some c, tries := 3 }
  refine ⟨_, hu, ?_⟩
  rw [probeOutcome]
  dsimp only
  rw [hu]
  rfl

/-- C = 0: a reset is wanted (R279). -/
theorem probeOutcome_zero (hc : y.cur = none) : ∃ l v, (probeOutcome p 0 s).ports.get p =
    { y with c := some 0, tries := 3, second := false, items := l, why := v } ∧ Waits .reset l := by
  obtain ⟨u, hu, he⟩ := probeOutcome_eq h 0
  have hb : y.state.betterBy 0 = false := by
    cases y.state with
    | broken k => exact decide_eq_false (Nat.not_lt_zero k)
    | off => rfl
    | ok => rfl
    | nochain => rfl
    | relay => rfl
  rw [he, hb, Bool.false_and, if_neg Bool.false_ne_true, if_pos rfl]
  exact wantReset_port (upPort_port hu fun x => { x with second := false }) .zero hc

/-- More cells than the port's state has: a reset first, once (R279). -/
theorem probeOutcome_better {c k : Nat} (hs : y.state = .broken k) (hk : k < c) (h2 : y.second = false) (hc : y.cur = none) :
    ∃ l v, (probeOutcome p c s).ports.get p = { y with c := some c, tries := 3, second := true, items := l, why := v }
      ∧ Waits .reset l := by
  obtain ⟨u, hu, he⟩ := probeOutcome_eq h c
  have hb : (y.state.betterBy c && !y.second) = true := by
    rw [hs, h2, PState.betterBy, decide_eq_true hk]
    rfl
  rw [he, hb, if_pos rfl]
  exact wantReset_port (upPort_port hu fun x => { x with second := true }) .probe hc

/-- Table 10-4. -/
theorem probeOutcome_decides {c : Nat} (hc : 0 < c) (hb : ∀ k, y.state = .broken k → c ≤ k ∨ y.second = true) :
    ∃ rd, (probeOutcome p c s).ports.get p = { y with
      c := some c, tries := 3, second := false, probes := [], ready := rd
      state := if c < y.cfg.n then .broken c else if y.cfg.stub = true ∨ y.returned = true then .ok else .broken y.cfg.n } := by
  obtain ⟨u, hu, he⟩ := probeOutcome_eq h c
  have hbad : (y.state.betterBy c && !y.second) = false := by
    cases hs : y.state with
    | broken k =>
      rcases hb k hs with hk | h2
      · rw [PState.betterBy, decide_eq_false (Nat.not_lt.2 hk), Bool.false_and]
      · rw [h2, Bool.not_true, Bool.and_false]
    | off => rfl
    | ok => rfl
    | nochain => rfl
    | relay => rfl
  have hnew : (if c ≥ y.cfg.n then (if y.cfg.stub || y.returned then PState.ok else .broken y.cfg.n) else .broken c) =
      if c < y.cfg.n then .broken c else if y.cfg.stub = true ∨ y.returned = true then .ok else .broken y.cfg.n := by
    simp only [Bool.or_eq_true, ge_iff_le, ← Nat.not_lt, ite_not]
  rw [he, hbad, if_neg Bool.false_ne_true, if_neg (Nat.ne_of_gt hc), hnew]
  exact ⟨_, serveProbes_port (changeState_port (upPort_port hu fun x => { x with second := false }) _ 0)⟩

/-! ### The answers (R275, R276, R278) -/

theorem statusAnswer_port (l : List W12) : ∃ n e i, (statusAnswer p l s).ports.get p =
    { y with w := some l.length, parity := n, evidence := e, items := i } := by
  have hu := upPort_port h fun x => { x with w := some l.length }
  obtain ⟨n, fl, d, ho⟩ := observations_frame p ((upPort p (fun x => { x with w := some l.length }) s).ports.get p).fseq l.reverse
    (upPort p (fun x => { x with w := some l.length }) s)
  rw [statusAnswer, ho]
  obtain ⟨e, i, he⟩ := evidenceIfOk_port (observed_port hu n fl d) _
  exact ⟨n, e, i, he⟩

theorem serveIdents_port (x : PortState) : (serveIdents p x s).ports.get p = { y with idents := [] } :=
  answered_port (upPort_port h fun x => { x with idents := [] })
    (foldl_answered (fun s (i : IdentReq) => resolve_answered i.tok _ _ s) _ _)

theorem identAnswer_port (l : List W64) : ∃ t, (identAnswer p (some l) s).ports.get p = { y with ids := t, idents := [] } :=
  ⟨_, serveIdents_port (upPort_port h fun x => { x with ids := identTab x.cfg.n l }) _⟩

/-- A census asked for again (R278). -/
theorem censusRetry_again (ht : y.tries ≠ 0) : ∃ l, (censusRetry p s).ports.get p =
    { y with tries := y.tries - 1, items := l } ∧ Waits .census l := by
  rw [censusRetry, h, if_neg ht]
  exact addItem_port (upPort_port h fun x => { x with tries := x.tries - 1 }) .census

/-- What holds the line of a port: the item in progress, the instant from which SnO is free, and what waits for it. -/
def PortState.line (x : PortState) : Option Maint × Nat × Option DueFrame × Bool × Bool :=
  (x.cur, x.freeAt, x.due, x.keepDue, x.discarded)

theorem censusRetry_line (hc : y.cur = none) : ((censusRetry p s).ports.get p).line = y.line := by
  by_cases ht : y.tries = 0
  · obtain ⟨l, v, hp, -⟩ := probeOutcome_zero h hc
    rw [censusRetry, h, if_pos ht, hp]
    rfl
  · obtain ⟨l, hl, -⟩ := censusRetry_again h ht
    rw [hl]
    rfl

/-- The count of a census decides (R278, R279, Table 10-4). -/
def CensusTaken (y : PortState) (c : Nat) (z : PortState) : Prop :=
  z.c = some c
  ∧ ((∀ k, y.state = .broken k → c ≤ k ∨ y.second = true) →
    z.state = (if c < y.cfg.n then .broken c else if y.cfg.stub = true ∨ y.returned = true then .ok else .broken y.cfg.n))
  ∧ ∀ k, y.state = .broken k → k < c → y.second = false → z.state = .broken k ∧ z.second = true ∧ Waits .reset z.items

theorem probeOutcome_taken {c : Nat} (hc : y.cur = none) (h0 : 0 < c) : CensusTaken y c ((probeOutcome p c s).ports.get p)
    ∧ ((probeOutcome p c s).ports.get p).line = y.line := by
  by_cases hb : ∃ k, y.state = .broken k ∧ k < c ∧ y.second = false
  · obtain ⟨k, hs, hk, h2⟩ := hb
    obtain ⟨l, v, hp, hw⟩ := probeOutcome_better h hs hk h2 hc
    rw [hp]
    refine ⟨⟨rfl, fun hno => ?_, fun j hj _ _ => ⟨hj, rfl, hw⟩⟩, rfl⟩
    rcases hno k hs with hle | h2'
    · omega
    · rw [h2] at h2'
      exact absurd h2' Bool.false_ne_true
  · have hno : ∀ k, y.state = .broken k → c ≤ k ∨ y.second = true := fun k hs => by
      by_contra hcon
      obtain ⟨hle, h2⟩ := not_or.1 hcon
      exact hb ⟨k, hs, by omega, Bool.eq_false_iff.2 h2⟩
    obtain ⟨rd, hp⟩ := probeOutcome_decides h h0 hno
    rw [hp]
    exact ⟨⟨rfl, fun _ => rfl, fun k hs hk h2 => absurd ⟨k, hs, hk, h2⟩ hb⟩, rfl⟩

/-- What an answer that is taken makes of the port (R275, R276, R278). -/
theorem itemAnswer_taken {m : Maint} {r : Return} (hm : m ≠ .reset) (hc : y.cur = none) :
    ∃ z, (itemAnswer p m r true s).ports.get p = z ∧ z.line = y.line ∧ (m = .status → z.w = some r.words.length)
      ∧ (m = .identity → z.idents = []) ∧ (m = .census → countOk r = true → 0 < r.count.toNat → CensusTaken y r.count.toNat z) := by
  refine ⟨_, rfl, ?_⟩
  cases m with
  | reset => exact absurd rfl hm
  | status =>
    obtain ⟨n, e, i, hp⟩ := statusAnswer_port h r.words
    rw [itemAnswer, if_pos rfl, hp]
    exact ⟨rfl, fun _ => rfl, fun hm => absurd hm (by decide), fun hm => absurd hm (by decide)⟩
  | identity =>
    obtain ⟨ids, hp⟩ := identAnswer_port h r.idents
    rw [itemAnswer, if_pos rfl, hp]
    exact ⟨rfl, fun hm => absurd hm (by decide), fun _ => rfl, fun hm => absurd hm (by decide)⟩
  | census =>
    rw [itemAnswer, Bool.true_and]
    refine ⟨?_, fun hm => absurd hm (by decide), fun hm => absurd hm (by decide), fun _ hok h0 => ?_⟩
    · split
      · rcases Nat.eq_zero_or_pos r.count.toNat with h0 | h0
        · obtain ⟨l, v, hp, -⟩ := probeOutcome_zero h hc
          rw [h0, hp]
          rfl
        · exact (probeOutcome_taken h hc h0).2
      · exact censusRetry_line h hc
    · rw [if_pos hok]
      exact (probeOutcome_taken h hc h0).1

end

/-! ## Answers and their limits (R261) -/

section

variable {dt : Nat} {p : Port} {s t : State} (h : elapse dt s = t)
include h

/-- The end of an answer to the query in progress (R261). -/
theorem exec_backwardAnswer {m : Maint} {a : Nat} (hd : (t.ports.get p).discarded = false) (hm : m ≠ .reset)
    (hc : (t.ports.get p).cur = some m) (hr : releasedAt (t.ports.get p) = some a) (r : Return) :
    exec (.backwardAnswer dt p r) s = .next (settleLine p (if heard a r t then answerEnds p m a r t else t)) := by
  subst h
  rw [exec, execBackwardAnswer]
  simp only [hd, hc, hr, Bool.false_eq_true, if_false]
  cases m with
  | reset => exact absurd rfl hm
  | census => rfl
  | status => rfl
  | identity => rfl

theorem exec_backwardAnswer_discarded (hd : (t.ports.get p).discarded = true) (r : Return) :
    exec (.backwardAnswer dt p r) s = .next (settleLine p (discardEnds p t)) := by
  subst h
  rw [exec, execBackwardAnswer]
  simp only [hd, if_true]
  rfl

/-- A limit of the answer to the census in progress (R261). -/
theorem exec_answerTimeout_census {a : Nat} (hc : (t.ports.get p).cur = some .census)
    (hr : releasedAt (t.ports.get p) = some a) (begun : Bool) : exec (.answerTimeout dt p begun) s =
      .next (settleLine p (if begun then noHeader p .census a t else noPreamble p .census a t)) := by
  subst h
  rw [exec, execAnswerTimeout]
  simp only [hc, hr]
  rfl

theorem exec_periodicProbe : exec (.periodicProbe dt) s = .next
    (if inRun t && decide (wtN t % 4096 = 0) then eachPort periodicPort t else t) := by subst h; rfl

end

/-- An answer that began and was headed in time, and is taken (R261). -/
theorem answerEnds_taken {p : Port} {m : Maint} {a : Nat} {r : Return} {t : State} (hm : m ≠ .reset)
    (ha : answerOk (t.ports.get p) m r = true) (hh : t.now - r.headed ≤ headerLimit (t.ports.get p) a) :
    ∃ z, (answerEnds p m a r t).ports.get p = z ∧ z.cur = none ∧ z.freeAt = max (t.ports.get p).freeAt (t.now + 4000000)
      ∧ z.due = (t.ports.get p).due ∧ z.keepDue = (t.ports.get p).keepDue
      ∧ (m = .status → z.w = some r.words.length) ∧ (m = .identity → z.idents = [])
      ∧ (m = .census → countOk r = true → 0 < r.count.toNat → CensusTaken (t.ports.get p) r.count.toNat z) := by
  have hok : (answerOk (t.ports.get p) m r && decide (t.now - r.headed ≤ headerLimit (t.ports.get p) a)) = true := by
    rw [ha, decide_eq_true hh]
    rfl
  obtain ⟨y, hy⟩ : ∃ y, (endItem p (t.now + 4000000) (countTol p r.tol t)).ports.get p = y := ⟨_, rfl⟩
  have hyx : y = { t.ports.get p with
      tol := sat 32 ((t.ports.get p).tol + r.tol), cur := none, pulse := none
      freeAt := max (t.ports.get p).freeAt (t.now + 4000000) } := by
    rw [← hy, endItem, upPort_get_self, countTol, upPort_get_self]
  obtain ⟨z, hz, hline, hst, hid, hce⟩ := itemAnswer_taken (r := r) hy hm (by rw [hyx])
  refine ⟨z, ?_, ?_⟩
  · rw [answerEnds, hok]
    exact hz
  · simp only [PortState.line, hyx, Prod.mk.injEq] at hline
    obtain ⟨h1, h2, h3, h4, -⟩ := hline
    refine ⟨h1, h2, h3, h4, hst, hid, fun hm hok h0 => ?_⟩
    have ht := hce hm hok h0
    rw [hyx] at ht
    exact ht

/-! ## The periodic probes (R278, R280) -/

/-- Steps of ports reach `Q` of port `k` where port `k`'s own step does, and the others' steps do not touch it. -/
theorem foldl_ports_reaches {f : State → Port → State} {k : Port} {P : State → Prop} {Q : PortState → Prop}
    (other : ∀ p s, p ≠ k → P s → P (f s p)) (own : ∀ s, P s → Q ((f s k).ports.get k))
    (keep : ∀ p s, p ≠ k → (f s p).ports.get k = s.ports.get k) {l : List Port} {s : State} (hn : l.Nodup) (hk : k ∈ l)
    (h : P s) : Q ((l.foldl f s).ports.get k) := by
  have hkeep : ∀ (l : List Port) (s : State), k ∉ l → Q (s.ports.get k) → Q ((l.foldl f s).ports.get k) := by
    intro l
    induction l with
    | nil => exact fun _ _ hq => hq
    | cons p l ih =>
      intro s hk hq
      obtain ⟨hne, hl⟩ := not_or.1 (fun e => hk (List.mem_cons.2 e))
      exact ih (f s p) hl (by rw [keep p s (Ne.symm hne)]; exact hq)
  induction l generalizing s with
  | nil => exact absurd hk List.not_mem_nil
  | cons p l ih =>
    obtain ⟨hnot, hl⟩ := List.nodup_cons.1 hn
    by_cases hpk : p = k
    · subst hpk
      exact hkeep l (f s p) hnot (own s h)
    · exact ih hl ((List.mem_cons.1 hk).resolve_left (Ne.symm hpk)) (other p s hpk h)

/-- A request to a port touches that port alone. -/
theorem periodicPort_frame (p : Port) (s : State) : ∃ x, periodicPort p s = setPort p x s := by
  have hadd : ∀ m v, ∃ x, addItem p m v = setPort p x v := fun m v => ⟨_, rfl⟩
  have hwant : ∃ x, wantReset p .probe s = setPort p x s := by
    unfold wantReset
    dsimp only
    split
    · exact ⟨_, setPort_same.symm⟩
    · obtain ⟨x, hx⟩ := hadd .reset (upPort p (fun x => { x with why := .probe }) s)
      exact ⟨x, by rw [hx, upPort, setPort_setPort]⟩
  have hsame : ∃ x, s = setPort p x s := ⟨_, setPort_same.symm⟩
  unfold periodicPort
  dsimp only
  split
  · exact hsame
  · split
    · exact hwant
    · exact hadd _ _
    · split
      · exact hadd _ _
      · exact hsame
    · exact hsame

/-- What a second's request makes wait (R278, R280). -/
theorem periodicPort_waits {k : Port} {s : State} (hm : s.pw.mode = .run) (hv : s.pw.vioLow = false)
    (he : (s.ports.get k).cfg.enable = true) (hs : (s.ports.get k).stopped = false) :
    ((s.ports.get k).state = .nochain → (s.ports.get k).cur = none → Waits .reset ((periodicPort k s).ports.get k).items)
    ∧ ∀ c, (s.ports.get k).state = .broken c ∨ ((s.ports.get k).state = .ok ∧ (s.ports.get k).cfg.stub = true) →
        Waits .census ((periodicPort k s).ports.get k).items := by
  have hlive : (s.ports.get k).state ≠ .relay → (!portLive s (s.ports.get k) || !(s.ports.get k).cfg.enable) = false := by
    intro hr
    rw [portLive, inRun, hm, hv, hs, he, bne_iff_ne.2 hr]
    rfl
  refine ⟨fun hst hc => ?_, fun c hst => ?_⟩
  · have hp : periodicPort k s = wantReset k .probe s := by
      simp only [periodicPort, hlive (by rw [hst]; decide), Bool.false_eq_true, if_false, hst]
    obtain ⟨l, v, hl, hw⟩ := wantReset_port (p := k) (s := s) rfl .probe hc
    rw [hp, hl]
    exact hw
  · have hp : periodicPort k s = addItem k .census s := by
      rcases hst with hst | ⟨hst, hstub⟩
      · simp only [periodicPort, hlive (by rw [hst]; exact fun e => nomatch e), Bool.false_eq_true, if_false, hst]
      · simp only [periodicPort, hlive (by rw [hst]; decide), Bool.false_eq_true, if_false, hst, hstub, if_true]
    obtain ⟨l, hl, hw⟩ := addItem_port (p := k) (s := s) rfl .census
    rw [hp, hl]
    exact hw

/-- Settles O50. -/
theorem answersAreTaken : Obligations.AnswersAreTaken := by
  intro dt p s
  generalize h : elapse dt s = t
  intro t'
  subst t'
  intro x hd hk
  have hidle : settleLine p t = t := settleLine_idle hd hk
  refine ⟨fun r m l hc hm hdis hl => ?_, fun l hc hl => ?_, fun hdis r => ?_, fun hm hw hv => ?_⟩
  · intro released h1 h2 h3 hok
    have hrel : releasedAt (t.ports.get p) = some released := by rw [releasedAt, hl]; rfl
    have hheard : heard released r t = true := by
      rw [heard, decide_eq_true h1]
      exact decide_eq_true h2
    obtain ⟨z, hz, hzc, hzf, hzd, hzk, hst, hid, hce⟩ := answerEnds_taken (a := released) hm hok h3
    have hsettle : settleLine p (answerEnds p m released r t) = answerEnds p m released r t :=
      settleLine_idle (by rw [hz, hzd]; exact hd) (by rw [hz, hzk]; exact hk)
    refine ⟨answerEnds p m released r t, ?_, ?_⟩
    · rw [exec_backwardAnswer h hdis hm hc hrel, hheard, if_pos rfl, hsettle]
    · rw [hz]
      exact ⟨hzc, hzf, hst, hid, hce⟩
  · intro released
    have hrel : releasedAt (t.ports.get p) = some released := by rw [releasedAt, hl]; rfl
    have hend : ∀ a, (endItem p a t).ports.get p = { x with cur := none, pulse := none, freeAt := max x.freeAt a } :=
      fun a => upPort_get_self p _ t
    refine ⟨fun hle => ?_, fun hlt => ?_, fun hle htr => ?_⟩
    · obtain ⟨i, w, hp, hwait⟩ := probeOutcome_zero (hend (released + 20000000)) rfl
      have hn : noPreamble p .census released t = probeOutcome p 0 (endItem p (released + 20000000) t) := if_pos hle
      refine ⟨noPreamble p .census released t, ?_, ?_⟩
      · rw [exec_answerTimeout_census h hc hrel, if_neg Bool.false_ne_true,
          settleLine_idle (by rw [hn, hp]; exact hd) (by rw [hn, hp]; exact hk)]
      · rw [hn, hp]
        exact ⟨rfl, rfl, rfl, hwait⟩
    · have hn : noPreamble p .census released t = t := if_neg (Nat.not_le.2 hlt)
      rw [exec_answerTimeout_census h hc hrel, if_neg Bool.false_ne_true, hn, hidle]
    · have hn : noHeader p .census released t = censusRetry p (upPort p (fun x => { x with discarded := true }) (endItem p t.now t)) :=
        if_pos hle
      obtain ⟨i, hp, hwait⟩ := censusRetry_again (upPort_port (hend t.now) fun x => { x with discarded := true }) htr
      refine ⟨noHeader p .census released t, ?_, ?_⟩
      · rw [exec_answerTimeout_census h hc hrel, if_pos rfl,
          settleLine_idle (by rw [hn, hp]; exact hd) (by rw [hn, hp]; exact hk)]
      · rw [hn, hp]
        exact ⟨rfl, rfl, rfl, rfl, hwait⟩
  · have hp : (discardEnds p t).ports.get p = _ := upPort_get_self p _ t
    rw [exec_backwardAnswer_discarded h hdis, settleLine_idle (by rw [hp]; exact hd) (by rw [hp]; exact hk)]
    rfl
  · have hon : (inRun t && decide (wtN t % 4096 = 0)) = true := by
      rw [inRun, hm, decide_eq_true (show wtN t % 4096 = 0 from hw)]
      rfl
    refine ⟨eachPort periodicPort t, by rw [exec_periodicProbe h, if_pos hon], fun k hen hst => ?_⟩
    refine foldl_ports_reaches (P := fun u => u.pw = t.pw ∧ u.ports.get k = t.ports.get k)
      (Q := fun z => ((t.ports.get k).state = .nochain → (t.ports.get k).cur = none → Waits .reset z.items)
        ∧ ∀ c, (t.ports.get k).state = .broken c ∨ ((t.ports.get k).state = .ok ∧ (t.ports.get k).cfg.stub = true) →
          Waits .census z.items)
      (fun q u hq hu => ?_) (fun u hu => ?_) (fun q u hq => ?_) (by decide) (mem_allPorts k) ⟨rfl, rfl⟩
    · obtain ⟨y, hy⟩ := periodicPort_frame q u
      rw [hy, setPort_get_of_ne (Ne.symm hq)]
      exact hu
    · obtain ⟨hpw, hport⟩ := hu
      have hwait := periodicPort_waits (k := k) (s := u) (by rw [hpw]; exact hm) (by rw [hpw]; exact hv)
        (by rw [hport]; exact hen) (by rw [hport]; exact hst)
      rw [hport] at hwait
      exact hwait
    · obtain ⟨y, hy⟩ := periodicPort_frame q u
      rw [hy, setPort_get_of_ne (Ne.symm hq)]

end Sys2Proof.Machine
end

section
/-!
PROOFS. Relay mode (09, 10, R229, R243, R257, R284 to R290): the input frame, its loss, the KEEP frames and the lows passed on.
-/
namespace Sys2Proof.Machine

open Sys2Proof.Claims

-- Proofs in parallel hold one thread each, and a text this long would have more of them than the check has room for.
set_option Elab.async false

/-! ## A boundary keeps its place in time, and relay mode -/

/-- The boundary's place in time, the queues of clauses and relay mode. -/
def placeView (s : State) : W48 × Nat × Relay × List Queued × List Queued :=
  (s.rd.lastT, s.rd.lastNow, s.relay, s.cl.timed, s.cl.ready)

section

variable {o s : State} {t : W48}

theorem StageKept.place (h : StageKept o s) : placeView s = placeView o :=
  congrArg (fun v => (v.2.2.2.1, v.2.2.2.2.2.2.2.1, v.2.2.2.2.2.2.2.2, v.2.2.2.2.2.1, v.2.2.2.2.2.2.1)) h.1

theorem flipBanks_place {c : Commit} : placeView (flipBanks t c s) = placeView s :=
  (flipBanks_stage (u := s)).place.trans rfl

theorem flipStep_place : placeView (flipStep t s) = placeView s := by
  unfold flipStep
  split
  · rfl
  · split
    · split
      · exact flipBanks_place
      · split <;> rfl
    · rfl

theorem loadSector_frame : ∃ g l, loadSector s = { s with rd.staging := g, st.loads := l } := by
  unfold loadSector
  dsimp only
  split
  · rename_i l area _ _
    generalize nvBytesAt s (areaBase area + 4096 * (l.first + l.done)) 4096 = d
    split
    · exact ⟨_, _, rfl⟩
    · exact ⟨_, _, rfl⟩
  · exact ⟨_, _, rfl⟩
  · exact ⟨_, _, rfl⟩

theorem loadStep_place : placeView (loadStep s) = placeView s := by
  obtain ⟨g, l, h⟩ := loadSector_frame (s := s)
  unfold loadStep
  rw [h]
  split <;> rfl

theorem bootSceneNow_place : placeView (bootSceneNow t s) = placeView s := by
  obtain ⟨L, b, h⟩ := bootSceneNow_frame t s
  rw [h]
  rfl

theorem settle_place : placeView (settle t s) = placeView s := by
  have hs : StageKept (flipStep t s) (eachPort reconfigure (commitMap t (flipStep t s))) :=
    eachPort_stage (fun _ _ => reconfigure_stage) (commitMap_stage StageKept.rfl)
  have hp : placeView (eachPort reconfigure (commitMap t (flipStep t s))) = placeView s := hs.place.trans flipStep_place
  unfold settle
  dsimp only
  generalize eachPort reconfigure (commitMap t (flipStep t s)) = x at *
  exact hp

/-- A boundary at which no clause waits, whatever frames it sends. -/
theorem boundaryWith_place {send : W48 → State → State} (hsend : ∀ v, placeView (send t v) = placeView v)
    (ht : s.cl.timed = []) (hr : s.cl.ready = []) : placeView (boundaryWith send t s) = placeView (openBoundary t s) := by
  have hx : placeView (flipStep t (bootSceneNow t (openBoundary t s))) = placeView (openBoundary t s) :=
    flipStep_place.trans bootSceneNow_place
  rw [boundaryWith, boundaryEffects]
  generalize flipStep t (bootSceneNow t (openBoundary t s)) = x at *
  have hxt : x.cl.timed = [] := (congrArg (fun v => v.2.2.2.1) hx).trans ht
  have hxr : x.cl.ready = [] := (congrArg (fun v => v.2.2.2.2) hx).trans hr
  rw [clauseSteps_none hxt hxr]
  have hpulse : placeView (pulse (settle t x)) = placeView (openBoundary t s) := by
    have hs : placeView (settle t x) = placeView (openBoundary t s) := settle_place.trans hx
    generalize settle t x = y at *
    unfold pulse
    split <;> exact hs
  have hframes : placeView (framesOrRest send t (pulse (settle t x))) = placeView (openBoundary t s) := by
    generalize pulse (settle t x) = y at *
    unfold framesOrRest
    split
    · exact (enterRest_stage (o := y) StageKept.rfl).place.trans hpulse
    · exact loadStep_place.trans ((hsend y).trans hpulse)
  have hall : answerAll [] (settle t x) = settle t x := rfl
  dsimp only
  rw [hall]
  generalize framesOrRest send t (pulse (settle t x)) = y at *
  exact (correctStep_stage (o := y) StageKept.rfl).place.trans hframes

end

/-! ## The input frame (R243, R284 to R288) -/

theorem relayPort_stage {o s : State} {f : RelayIn} {e : Port × List (List Nat)} (h : StageKept o s) :
    StageKept o (relayPort f s e) := by
  unfold relayPort
  dsimp only
  split
  · exact h
  · split
    · exact h
    · exact upPort_stage (emitFrame_stage h)

theorem relayFrames_place (f : RelayIn) (t : W48) (s : State) : placeView (relayFrames f t s) = placeView s := by
  have hr : StageKept s (relayRates f s) := foldl_stage (fun _ _ => upPort_stage) _ StageKept.rfl
  unfold relayFrames
  split
  · rfl
  · dsimp only
    generalize relayRates f s = x at *
    exact (foldl_stage (fun _ _ => relayPort_stage) _ hr).place

theorem raise_frame (op : Byte) (port : Nat) (fields : List Byte) (stamp : W48) (s : State) :
    ∃ e d, raise op port fields stamp s = { s with ev.held := e, draws := d } := by
  unfold raise
  split <;> exact ⟨_, _, rfl⟩

/-- A valid DATA header makes the input one being received (R286, R290). -/
theorem takeInput_frame (f : RelayIn) (s : State) : ∃ e d g x, takeInput f s = { s with
    ev.held := e, draws := d, ports := x, relay.input := .receiving, relay.headerAt := s.now, relay.keepStop := false
    relay.good := g } := by
  obtain ⟨e, d, he⟩ : ∃ e d, (if s.relay.input = .lost then raisePort 0 PState.relay.code PState.relay.code 4 s else s) =
      { s with ev.held := e, draws := d } := by
    split
    · exact raise_frame _ _ _ _ s
    · exact ⟨_, _, rfl⟩
  rw [takeInput, he]
  exact ⟨e, d, _, _, rfl⟩

/-- Without a boundary's clauses an input DATA header comes to a boundary and a forwarded frame (R284 to R290). -/
theorem relayHeader_data {f : RelayIn} {s u : State} (hon : s.relay.on = true) (hd : hdrType f.header = 1)
    (ht : s.cl.timed = []) (hr : s.cl.ready = []) (hu : relayHeader f s = u) :
    u.rd.lastT = s.ka.wt ∧ u.rd.lastNow = s.now ∧ u.relay.input = .receiving ∧ u.relay.headerAt = s.now
      ∧ u.relay.keepStop = false ∧ u.relay.hdrAt = s.relay.hdrAt ∧ u.relay.gap = s.relay.gap
      ∧ u.relay.forwarded = some { header := f.header, slots := f.slots.drop (relayCount u), census := none,
                                   tail := f.tail, cut := !f.clean } := by
  obtain ⟨e, d, g, x, hx⟩ := takeInput_frame f s
  have hdata : hdrType f.header = tyData := hd
  have hplace : placeView (boundaryWith (relayFrames f) (takeInput f s).ka.wt (takeInput f s)) =
      placeView (openBoundary (takeInput f s).ka.wt (takeInput f s)) :=
    boundaryWith_place (relayFrames_place f _) (by rw [hx]; exact ht) (by rw [hx]; exact hr)
  rw [relayHeader, if_pos hdata] at hu
  generalize boundaryWith (relayFrames f) (takeInput f s).ka.wt (takeInput f s) = v at *
  rw [hx] at hplace
  simp only [placeView, Prod.mk.injEq] at hplace
  obtain ⟨hT, hN, hrel, -, -⟩ := hplace
  have hvon : v.relay.on = true := by rw [hrel]; exact hon
  have hslots : hasSlots (hdrType f.header) = true := by rw [hd]; rfl
  have hcen : ¬ hdrType f.header = 4 := by rw [hd]; decide
  have hfw : u = { v with
      relay.forwarded := some { header := f.header, slots := f.slots.drop (relayCount v), census := none, tail := f.tail, cut := !f.clean }
      relay.outEnd := u.relay.outEnd } := by
    rw [← hu, forwardInput, hvon]
    simp only [Bool.not_true, Bool.false_eq_true, if_false, forwardOf, hslots, if_true, hcen]
  rw [hfw]
  simp only [hT, hN, hrel]
  exact ⟨rfl, rfl, rfl, rfl, rfl, rfl, rfl, rfl⟩

/-- A header that is wrong cuts what it drives, and takes nothing (R243, R286). -/
theorem cutDerived_frame (f : RelayIn) (s : State) : ∃ x, cutDerived f s = { s with ports := x } := by
  have hport : ∀ (l : List Port) (s : State), ∃ x, l.foldl (cutPort f) s = { s with ports := x } := by
    intro l
    induction l with
    | nil => exact fun s => ⟨_, rfl⟩
    | cons p l ih =>
      intro s
      obtain ⟨x, hx⟩ : ∃ x, cutPort f s p = { s with ports := x } := by
        unfold cutPort
        dsimp only
        split <;> exact ⟨_, rfl⟩
      obtain ⟨y, hy⟩ := ih (cutPort f s p)
      exact ⟨y, by rw [List.foldl_cons, hy, hx]⟩
  unfold cutDerived
  split
  · exact ⟨_, rfl⟩
  · exact hport _ s

/-! ## KEEP frames (R290) -/

theorem relayKeepPort_frame (s : State) (p : Port) : ∃ x, relayKeepPort s p = setPort p x s := by
  unfold relayKeepPort
  dsimp only
  split
  · exact ⟨_, setPort_same.symm⟩
  · split
    · exact ⟨_, rfl⟩
    · exact ⟨_, rfl⟩

theorem foldl_relayKeepPort_relay (l : List Port) (s : State) : (l.foldl relayKeepPort s).relay = s.relay := by
  induction l generalizing s with
  | nil => rfl
  | cons p l ih =>
    obtain ⟨x, hx⟩ := relayKeepPort_frame s p
    rw [List.foldl_cons, ih, hx]
    rfl

theorem foldl_relayKeepPort_other {k : Port} (l : List Port) (hk : k ∉ l) (s : State) :
    (l.foldl relayKeepPort s).ports.get k = s.ports.get k := by
  induction l generalizing s with
  | nil => rfl
  | cons p l ih =>
    obtain ⟨hne, hl⟩ := not_or.1 (fun e => hk (List.mem_cons.2 e))
    obtain ⟨x, hx⟩ := relayKeepPort_frame s p
    rw [List.foldl_cons, ih hl, hx, setPort_get_of_ne hne]

/-- What a KEEP comes to on a port in OK (R233, R290). -/
theorem relayKeepPort_sends {k : Port} {s : State} (hm : s.pw.mode = .run) (hv : s.pw.vioLow = false)
    (hs : (s.ports.get k).stopped = false) (hst : (s.ports.get k).state = .ok) :
    ((s.ports.get k).cur = none → (s.ports.get k).discarded = false →
      ((relayKeepPort s k).ports.get k).fseq = (s.ports.get k).fseq + 1)
    ∧ ((s.ports.get k).cur.isSome = true ∨ (s.ports.get k).discarded = true →
      (relayKeepPort s k).ports.get k = { s.ports.get k with keepDue := true }) := by
  have hlive : (!(portLive s (s.ports.get k) && (s.ports.get k).state.running)) = false := by
    rw [portLive, inRun, hm, hv, hs, hst]
    rfl
  refine ⟨fun hc hd => ?_, fun hb => ?_⟩
  · have hp : relayKeepPort s k = sendKeep k s.now s := by
      simp only [relayKeepPort, hlive, busyItem, hc, hd, Option.isSome_none, Bool.or_self, Bool.false_eq_true, if_false]
    rw [hp, sendKeep, sendForward, upPort_get_self]
  · have hbusy : busyItem (s.ports.get k) = true := by rw [busyItem, Bool.or_eq_true]; exact hb
    have hp : relayKeepPort s k = upPort k (fun x => { x with keepDue := true }) s := by
      simp only [relayKeepPort, hlive, hbusy, Bool.false_eq_true, if_false, if_true]
    rw [hp, upPort_get_self]

/-! ## A low passed on (R257) -/

/-- The mark of a width in nanoseconds. -/
theorem lowMark_ns (w : Nat) : lowMark (1000 * w) = if 1600 ≤ w ∧ w ≤ 2400 then 2000000 else if 3200 ≤ w ∧ w ≤ 4800 then 4000000
    else if 6400 ≤ w ∧ w ≤ 9600 then 8000000 else 0 := by
  have hc : ∀ a b, (1000 * a ≤ 1000 * w ∧ 1000 * w ≤ 1000 * b) = (a ≤ w ∧ w ≤ b) := fun a b => by
    rw [Nat.mul_le_mul_left_iff (by decide), Nat.mul_le_mul_left_iff (by decide)]
  have h1 := hc 1600 2400
  have h2 := hc 3200 4800
  have h3 := hc 6400 9600
  norm_num at h1 h2 h3
  simp only [lowMark, h1, h2, h3]
  rfl

theorem passLow_delays (w : Nat) (t : State) : ∃ d less, 300000 ≤ d ∧ d ≤ 400000 ∧ less ≤ 5000 ∧
    let from_ := max (t.now - w + d) t.relay.outEnd
    passLow w t = if from_ < t.now then { t with
        draws := t.draws + 2
        relay.low := some { at_ := from_, width := max (t.now + (d - less)) (from_ + lowMark w) - from_ } }
      else { t with draws := t.draws + 2 } := by
  refine ⟨(lowDelays t.draws).1, (lowDelays t.draws).2, Nat.le_add_right _ _, ?_, ?_, rfl⟩
  · have h := Nat.mod_lt (Config.lowDelay t.draws) (show 0 < 100001 by decide)
    rw [lowDelays]
    omega
  · have h := Nat.mod_lt (Config.lowDelay (t.draws + 1)) (show 0 < 5001 by decide)
    rw [lowDelays]
    omega

/-! ## O51 -/

section

variable {dt : Nat} {s t : State} (h : elapse dt s = t)
include h

theorem exec_relayInputFrame (f : RelayIn) : exec (.relayInputFrame dt f) s =
    .next (if !t.relay.on || !inRun t || t.pw.vioLow then t
      else if inputValid f.header then relayHeader f (headerSeen (countTol 0 f.tol t))
      else forwardCut f (cutDerived f (headerSeen (countTol 0 f.tol t)))) := by subst h; rfl

theorem exec_relayInputLow (w : Nat) : exec (.relayInputLow dt w) s =
    .next (if !t.relay.on || !inRun t || t.pw.vioLow then t else passLow (1000 * w) t) := by subst h; rfl

theorem exec_relayInputLoss : exec (.relayInputLoss dt) s =
    .next (if t.relay.on = true ∧ inRun t = true ∧ t.relay.input ≠ .lost ∧ t.relay.headerAt + 100000000000 ≤ t.now then
      raisePort 0 PState.relay.code PState.relay.code 3 { t with
        relay.input := .lost, relay.lossAt := t.now, relay.keepAt := t.now - 100000000000, relay.keepStop := false }
    else t) := by subst h; rfl

theorem exec_relayKeep : exec (.relayKeep dt) s =
    .next (if t.relay.on = true ∧ inRun t = true ∧ t.relay.input = .lost ∧ t.relay.keepStop = false
        ∧ t.relay.keepAt + 100000000000 ≤ t.now then
      ([1, 2, 3] : List Port).foldl relayKeepPort { t with relay.keepAt := t.now } else t) := by subst h; rfl

theorem exec_relayHoldLimit : exec (.relayHoldLimit dt) s =
    .next (if t.relay.on = true ∧ t.relay.input = .lost ∧ t.cfg.relayHold ≠ 0
        ∧ t.relay.lossAt + 1000000000000 * t.cfg.relayHold ≤ t.now then
      { t with relay.keepStop := true } else t) := by subst h; rfl

end

/-- Settles O51. -/
theorem relayFollowsItsInput : Obligations.RelayFollowsItsInput := by
  intro dt s
  generalize h : elapse dt s = t
  intro t'
  subst t'
  intro hon hm
  have hrun : inRun t = true := by rw [inRun, hm]; rfl
  have hlow : t.pw.vioLow = true → (!t.relay.on || !inRun t || t.pw.vioLow) = true := fun hv => by rw [hv, Bool.or_true]
  have hgood : t.pw.vioLow = false → (!t.relay.on || !inRun t || t.pw.vioLow) = false := fun hv => by rw [hon, hrun, hv]; rfl
  refine ⟨fun f => ⟨fun hv => ?_, fun hv hi hd ht hr => ?_, fun hv hi => ?_⟩, fun hi hd hn => ?_, fun hi hst hd hv => ?_,
    fun hi h0 hd => ?_, fun w => ⟨fun hv => ?_, fun hv => ?_⟩⟩
  · rw [exec_relayInputFrame h, if_pos (hlow hv)]
  · have he : exec (.relayInputFrame dt f) s = .next (relayHeader f (headerSeen (countTol 0 f.tol t))) := by
      rw [exec_relayInputFrame h, hgood hv, if_neg Bool.false_ne_true, hi, if_pos rfl]
    exact ⟨_, he, relayHeader_data (s := headerSeen (countTol 0 f.tol t)) hon hd ht hr rfl⟩
  · rw [exec_relayInputFrame h, hgood hv, if_neg Bool.false_ne_true, hi, if_neg Bool.false_ne_true]
    obtain ⟨x, hx⟩ := cutDerived_frame f (headerSeen (countTol 0 f.tol t))
    rw [hx]
    exact ⟨_, rfl, rfl, rfl, rfl, rfl⟩
  · rw [exec_relayInputLoss h, if_pos ⟨hon, hrun, hi, hd⟩, raisePort, raise_none (by exact hn)]
  · rw [exec_relayKeep h, if_pos ⟨hon, hrun, hi, hst, hd⟩]
    refine ⟨_, rfl, by rw [foldl_relayKeepPort_relay], foldl_relayKeepPort_other _ (by decide) _, fun k hk hks hok => ?_⟩
    refine foldl_ports_reaches (P := fun u => u.pw = t.pw ∧ u.ports.get k = t.ports.get k)
      (Q := fun z => ((t.ports.get k).cur = none → (t.ports.get k).discarded = false → z.fseq = (t.ports.get k).fseq + 1)
        ∧ ((t.ports.get k).cur.isSome = true ∨ (t.ports.get k).discarded = true →
          z = { t.ports.get k with keepDue := true }))
      (fun q u hq hu => ?_) (fun u hu => ?_) (fun q u hq => ?_) (by decide) ?_ ⟨rfl, rfl⟩
    · obtain ⟨y, hy⟩ := relayKeepPort_frame u q
      rw [hy, setPort_get_of_ne (Ne.symm hq)]
      exact hu
    · obtain ⟨hpw, hport⟩ := hu
      have hsend := relayKeepPort_sends (k := k) (s := u) (by rw [hpw]; exact hm) (by rw [hpw]; exact hv)
        (by rw [hport]; exact hks) (by rw [hport]; exact hok)
      rw [hport] at hsend
      exact hsend
    · obtain ⟨y, hy⟩ := relayKeepPort_frame u q
      rw [hy, setPort_get_of_ne (Ne.symm hq)]
    · exact (show ∀ k : Port, k ≠ 0 → k ∈ ([1, 2, 3] : List Port) by decide) k hk
  · rw [exec_relayHoldLimit h, if_pos ⟨hon, hi, h0, hd⟩]
  · rw [exec_relayInputLow h, if_pos (hlow hv)]
  · rw [exec_relayInputLow h, hgood hv, if_neg Bool.false_ne_true]
    obtain ⟨d, less, hd1, hd2, hl, hp⟩ := passLow_delays (1000 * w) t
    rw [hp]
    refine ⟨fun hw => ?_, d, less, hd1, hd2, hl, ?_⟩
    · rw [if_neg (by omega)]
    · rw [lowMark_ns]

end Sys2Proof.Machine
end

section
/-!
PROOFS. REST and SHELF (03, 05, 08, R65 to R82, R138 to R140, R223): the wakes, the KEEP frames and the entry to SHELF.
-/
namespace Sys2Proof.Machine

open Sys2Proof.Claims

-- Proofs in parallel hold one thread each, and a text this long would have more of them than the check has room for.
set_option Elab.async false

/-! ## What a restart of the ports touches -/

/-- `u` is `s` but for its ports and the failure map. -/
def PortsOnly (s u : State) : Prop := ∃ x fl, u = { s with ports := x, fail := fl }

theorem PortsOnly.refl (s : State) : PortsOnly s s := ⟨_, _, rfl⟩

theorem PortsOnly.trans {s u v : State} (h : PortsOnly s u) (k : PortsOnly u v) : PortsOnly s v := by
  obtain ⟨x, fl, rfl⟩ := h
  obtain ⟨y, gl, rfl⟩ := k
  exact ⟨y, gl, rfl⟩

theorem foldl_portsOnly {α : Type} {f : State → α → State} (hf : ∀ s a, PortsOnly s (f s a)) (l : List α) (s : State) :
    PortsOnly s (l.foldl f s) := by
  induction l generalizing s with
  | nil => exact .refl s
  | cons a l ih => exact (hf s a).trans (ih (f s a))

theorem upPort_portsOnly (p : Port) (f : PortState → PortState) (s : State) : PortsOnly s (upPort p f s) := ⟨_, _, rfl⟩

theorem upPorts_portsOnly (f : Port → PortState → PortState) (s : State) : PortsOnly s (upPorts f s) :=
  foldl_portsOnly (fun s p => upPort_portsOnly p (f p) s) _ _

theorem wantReset_portsOnly (p : Port) (w : ResetWhy) (s : State) : PortsOnly s (wantReset p w s) := by
  unfold wantReset
  dsimp only
  split
  · exact .refl s
  · exact (upPort_portsOnly p _ s).trans (upPort_portsOnly p _ _)

theorem restartPort_portsOnly (p : Port) (s : State) : PortsOnly s (restartPort p s) := by
  have htrim : ∀ c : Prop, [Decidable c] → PortsOnly s (if c then trimMap p (s.cfg.ports.get p).n s else s) := by
    intro c _
    split
    · exact ⟨_, _, rfl⟩
    · exact .refl s
  unfold restartPort
  dsimp only
  split
  · exact .refl s
  · split
    · split
      · exact upPort_portsOnly p _ s
      · exact ((htrim _).trans (upPort_portsOnly p _ _)).trans (wantReset_portsOnly p _ _)
    · exact .refl s

/-! ## The node leaves REST or SHELF (R65, R68, R76 to R78, R82) -/

theorem tellOnRun_frame (s : State) : ∃ ka e d, tellOnRun s = { s with ka := ka, ev.held := e, draws := d } := by
  obtain ⟨ka, e, d, h⟩ : ∃ ka e d, (if s.ka.latchEvt then raisePower 7 { s with ka.latchEvt := false } else s) =
      { s with ka := ka, ev.held := e, draws := d } := by
    split
    · obtain ⟨e, d, h⟩ := raise_frame 0xF2 0 (powerFields { s with ka.latchEvt := false } 7) s.ka.wt { s with ka.latchEvt := false }
      exact ⟨_, e, d, h⟩
    · exact ⟨_, _, _, rfl⟩
  rw [tellOnRun, h]
  dsimp only
  split
  · obtain ⟨e', d', h'⟩ := raise_frame 0xF3 0 (timeFields { s with ka := { ka with rcTold := true }, ev.held := e, draws := d } 2) ka.wt
      { s with ka := { ka with rcTold := true }, ev.held := e, draws := d }
    exact ⟨_, e', d', h'⟩
  · exact ⟨_, _, _, rfl⟩

theorem wakePorts_frame (s : State) : ∃ x fl e d, wakePorts s = { s with
    ports := x, fail := fl, ev.held := e, draws := d, pw.vioLow := s.pw.vioDown
    pw.lampen := s.pw.lampen && !s.pw.vioDown, pw.lampMet := s.pw.lampMet && !s.pw.vioDown } := by
  obtain ⟨v, hv⟩ : ∃ v : State, v = { s with
      pw.vioLow := s.pw.vioDown, pw.lampen := s.pw.lampen && !s.pw.vioDown, pw.lampMet := s.pw.lampMet && !s.pw.vioDown } := ⟨_, rfl⟩
  obtain ⟨x, fl, hx⟩ : PortsOnly v (eachPort restartPort (if s.pw.vioLow || s.pw.vioDown then unready v else v)) := by
    refine PortsOnly.trans (u := if s.pw.vioLow || s.pw.vioDown then unready v else v) ?_
      (foldl_portsOnly (fun s p => restartPort_portsOnly p s) _ _)
    split
    · exact upPorts_portsOnly _ v
    · exact .refl v
  have hw : wakePorts s = if s.pw.vioLow && !s.pw.vioDown then raisePower 1 { v with ports := x, fail := fl }
      else { v with ports := x, fail := fl } := by
    rw [wakePorts, ← hx, hv]
  rw [hw]
  split
  · obtain ⟨e, d, h⟩ := raise_frame 0xF2 0 (powerFields { v with ports := x, fail := fl } 1) v.ka.wt { v with ports := x, fail := fl }
    refine ⟨x, fl, e, d, Eq.trans h ?_⟩
    rw [hv]
  · refine ⟨x, fl, s.ev.held, s.draws, ?_⟩
    rw [hv]

/-- What a wake leaves (R68, R76, R78, R133). -/
theorem leaveRest_frame (s : State) : ∃ ka x fl e d, leaveRest s = { s with
    ka := ka, ports := x, fail := fl, ev.held := e, draws := d, rd.lastNow := s.now
    span.held := none, span.busRate := none, span.idle := false, span.quietFrom := s.now, span.wakeHold := none
    pw.mode := .run, pw.wrc := true, pw.fosc := true
    pw.lockAt := if s.pw.fosc then s.pw.lockAt else s.now + 60000000
    pw.restDue := s.now + Config.msPs * s.cfg.restHold, pw.restFree := false, pw.vioLow := s.pw.vioDown
    pw.lampen := s.pw.lampen && !s.pw.vioDown, pw.lampMet := s.pw.lampMet && !s.pw.vioDown } := by
  rw [leaveRest]
  obtain ⟨x, fl, e, d, hw⟩ := wakePorts_frame
    (restartHold (spanWake (startFosc { s with pw.mode := .run, pw.wrc := true, rd.lastNow := s.now })))
  dsimp only
  rw [hw]
  obtain ⟨ka, e', d', ht⟩ := tellOnRun_frame _
  exact ⟨ka, x, fl, e', d', ht⟩

/-! ## The wake listener (R138, R139) -/

/-- The sequence of a wake frame (R138, R139, Table 5-7). -/
def WakeSequence (y h l w : WakeChar) : Prop :=
  (y.framed = true ∧ y.mark = false ∧ y.value = 0x55)
  ∧ (h.framed = true ∧ h.mark = true ∧ h.gap ≤ 11 * 1000000000000 / 19200)
  ∧ (l.framed = true ∧ l.mark = true ∧ l.gap ≤ 11 * 1000000000000 / 19200)
  ∧ (w.framed = true ∧ w.mark = false ∧ w.gap ≤ 11 * 1000000000000 / 19200 ∧ w.value = 0xA5)

theorem wakeChar_iff {m : Bool} {c : WakeChar} :
    wakeChar m c = true ↔ c.framed = true ∧ c.mark = m ∧ c.gap ≤ 11 * 1000000000000 / 19200 := by
  have hb : bitsPs 19200 (charBits 1) = 11 * 1000000000000 / 19200 := by decide
  simp only [wakeChar, hb, Bool.and_eq_true, beq_iff_eq, decide_eq_true_eq, and_assoc]

theorem wakeSequence_iff {y h l w : WakeChar} : (wakeChar false { y with gap := 0 } && y.value == 0x55 && wakeChar true h
    && wakeChar true l && wakeChar false w && w.value == 0xA5) = true ↔ WakeSequence y h l w := by
  simp only [Bool.and_eq_true, wakeChar_iff, beq_iff_eq, WakeSequence, Nat.zero_le, and_true, and_assoc]

theorem wakeAddress_sequence {y h l w : WakeChar} {more : List WakeChar} (hs : WakeSequence y h l w) :
    wakeAddress (y :: h :: l :: w :: more) = some (h.value, l.value) := if_pos (wakeSequence_iff.2 hs)

theorem wakeAddress_none {y h l w : WakeChar} {more : List WakeChar} (hs : ¬ WakeSequence y h l w) :
    wakeAddress (y :: h :: l :: w :: more) = none := if_neg fun e => hs (wakeSequence_iff.1 e)

theorem wakeAddress_short {c : List WakeChar} (h : c.length < 4) : wakeAddress c = none := by
  match c, h with
  | [], _ => rfl
  | [_], _ => rfl
  | [_, _], _ => rfl
  | [_, _, _], _ => rfl
  | _ :: _ :: _ :: _ :: _, h => exact absurd h (by simp only [List.length_cons]; omega)

/-! ## KEEP frames in REST (R68, R79) -/

theorem keepFrame_frame (p : Port) (s : State) : ∃ x, keepFrame p s = setPort p x s := by
  unfold keepFrame
  dsimp only
  split
  · exact ⟨_, by rw [sendKeep, sendForward, upPort, upPort, setPort_setPort]⟩
  · exact ⟨_, setPort_same.symm⟩

theorem keepFrame_skips {k : Port} {s : State}
    (h : ¬ ((s.ports.get k).cfg.enable = true ∧ (s.ports.get k).state.running = true)) : keepFrame k s = s :=
  if_neg fun e => h (by simpa only [Bool.and_eq_true] using e)

/-- Steps that set ports keep everything else. -/
theorem eachPort_pw {f : Port → State → State} (hf : ∀ p s, ∃ x, f p s = setPort p x s) {s : State} :
    (eachPort f s).pw = s.pw := by
  have hl : ∀ (l : List Port) (s : State), (l.foldl (fun s p => f p s) s).pw = s.pw := by
    intro l
    induction l with
    | nil => exact fun _ => rfl
    | cons p l ih =>
      intro s
      obtain ⟨x, hx⟩ := hf p s
      rw [List.foldl_cons, ih, hx]
      rfl
  exact hl allPorts s

theorem keepFrame_sends {k : Port} {s : State} (h : (s.ports.get k).cfg.enable = true ∧ (s.ports.get k).state.running = true) :
    ((keepFrame k s).ports.get k).fseq = (s.ports.get k).fseq + 1
    ∧ ((keepFrame k s).ports.get k).awaits = (s.ports.get k).awaits
    ∧ s.now + 60000000 ≤ ((keepFrame k s).ports.get k).eofAt := by
  have hc : ((s.ports.get k).cfg.enable && (s.ports.get k).state.running) = true := by rw [h.1, h.2]; rfl
  have hp : keepFrame k s = upPort k (fun y => { y with awaits := (s.ports.get k).awaits })
      (sendKeep k (s.now + 60000000) s) := if_pos hc
  rw [hp, upPort_get_self, sendKeep, sendForward, upPort_get_self]
  refine ⟨rfl, rfl, ?_⟩
  dsimp only
  have hmul : ∀ n b : Nat, 16 * b ≤ (n + 68) * b := fun n b => Nat.mul_le_mul_right b (by omega)
  have hle := hmul ((s.ports.get k).cfg.n * if hasSlots tyKeep then slotLen (s.ports.get k).cfg.fmt.toNat else 0)
    (bitPs (s.ports.get k).cfg.rate)
  have hmax := Nat.le_max_left (s.now + 60000000) (gapEnd (s.ports.get k))
  omega

/-! ## O52 -/

section

variable {dt : Nat} {s t : State} (h : elapse dt s = t)
include h

theorem exec_restHoldExpiry : exec (.restHoldExpiry dt) s =
    .next (if inRun t && decide (t.pw.restDue ≤ t.now) then { t with pw.restFree := true } else t) := by subst h; rfl

theorem exec_wakeFrame {c : List WakeChar} {a b : Byte} (hc : wakeAddress c = some (a, b)) : exec (.wakeFrame dt c) s =
    .next (if t.pw.mode = .rest ∧ (matchOf a b t).isSome = true then leaveRest t else t) := by
  subst h
  rw [exec, execWakeFrame]
  simp only [hc]
  rfl

theorem exec_wakeFrame_none {c : List WakeChar} (hc : wakeAddress c = none) : exec (.wakeFrame dt c) s = .next t := by
  subst h
  rw [exec, execWakeFrame]
  simp only [hc]
  rfl

theorem exec_svcWake (rate : Nat) : exec (.svcWake dt rate) s = .next (if svcWakes rate t then svcWoken rate t
    else if inRun t then svcChar (.addr 0x80) (svcSync true rate t) else svcEdge t) := by subst h; rfl

theorem exec_keepBurst : exec (.keepBurst dt) s =
    .next (if t.pw.mode = .rest ∧ t.pw.keepRest = true ∧ wtN t % 4096 = 0 ∧ t.pw.vioDown = false then eachPort keepFrame t
      else t) := by subst h; rfl

theorem exec_shelfEntry : exec (.shelfEntry dt) s = .next (if shelfMayEnter t then
      { unready (stopPorts t) with
        pw.mode := .shelf, pw.shelfReq := none, pw.lampen := false, pw.lampMet := false, pw.fosc := false, pw.wrc := false }
    else t) := by subst h; rfl

theorem exec_shelfSvcEdge : exec (.shelfSvcEdge dt) s =
    .next (if t.pw.mode = .shelf then { t with pw.wrc := true, svc.edgeAt := t.now } else t) := by subst h; rfl

theorem exec_wrcStop : exec (.wrcStop dt) s =
    .next (if t.pw.mode = .shelf ∧ t.pw.wrc = true ∧ t.svc.edgeAt + 20000000000 ≤ t.now then
      { t with pw.wrc := false, svc.idle := true } else t) := by subst h; rfl

end

theorem inRun_run {t : State} (h : t.pw.mode = .run) : inRun t = true := by rw [inRun, h]; rfl

theorem inRun_not {t : State} (h : t.pw.mode ≠ .run) : inRun t = false := beq_eq_false_iff_ne.2 h

theorem svcWakes_iff {rate : Nat} {t : State} : svcWakes rate t = true ↔
    (t.svc.idle = true ∧ 9600 ≤ rate ∧ rate ≤ 19200)
    ∧ (t.pw.mode = .shelf ∨ (t.pw.mode = .rest ∧ t.svc.ctl.getLsbD 2 = true)) := by
  simp only [svcWakes, Bool.and_eq_true, decide_eq_true_eq, Bool.or_eq_true, beq_iff_eq, and_assoc]
  rw [or_comm]

/-- Settles O52. -/
theorem restAndShelfPass : Obligations.RestAndShelfPass := by
  intro dt s
  generalize h : elapse dt s = t
  intro t'
  subst t'
  intro wakes
  refine ⟨fun hm hd => ?_, fun y a b w more => ?_, fun c hc => exec_wakeFrame_none h (wakeAddress_short hc), fun rate => ?_,
    fun hm hk hw => ?_, fun hm hr ho hv hx hn => ?_, fun hm => ⟨?_, fun hw he => ?_⟩⟩
  · rw [exec_restHoldExpiry h, inRun_run hm, decide_eq_true hd]
    rfl
  · intro char sequence ours
    refine ⟨fun hm hs ho => ?_, fun hno => ?_⟩
    · obtain ⟨ka, x, fl, e, d, hl⟩ := leaveRest_frame t
      refine ⟨leaveRest t, by rw [exec_wakeFrame h (wakeAddress_sequence hs), if_pos ⟨hm, ho⟩], ?_⟩
      rw [hl]
      refine ⟨rfl, rfl, rfl, rfl, rfl, rfl, rfl, rfl, rfl, fun hv => ?_⟩
      simp only [hv, Bool.not_false, Bool.and_true]
    · by_cases hs : WakeSequence y a b w
      · rw [exec_wakeFrame h (wakeAddress_sequence hs), if_neg fun hc => hno ⟨hc.1, hs, hc.2⟩]
      · exact exec_wakeFrame_none h (wakeAddress_none hs)
  · intro heard
    refine ⟨fun hm hh => ?_, fun hm => ?_⟩
    · obtain ⟨ka, x, fl, e, d, hl⟩ := leaveRest_frame (svcEdge { t with
        svc.cause := t.svc.cause ||| 0x08, svc.rate := some rate, svc.armed := false, svc.sel := none })
      refine ⟨svcWoken rate t, by rw [exec_svcWake h, if_pos (svcWakes_iff.2 ⟨hh, hm⟩)], ?_⟩
      rw [svcWoken, hl]
      refine ⟨rfl, rfl, rfl, rfl, rfl, rfl, ⟨rfl, rfl, rfl⟩, rfl, rfl, fun hv => ?_⟩
      have hv' : t.pw.vioDown = false := hv
      simp only [svcEdge, hv', Bool.not_false, Bool.and_true]
    · have hno : svcWakes rate t = false ∧ inRun t = false := by
        rcases hm with ⟨hm, hb⟩ | ⟨hm, hh⟩
        · refine ⟨Bool.eq_false_iff.2 fun hs => ?_, inRun_not (by rw [hm]; decide)⟩
          rcases (svcWakes_iff.1 hs).2 with hsh | ⟨-, hb'⟩
          · rw [hm] at hsh
            exact absurd hsh (by decide)
          · rw [hb] at hb'
            exact absurd hb' Bool.false_ne_true
        · exact ⟨Bool.eq_false_iff.2 fun hs => hh (svcWakes_iff.1 hs).1, inRun_not hm⟩
      rw [exec_svcWake h, hno.1, hno.2, if_neg Bool.false_ne_true, if_neg Bool.false_ne_true]
      rfl
  · refine ⟨fun hv => ?_, fun hv => ?_⟩
    · rw [exec_keepBurst h, if_neg fun hc => absurd (hv.symm.trans hc.2.2.2) (by decide)]
    · refine ⟨eachPort keepFrame t, by rw [exec_keepBurst h, if_pos ⟨hm, hk, hw, hv⟩], eachPort_pw keepFrame_frame, fun p => ?_⟩
      refine foldl_ports_reaches (P := fun u => u.now = t.now ∧ u.ports.get p = t.ports.get p)
        (Q := fun z => if (t.ports.get p).cfg.enable = true ∧ (t.ports.get p).state.running = true
          then z.fseq = (t.ports.get p).fseq + 1 ∧ z.awaits = (t.ports.get p).awaits ∧ t.now + 60000000 ≤ z.eofAt
          else z = t.ports.get p)
        (fun q u hq hu => ?_) (fun u hu => ?_) (fun q u hq => ?_) (by decide) (mem_allPorts p) ⟨rfl, rfl⟩
      · obtain ⟨x, hx⟩ := keepFrame_frame q u
        rw [hx, setPort_get_of_ne (Ne.symm hq)]
        exact hu
      · obtain ⟨hnow, hport⟩ := hu
        split
        · rename_i hc
          rw [← hport, ← hnow]
          exact keepFrame_sends (by rw [hport]; exact hc)
        · rename_i hc
          rw [keepFrame_skips (by rw [hport]; exact hc), hport]
      · obtain ⟨x, hx⟩ := keepFrame_frame q u
        rw [hx, setPort_get_of_ne (Ne.symm hq)]
  · have hmay : shelfMayEnter t = true := by
      rw [shelfMayEnter, inRun_run hm, hr, ho, hv, hx, npBlocked, hn]
      rfl
    obtain ⟨x, fl, hu⟩ := (upPorts_portsOnly (fun _ x => if x.cfg.enable then { x.still with stopped := true } else x) t).trans
      (upPorts_portsOnly (fun _ x => { x with ready := false, framed := false, firstAt := none }) (stopPorts t))
    refine ⟨_, by rw [exec_shelfEntry h, if_pos hmay], ?_, ?_, ?_, fun p => ?_⟩
    · rw [unready, hu]
    · rw [unready, hu]
    · rw [unready, hu]
    · dsimp only
      rw [unready, upPorts_get, stopPorts, upPorts_get]
      refine ⟨rfl, ?_⟩
      split <;> rfl
  · rw [exec_shelfSvcEdge h, if_pos hm]
  · rw [exec_wrcStop h, if_pos ⟨hm, hw, he⟩]

end Sys2Proof.Machine
end

section
/-!
PROOFS. Resets and the boot (03, R33 to R38, R62, R83 to R88, R367, R461): what the boot keeps on its way, and where it ends.
-/
namespace Sys2Proof.Machine

open Sys2Proof.Claims

-- Proofs in parallel hold one thread each, and a text this long would have more of them than the check has room for.
set_option Elab.async false

/-! ## What the boot keeps on its way -/

/-- The instant, the reset cause and the image that runs are those of `o`. -/
def BootKept (o s : State) : Prop := s.now = o.now ∧ s.pw.cause = o.pw.cause ∧ s.fw = o.fw

theorem BootKept.refl (s : State) : BootKept s s := ⟨rfl, rfl, rfl⟩

theorem BootKept.trans {a b c : State} (h : BootKept a b) (k : BootKept b c) : BootKept a c :=
  ⟨k.1.trans h.1, k.2.1.trans h.2.1, k.2.2.trans h.2.2⟩

theorem foldl_bootKept {α : Type} {f : State → α → State} (hf : ∀ s a, BootKept s (f s a)) (l : List α) (s : State) :
    BootKept s (l.foldl f s) := by
  induction l generalizing s with
  | nil => exact .refl s
  | cons a l ih => exact (hf s a).trans (ih (f s a))

theorem ite_bootKept {c : Prop} [Decidable c] {o a b : State} (ha : BootKept o a) (hb : BootKept o b) :
    BootKept o (if c then a else b) := by
  split
  · exact ha
  · exact hb

theorem Answered.bootKept {s u : State} (h : Answered s u) : BootKept s u := by
  obtain ⟨sp, c, sv, rr, sr, rfl⟩ := h
  exact .refl s

theorem PortsOnly.bootKept {s u : State} (h : PortsOnly s u) : BootKept s u := by
  obtain ⟨x, fl, rfl⟩ := h
  exact .refl s

/-! ## The store (R313, R318) -/

theorem nvProgram_bootKept (a : Nat) (l : List Byte) (s : State) : BootKept s (nvProgram a l s) := .refl s

theorem spend_bootKept (s : State) : BootKept s (spend s) := .refl s

theorem writeRec_bootKept (j : Bool) (ty sec : Nat) (l : List Byte) (s : State) : BootKept s (writeRec j ty sec l s) := by
  unfold writeRec
  dsimp only
  split <;> exact .refl s

theorem tornRec_bootKept (j : Bool) (ty sec : Nat) (l : List Byte) (s : State) : BootKept s (tornRec j ty sec l s) := by
  unfold tornRec
  dsimp only
  split <;> exact .refl s

theorem putRec_bootKept (ok j : Bool) (ty sec : Nat) (l : List Byte) (s : State) : BootKept s (putRec ok j ty sec l s) :=
  ite_bootKept (writeRec_bootKept j ty sec l s) (tornRec_bootKept j ty sec l s)

theorem writeCounters_bootKept (kind : Nat) (b : Bool) (s : State) : BootKept s (writeCounters kind b s) :=
  writeRec_bootKept _ _ _ _ s

theorem dropCopy_bootKept (sec : Nat) (s : State) : BootKept s (dropCopy sec s) :=
  ite_bootKept (.refl s) (ite_bootKept (.refl s) (.refl s))

theorem takeConfig_bootKept (o : NvOp) (s : State) : BootKept s (takeConfig o s) := by
  unfold takeConfig
  split <;> exact .refl s

theorem commitCopy_bootKept (c : Bool) (s : State) : BootKept s (commitCopy c s) := by
  have hc : ∀ w : CfgCopy, BootKept s (if c then { s with nv.copyB := some w } else { s with nv.copyA := some w }) :=
    fun w => ite_bootKept (.refl s) (.refl s)
  unfold commitCopy
  split
  · exact .refl s
  · rename_i w _
    have := hc w
    dsimp only
    generalize (if c then { s with nv.copyB := some w } else { s with nv.copyA := some w } : State) = x at *
    split
    · split <;> exact this
    · exact this

theorem opEffect_bootKept (j : Job) (o : NvOp) (ok : Bool) (s : State) : BootKept s (opEffect j o ok s) := by
  unfold opEffect
  split
  · exact putRec_bootKept _ _ _ _ _ s
  · exact putRec_bootKept _ _ _ _ _ s
  · rename_i sec
    have h : BootKept s (dropCopy sec (nvEraseSec sec s)) := dropCopy_bootKept sec (nvEraseSec sec s)
    dsimp only
    generalize dropCopy sec (nvEraseSec sec s) = x at *
    split
    · exact h
    · exact (h.trans (nvProgram_bootKept _ _ x)).trans (spend_bootKept _)
  · exact ite_bootKept (writeCounters_bootKept _ _ s) (tornRec_bootKept _ _ _ _ s)
  · split
    · exact putRec_bootKept _ _ _ _ _ s
    · exact .refl s
  · have h := fun o => takeConfig_bootKept o s
    dsimp only
    split
    · exact h _
    · split
      · split
        · exact ((h _).trans (nvProgram_bootKept _ _ _)).trans (commitCopy_bootKept _ _)
        · exact h _
        · exact (h _).trans (nvProgram_bootKept _ _ _)
      · exact ((h _).trans (nvProgram_bootKept _ _ _)).trans (spend_bootKept _)

theorem allOps_bootKept (j : Job) (l : List NvOp) (s : State) : BootKept s (allOps j l s) :=
  foldl_bootKept (fun s o => opEffect_bootKept j o true s) l s

theorem firstRecord_bootKept (j : Job) (s : State) : BootKept s (firstRecord j s) :=
  ite_bootKept (allOps_bootKept j _ s) (.refl s)

theorem switchNow_bootKept (j : Job) (s : State) : BootKept s (switchNow j s) :=
  ite_bootKept (allOps_bootKept j _ s) (.refl s)

theorem bootOps_bootKept (j : Job) (l : List NvOp) (s : State) : BootKept s (bootOps j l s) := by
  fun_induction bootOps j l s with
  | case1 s => exact .refl s
  | case2 _ _ _ _ s x ih =>
    have hx : BootKept s x := (firstRecord_bootKept j s).trans (switchNow_bootKept j _)
    exact (hx.trans (ite_bootKept (allOps_bootKept j _ x) (.refl x))).trans ih
  | case3 _ _ s _ ih => exact (opEffect_bootKept j _ true s).trans ih

/-! ## Steps 5 and 6 (R329, R457, R460) -/

theorem repairSector_bootKept (sec : Nat) (s : State) : BootKept s (repairSector sec s) :=
  dropCopy_bootKept sec (nvEraseSec sec s)

theorem repairJournal_bootKept (j : Nat) (r : State × List Nat) : BootKept r.1 (repairJournal j r).1 := by
  unfold repairJournal
  split
  · exact repairSector_bootKept j r.1
  · exact .refl r.1

theorem bootRepair_bootKept (s : State) : BootKept s (bootRepair s).1 := by
  obtain ⟨v, hv⟩ : ∃ v : State, v = { s with
      nv.jseq := max (maxSeq (jRecords s.nv.mem false)) (maxSeq (jRecords s.nv.mem true)) } := ⟨_, rfl⟩
  have h0 : BootKept s v := by
    rw [hv]
    exact .refl s
  have h1 : BootKept v (repairJournal 1 (repairJournal 0 (v, []))).1 :=
    (repairJournal_bootKept 0 (v, [])).trans (repairJournal_bootKept 1 _)
  unfold bootRepair
  dsimp only
  rw [← hv]
  generalize repairJournal 1 (repairJournal 0 (v, [])) = r at *
  exact (h0.trans h1).trans (foldl_bootKept (fun s sec => repairSector_bootKept sec s) _ _)

theorem loadSec_bootKept (s : State) : BootKept s (loadSec s) := by
  unfold loadSec
  split <;> exact .refl s

theorem clearFreset_bootKept (s : State) : BootKept s (clearFreset s) := .refl s

theorem completeReset_bootKept (noted : List Nat) (s : State) : BootKept s (completeReset noted s) := by
  unfold completeReset
  exact (((bootOps_bootKept _ _ s).trans (bootOps_bootKept _ _ _)).trans (bootOps_bootKept _ _ _)).trans (clearFreset_bootKept _)

theorem bootStore_bootKept (s : State) : BootKept s (bootStore s) := by
  have hr := bootRepair_bootKept s
  unfold bootStore
  dsimp only
  generalize bootRepair s = r at *
  have h : BootKept s (noteRepairs r.2 (loadSec r.1)) := hr.trans (loadSec_bootKept r.1)
  generalize noteRepairs r.2 (loadSec r.1) = x at *
  generalize r.2 = l at *
  have hc : BootKept x (completeReset l { x with nv.jobs := [] }) := completeReset_bootKept l { x with nv.jobs := [] }
  exact ite_bootKept (h.trans hc) h

theorem commitSec_bootKept (ch : SecChange) (s : State) : BootKept s (commitSec ch s) :=
  ite_bootKept (.refl s) (.refl s)

/-- Only a patch image runs on trial (R460). -/
theorem selectImage_trial (s : State) : (selectImage s).2.1 = 0 → (selectImage s).2.2.1 = false := by
  unfold selectImage
  dsimp only
  split
  · rename_i hp
    split
    · split
      · intro h
        dsimp only at h
        omega
      · exact fun _ => rfl
    · exact fun _ => rfl
  · exact fun _ => rfl

theorem selectImage_now (s : State) : (selectImage s).1.now = s.now ∧ (selectImage s).1.pw = s.pw := by
  unfold selectImage
  dsimp only
  split
  · split
    · split <;> exact ⟨rfl, rfl⟩
    · exact ⟨rfl, rfl⟩
  · exact ⟨rfl, rfl⟩

/-- Step 6 keeps the instant and the cause, and with the ROM nothing is on trial (R460). -/
theorem bootImage_keeps (s : State) : (bootImage s).now = s.now ∧ (bootImage s).pw.cause = s.pw.cause
    ∧ ((bootImage s).fw.run = 0 → (bootImage s).fw.trial = false) := by
  obtain ⟨v, hv⟩ : ∃ v : State, v = { s with fw.sizeA := headerSize s 1, fw.sizeB := headerSize s 2 } := ⟨_, rfl⟩
  obtain ⟨hn, hp⟩ := selectImage_now v
  have ht := selectImage_trial v
  obtain ⟨w, hw⟩ : ∃ w : State, w = { (selectImage v).1 with
      fw.run := (selectImage v).2.1, fw.trial := (selectImage v).2.2.1, fw.fellBack := !(selectImage v).2.2.2.isEmpty } := ⟨_, rfl⟩
  have hb : bootImage s = (selectImage v).2.2.2.foldl (fun s slot => commitSec (.rejectBoot slot) s) w := by
    rw [hw, hv]
    rfl
  obtain ⟨kn, kc, kf⟩ := foldl_bootKept (fun s slot => commitSec_bootKept (.rejectBoot slot) s) (selectImage v).2.2.2 w
  rw [hb, kn, kc, kf, hw]
  dsimp only
  refine ⟨?_, ?_, ht⟩
  · rw [hn, hv]
  · rw [hp, hv]

/-! ## Steps 7 to 14 (R57, R65, R87, R262, R267, R281, R303, R332, R338, R341) -/

theorem reSource_bootKept (s : State) : BootKept s (reSource s) := by
  unfold reSource
  split <;> exact .refl s

theorem loadConfig_bootKept (b : BootIn) (s : State) : BootKept s (loadConfig b s) := .refl s

theorem active_bootKept (m : Memory) (s : State) : BootKept s { s with rd.active := m } := .refl s

theorem loadDeck_bootKept (s : State) : BootKept s (loadDeck s) := by
  unfold loadDeck
  split
  · rename_i a _
    generalize deckPut [] 0 (nvBytesAt s (areaBase a) 98304) = m
    exact ite_bootKept (active_bootKept m s) (.refl s)
  · exact .refl s

theorem loadCurveSector_bootKept (s : State) (sec : Nat) : BootKept s (loadCurveSector s sec) := by
  unfold loadCurveSector
  split
  · dsimp only
    refine foldl_bootKept (fun u i => ?_) _ s
    split <;> exact .refl u
  · exact .refl s

theorem markCounters_bootKept (cause : Byte) (cut : Bool) (s : State) : BootKept s (markCounters cause cut s) := .refl s

theorem loadCounters_bootKept (cause : Byte) (s : State) : BootKept s (loadCounters cause s) := by
  have hr : BootKept s (loadRecord s) := by
    unfold loadRecord
    split <;> exact .refl s
  unfold loadCounters
  dsimp only
  generalize loadRecord s = x at *
  have hm := hr.trans (markCounters_bootKept cause (x.ka.saveOpen || (!x.ka.lostTold && cutShort x)) x)
  generalize markCounters cause (x.ka.saveOpen || (!x.ka.lostTold && cutShort x)) x = y at *
  exact ite_bootKept hm hm

theorem raise_bootKept (op : Byte) (port : Nat) (fields : List Byte) (stamp : W48) (s : State) :
    BootKept s (raise op port fields stamp s) := by
  obtain ⟨e, d, h⟩ := raise_frame op port fields stamp s
  rw [h]
  exact .refl s

theorem upPort_bootKept (p : Port) (f : PortState → PortState) (s : State) : BootKept s (upPort p f s) := .refl s

theorem firstState_bootKept (p : Port) (new : PState) (s : State) : BootKept s (firstState p new s) := .refl s

theorem changeState_bootKept (p : Port) (new : PState) (reason : Byte) (s : State) :
    BootKept s (changeState p new reason s) := by
  unfold changeState
  exact ite_bootKept (.refl s) (raise_bootKept _ _ _ _ _)

theorem serveProbes_bootKept (p : Port) (s : State) : BootKept s (serveProbes p s) := (serveProbes_answered p s).bootKept

theorem cutRequests_bootKept (p : Port) (s : State) : BootKept s (cutRequests p s) := by
  have hresolve : ∀ (tok : Tok) (bytes : List Byte) (s : State), BootKept s (resolve tok stPartial bytes s) :=
    fun _ _ s => (resolve_answered _ _ _ s).bootKept
  have hcut : ∀ s, BootKept s (cutConfigs p s) := fun s => by
    unfold cutConfigs
    refine (upPort_bootKept p _ s).trans (foldl_bootKept (fun x c => ?_) _ _)
    have hx : BootKept x (upPorts (fun _ y => { y with configs := y.configs.map fun d =>
        if d.tok = c.tok then { d with cut := true } else d }) x) := (upPorts_portsOnly _ x).bootKept
    exact ite_bootKept hx (hx.trans (hresolve _ _ _))
  unfold cutRequests
  exact (((upPort_bootKept p _ s).trans (foldl_bootKept (fun s tok => hresolve tok _ s) _ _)).trans
    (foldl_bootKept (fun s (i : IdentReq) => hresolve i.tok _ s) _ _)).trans (hcut _)

theorem chainFound_bootKept (p : Port) (why : ResetWhy) (s : State) : BootKept s (chainFound p why s) := by
  unfold chainFound
  dsimp only
  generalize hv : upPort p (fun x => { x with
    returned := false, fresh := true, stopped := false, sinceQ := 0, tries := 3, second := true })
    { s with cnt.cycles := s.cnt.cycles.set p.val (bump (s.cnt.cycles.get p)) } = v
  have h0 : BootKept s v := by
    rw [← hv]
    exact .refl s
  split
  · exact h0.trans (firstState_bootKept p _ v)
  · exact h0.trans (changeState_bootKept p _ _ v)
  · exact h0
  · exact h0
  · exact (h0.trans (changeState_bootKept p _ _ v)).trans (serveProbes_bootKept p _)

theorem chainAbsent_bootKept (p : Port) (why : ResetWhy) (s : State) : BootKept s (chainAbsent p why s) := by
  unfold chainAbsent
  dsimp only
  generalize hv : upPort p (fun x => { x with
    fresh := false, second := false, stopped := false, items := x.items.filter fun i => i.1 != .identity }) s = v
  have h0 : BootKept s v := by
    rw [← hv]
    exact .refl s
  have hw : ∀ w, BootKept v w → BootKept s (cutRequests p (serveProbes p w)) := fun w h =>
    ((h0.trans h).trans (serveProbes_bootKept p w)).trans (cutRequests_bootKept p _)
  cases why
  case boot => exact hw _ (firstState_bootKept p _ v)
  all_goals exact hw _ (changeState_bootKept p _ _ v)

theorem presence_bootKept (p : Port) (here : Bool) (s : State) : BootKept s (presence p here s) := by
  unfold presence
  exact ite_bootKept ((upPort_bootKept p _ s).trans (chainFound_bootKept p _ _))
    ((upPort_bootKept p _ s).trans (chainAbsent_bootKept p _ _))

theorem bootReset_bootKept (chains : BitVec 4) (p : Port) (s : State) : BootKept s (bootReset chains p s) :=
  ite_bootKept ((upPort_bootKept p _ s).trans (presence_bootKept p _ _)) (.refl s)

theorem takePortCfg_bootKept (s : State) : BootKept s (takePortCfg s) := by
  have h := (upPorts_portsOnly (fun p x => { x with cfg := s.cfg.ports.get p, side := s.cfg.side.get p }) s).bootKept
  unfold takePortCfg
  generalize upPorts _ s = x at *
  exact h

theorem bootPorts_bootKept (chains : BitVec 4) (s : State) : BootKept s (bootPorts chains s) := by
  have h : BootKept s (eachPort restartPort (takePortCfg s)) :=
    (takePortCfg_bootKept s).trans (foldl_bootKept (fun s p => (restartPort_portsOnly p s).bootKept) _ _)
  unfold bootPorts
  dsimp only
  generalize eachPort restartPort (takePortCfg s) = x at *
  have hx : BootKept s (if x.cfg.relay then bootRelay x else x) := ite_bootKept h h
  exact hx.trans (foldl_bootKept (fun s p => bootReset_bootKept chains p s) _ _)

theorem journalCheck_bootKept (s : State) : BootKept s (journalCheck s) := by
  unfold journalCheck
  exact ite_bootKept (.refl s) (.refl s)

/-- The store and the ports as step 15 finds them (steps 7 to 14). -/
def beforeReady (b : BootIn) (s : State) : State :=
  let s := curveSectors.foldl loadCurveSector (loadDeck (reSource (loadConfig b s)))
  journalCheck (bootPorts b.chains (loadCounters s.pw.cause s))

theorem bootRest_eq (b : BootIn) (s : State) : bootRest b s = bootReady (beforeReady b s) := rfl

theorem beforeReady_bootKept (b : BootIn) (s : State) : BootKept s (beforeReady b s) := by
  have h : BootKept s (curveSectors.foldl loadCurveSector (loadDeck (reSource (loadConfig b s)))) :=
    (((loadConfig_bootKept b s).trans (reSource_bootKept _)).trans (loadDeck_bootKept _)).trans
      (foldl_bootKept loadCurveSector_bootKept _ _)
  unfold beforeReady
  dsimp only
  generalize curveSectors.foldl loadCurveSector (loadDeck (reSource (loadConfig b s))) = x at *
  exact ((h.trans (loadCounters_bootKept _ x)).trans (bootPorts_bootKept _ _)).trans (journalCheck_bootKept _)

/-! ## Step 15 (R76, R89, R110) -/

/-- The node is in RUN since now: REST_HOLD restarted, the boot scene to come. -/
def Running (s : State) : Prop := s.pw.mode = .run ∧ s.pw.bootAt = s.now ∧ s.rd.bootScene = true
  ∧ s.pw.restDue = s.now + Config.msPs * s.cfg.restHold

/-- `u` is `s` but for its events, the keep-alive domain and the free values used. -/
def EventsOnly (s u : State) : Prop := ∃ k e d, u = { s with ka := k, ev := e, draws := d }

theorem EventsOnly.refl (s : State) : EventsOnly s s := ⟨_, _, _, rfl⟩

theorem EventsOnly.trans {s u v : State} (h : EventsOnly s u) (k : EventsOnly u v) : EventsOnly s v := by
  obtain ⟨_, _, _, rfl⟩ := h
  obtain ⟨_, _, _, rfl⟩ := k
  exact ⟨_, _, _, rfl⟩

theorem EventsOnly.bootKept {s u : State} (h : EventsOnly s u) : BootKept s u := by
  obtain ⟨_, _, _, rfl⟩ := h
  exact .refl s

theorem EventsOnly.running {s u : State} (h : EventsOnly s u) (hs : Running s) : Running u := by
  obtain ⟨_, _, _, rfl⟩ := h
  exact hs

theorem raise_eventsOnly (op : Byte) (port : Nat) (fields : List Byte) (stamp : W48) (s : State) :
    EventsOnly s (raise op port fields stamp s) := by
  obtain ⟨e, d, h⟩ := raise_frame op port fields stamp s
  exact ⟨_, _, _, h⟩

theorem raiseTime_eventsOnly (cause : Byte) (s : State) : EventsOnly s (raiseTime cause s) := raise_eventsOnly _ _ _ _ s

theorem tellOnRun_eventsOnly (s : State) : EventsOnly s (tellOnRun s) := by
  obtain ⟨k, e, d, h⟩ := tellOnRun_frame s
  exact ⟨_, _, _, h⟩

theorem timeAfterBoot_eventsOnly (s : State) : EventsOnly s (timeAfterBoot s) := ⟨_, _, _, rfl⟩

/-- Step 15 before its events. -/
def enterRun (s : State) : State :=
  let sq := Config.firstSeq s.node.uid s.cnt.pup
  let t := { s with
    pw.mode := .run
    pw.fosc := true
    pw.wrc := true
    pw.lockAt := s.now
    pw.bootAt := s.now
    span.quietFrom := s.now
    rd.lastNow := s.now
    rd.bootScene := true
    rd.syncLocked := s.cfg.sync == 2
    span.seq := if sq = 0 then 1 else sq }
  restartHold { t with pw.termOn := termNow t }

theorem enterRun_running (s : State) : BootKept s (enterRun s) ∧ Running (enterRun s) :=
  ⟨.refl s, rfl, rfl, rfl, rfl⟩

theorem bootReady_eventsOnly (s : State) : EventsOnly (enterRun s) (bootReady s) := by
  obtain ⟨u, hu⟩ : ∃ u, u = { enterRun s with ev.bootFields := bootFields (enterRun s) } := ⟨_, rfl⟩
  obtain ⟨v, hv⟩ : ∃ v, v = raise 0xF4 0 u.ev.bootFields u.ka.wt u := ⟨_, rfl⟩
  obtain ⟨w, hw⟩ : ∃ w, w = if v.ka.lost && !v.ka.lostTold then raiseTime 1 { v with ka.lostTold := true } else v := ⟨_, rfl⟩
  have h1 : EventsOnly (enterRun s) u := ⟨_, _, _, hu⟩
  have h2 : EventsOnly u v := by
    rw [hv]
    exact raise_eventsOnly _ _ _ _ u
  have h3 : EventsOnly v w := by
    rw [hw]
    split
    · exact EventsOnly.trans (u := { v with ka.lostTold := true }) ⟨_, _, _, rfl⟩ (raiseTime_eventsOnly 1 _)
    · exact .refl v
  have hb : bootReady s = timeAfterBoot (tellOnRun w) := by
    rw [hw, hv, hu]
    rfl
  rw [hb]
  exact (((h1.trans h2).trans h3).trans (tellOnRun_eventsOnly w)).trans (timeAfterBoot_eventsOnly _)

theorem bootRest_running (b : BootIn) (s : State) : BootKept s (bootRest b s) ∧ Running (bootRest b s) := by
  have h := beforeReady_bootKept b s
  rw [bootRest_eq]
  generalize beforeReady b s = x at *
  obtain ⟨hk, hr⟩ := enterRun_running x
  have he := bootReady_eventsOnly x
  exact ⟨(h.trans hk).trans he.bootKept, he.running hr⟩

/-! ## Where a boot ends (R35, R87, R88) -/

theorem bootInputs_now (b : BootIn) (s : State) : (bootInputs b s).now = s.now + b.took
    ∧ (bootInputs b s).pw.cause = s.pw.cause := by
  obtain ⟨k, x, m, h⟩ := elapse_frame b.took s
  rw [bootInputs, h]
  exact ⟨rfl, rfl⟩

theorem bootOn_abandoned {b : BootIn} (hm : b.vinMin < 2550) (s : State) :
    bootOn b s = .next { s with pw.vin := b.vinMin } := by
  rw [bootOn, if_pos (show b.vinMin < Config.vpdn from hm)]
  rfl

theorem bootOn_boots {b : BootIn} {s : State} (hm : 2550 ≤ b.vinMin) (hr : RomSelected b s) : BootsOn b s (bootOn b s) := by
  obtain ⟨hn, hc⟩ := bootInputs_now b s
  obtain ⟨kn, kc, -⟩ := bootStore_bootKept (bootInputs b s)
  obtain ⟨jn, jc, jt⟩ := bootImage_keeps (bootStore (bootInputs b s))
  rw [bootOn, if_neg (show ¬ b.vinMin < Config.vpdn from Nat.not_lt.mpr hm)]
  dsimp only
  rw [RomSelected] at hr
  generalize bootImage (bootStore (bootInputs b s)) = x at *
  obtain ⟨⟨rn, rc, rf⟩, rm, ra, rs, rd⟩ := bootRest_running b x
  have ho : otherRelease x = false := by
    rw [otherRelease, hr]
    rfl
  rw [ho, if_neg Bool.false_ne_true]
  refine ⟨bootRest b x, rfl, rm, ?_, ?_, ra, rd, ?_, ?_, rs⟩
  · rw [rc, jc, kc, hc]
  · rw [rn, jn, kn, hn]
  · rw [rf, hr]
  · rw [rf, jt hr]

theorem lfxoBack_mode (b : BootIn) (s : State) : (lfxoBack b s).pw = s.pw := by
  unfold lfxoBack
  split <;> rfl

theorem bootStart_mode (cause : Byte) (b : BootIn) (s : State) : (bootStart cause b s).pw.mode = .bootWait := by
  unfold bootStart
  rw [lfxoBack_mode]
  rfl

theorem bootFrom_boots (cause : Byte) (b : BootIn) (s : State) : Boots cause b s (bootFrom cause b s) := by
  have hmode := bootStart_mode cause b s
  unfold Boots bootFrom
  dsimp only
  generalize bootStart cause b s = v at *
  have hgood : b.test = false → 2650 ≤ b.vin → (if b.test then go (halt v) else if b.vin < Config.vinGood then go v else bootOn b v) =
      bootOn b v := fun ht hv => by
    rw [ht, if_neg Bool.false_ne_true, if_neg (show ¬ b.vin < Config.vinGood from Nat.not_lt.mpr hv)]
  refine ⟨fun ht => ?_, fun ht hv => ⟨?_, hmode⟩, fun ht hv hm => ?_, fun ht hv hm hr => ?_⟩
  · rw [ht, if_pos rfl]
    rfl
  · rw [ht, if_neg Bool.false_ne_true, if_pos (show b.vin < Config.vinGood from hv)]
    rfl
  · rw [hgood ht hv, bootOn_abandoned hm]
  · rw [hgood ht hv]
    exact bootOn_boots hm hr

theorem resetFrom_boots (cause : Byte) (b : BootIn) {t : State} (h : t.pw.mode = .save → t.pw.saving = 0) :
    Boots cause b t (resetFrom cause b t) := by
  have hc : (if t.pw.mode = .save then cutSave t else t) = t := by
    split
    · rename_i hm
      rw [cutSave, if_neg (by rw [h hm]; decide), if_neg (by rw [h hm]; decide)]
    · rfl
  rw [resetFrom, hc]
  exact bootFrom_boots cause b t

theorem endDark_mode (vres : Nat) (t : State) : (endDark vres t).pw = t.pw := rfl

theorem resetFrom_endDark (cause : Byte) (b : BootIn) {t : State} (h : t.pw.mode = .darkcut) :
    Boots cause b { kaReset b.vres t with ka.darkLatch := false } (resetFrom cause b (endDark b.vres t)) :=
  resetFrom_boots cause b (t := endDark b.vres t) fun hm => by
    rw [endDark_mode, h] at hm
    exact absurd hm (by decide)

/-! ## The resets by a pin or a supply (R34, R62, R63, R72, R86, R109) -/

section

variable {t : State} {b : BootIn}

theorem coreOn_iff {m : PMode} : coreOn m = true ↔ ¬ (m = .holdover ∨ m = .darkcut) := by
  cases m <;> simp [coreOn]

theorem resetAny_on {cause : Byte} (hsave : t.pw.mode = .save → t.pw.saving = 0)
    (h : ¬ (t.pw.mode = .holdover ∨ t.pw.mode = .darkcut)) : Boots cause b t (resetAny cause b t) := by
  rw [resetAny, if_pos (by rw [coreOn_iff.2 h, Bool.true_or]), if_neg (fun hm => h (Or.inr hm))]
  exact resetFrom_boots cause b hsave

theorem resetAny_off {cause : Byte} (h : t.pw.mode = .holdover ∨ t.pw.mode = .darkcut) (hv : b.vin < 2450) :
    resetAny cause b t = .next t := by
  have hc : coreOn t.pw.mode = false := by
    rw [← Bool.not_eq_true, coreOn_iff]
    exact fun k => k h
  rw [resetAny, hc, Bool.false_or, decide_eq_false (show ¬ Config.vinPor ≤ b.vin from Nat.not_le.mpr hv), if_neg Bool.false_ne_true]
  rfl

theorem resetAny_holdover {cause : Byte} (h : t.pw.mode = .holdover) (hv : 2450 ≤ b.vin) :
    Boots cause b t (resetAny cause b t) := by
  rw [resetAny, decide_eq_true (show Config.vinPor ≤ b.vin from hv), Bool.or_true, if_pos rfl, if_neg (by rw [h]; decide)]
  exact resetFrom_boots cause b fun hm => absurd (h.symm.trans hm) (by decide)

theorem resetAny_darkcut {cause : Byte} (h : t.pw.mode = .darkcut) (hv : 2450 ≤ b.vin) :
    Boots cause b { kaReset b.vres t with ka.darkLatch := false } (resetAny cause b t) := by
  rw [resetAny, decide_eq_true (show Config.vinPor ≤ b.vin from hv), Bool.or_true, if_pos rfl, if_pos h]
  exact resetFrom_endDark cause b h

theorem powerReset_darkcut (h : t.pw.mode = .darkcut) :
    Boots 0x01 b { kaReset b.vres t with ka.darkLatch := false } (powerReset b t) := by
  rw [powerReset, if_pos h]
  exact resetFrom_endDark 0x01 b h

theorem powerReset_else (hsave : t.pw.mode = .save → t.pw.saving = 0) (h : t.pw.mode ≠ .darkcut) :
    Boots 0x01 b t (powerReset b t) := by
  rw [powerReset, if_neg h]
  exact resetFrom_boots 0x01 b hsave

end

section

variable {dt : Nat} {b : BootIn} {s t : State}

theorem exec_powerOn (h : elapse dt s = t) : exec (.powerOn dt b) s = powerReset b t := by
  subst h
  rfl

theorem exec_holdoverVinGood (h : elapse dt s = t) (hv : 2650 ≤ b.vin) (hm : coreOn t.pw.mode = false) :
    exec (.holdoverVinGood dt b) s = powerReset b t := by
  subst h
  rw [exec, execHoldoverVinGood]
  rw [if_neg (show ¬ b.vin < Config.vinGood from Nat.not_lt.mpr hv), hm, Bool.not_false, if_pos rfl]

theorem exec_resetPin_long (h : elapse dt s = t) {w : Nat} (hw : 10000 ≤ w) : exec (.resetPin dt w b) s = resetAny 0x03 b t := by
  subst h
  rw [exec, execResetPin]
  dsimp only
  rw [if_pos hw]

theorem exec_resetPin_short (h : elapse dt s = t) {w : Nat} (hw : w < 1000) : exec (.resetPin dt w b) s = .next t := by
  subst h
  rw [exec, execResetPin]
  dsimp only
  rw [if_neg (by omega), if_pos hw]
  rfl

theorem exec_resetPin_between (h : elapse dt s = t) {w : Nat} (hw : 1000 ≤ w) (hw' : w < 10000) : exec (.resetPin dt w b) s =
    if Config.pulseResets t.draws then resetAny 0x03 b { t with draws := t.draws + 1 } else .next { t with draws := t.draws + 1 } := by
  subst h
  rw [exec, execResetPin]
  dsimp only
  rw [if_neg (by omega), if_neg (by omega)]
  rfl

theorem exec_brownOut (h : elapse dt s = t) (vin vres : Nat) : exec (.brownOut dt vin vres b) s =
    if vin < 2000 ∧ vres < 2000 then resetAny 0x02 b t else .next t := by
  subst h
  exact if_congr (Q := vin < 2000 ∧ vres < 2000) Nat.max_lt rfl rfl

theorem exec_watchdog (h : elapse dt s = t) : exec (.watchdog dt b) s =
    if npRuns t.pw.mode && !npBlocked t then resetFrom 0x05 b t else .next t := by
  subst h
  rfl

theorem exec_resetAfterReply (h : elapse dt s = t) : exec (.resetAfterReply dt b) s =
    if resetDue t then resetFrom 0x04 b t else .next t := by
  subst h
  rfl

theorem exec_fwConfirmTimeout (h : elapse dt s = t) : exec (.fwConfirmTimeout dt b) s =
    if trialOver t then resetFrom 0x04 b t else .next t := by
  subst h
  rfl

theorem exec_vinGood (h : elapse dt s = t) (hm : t.pw.mode = .bootWait) : exec (.vinGood dt b) s =
    if 2650 ≤ b.vin then bootOn b t else .next t := by
  subst h
  exact if_congr (Q := 2650 ≤ b.vin) (and_iff_right hm) rfl rfl

theorem exec_saveComplete (h : elapse dt s = t) (hm : t.pw.mode = .save) : exec (.saveComplete dt b) s =
    if b.vin < 2650 then .next (enterHoldover b.vin b.vres (writeSave t)) else bootFrom 0x06 b (writeSave t) := by
  subst h
  rw [exec, execSaveComplete]
  rw [if_pos hm]
  rfl

end

theorem writeSave_none {t : State} (h : t.pw.saving = 0) : writeSave t = t := by
  rw [writeSave, if_neg (by rw [h]; decide), if_neg (by rw [h]; decide)]

theorem npRuns_iff {m : PMode} : npRuns m = true ↔ m = .run ∨ m = .save ∨ m = .bootWait := by
  cases m <;> simp [npRuns]

theorem npBlocked_none {t : State} (h : t.nv.running = none) : npBlocked t = false := by
  rw [npBlocked, h]
  rfl

theorem resetDue_eq {t : State} {due : Nat} (hm : t.pw.mode = .run) (hr : t.nv.running = none) (hj : t.nv.jobs = [])
    (hq : t.pw.resetReq = some { waits := none, due := some due }) : resetDue t = decide (due ≤ t.now) := by
  rw [resetDue, inRun_run hm, npBlocked_none hr, hq, hj]
  simp

theorem trialOver_true {t : State} (hm : t.pw.mode = .run) (hr : t.nv.running = none) (hj : t.nv.jobs = [])
    (ht : t.fw.trial = true) (h : t.pw.bootAt + 60000000000000 ≤ t.now) : trialOver t = true := by
  rw [trialOver, inRun_run hm, npBlocked_none hr, ht, hj, decide_eq_true (show t.pw.bootAt + 60 * Config.secPs ≤ t.now from h)]
  rfl

/-! ## What a reset loses (R33, R183, R188, R201, R349, R435) -/

theorem cutOp_none {s : State} (h : s.nv.running = none) : cutOp s = s := by
  rw [cutOp, h]

theorem lfxoBack_frame (b : BootIn) (s : State) : ∃ r p n, lfxoBack b s =
    { s with ka.rc := r, ka.poorHeld := p, ka.notStarted := n } := by
  unfold lfxoBack
  split
  · exact ⟨_, _, _, rfl⟩
  · exact ⟨_, _, _, rfl⟩

theorem coreReset_port (m : PMode) (s : State) (p : Port) :
    ((coreReset m s).ports.get p).state = .off ∧ ((coreReset m s).ports.get p).skip = 0 := by
  fin_cases p <;> exact ⟨rfl, rfl⟩

/-- The keep-alive domain, the store, the identity and the straps outlast a reset; the rest of the core domain starts anew. -/
theorem bootStart_frame (cause : Byte) (b : BootIn) {s : State} (h : s.nv.running = none) :
    ∃ k pw i, bootStart cause b s = { coreReset .bootWait s with ka := k, pw := pw, svc.idle := i }
      ∧ k.wt = s.ka.wt ∧ k.lost = s.ka.lost ∧ k.reserve = s.ka.reserve ∧ k.saveOpen = s.ka.saveOpen
      ∧ pw.cause = cause ∧ pw.gp2 = b.gp2 ∧ pw.gp3 = b.gp3 := by
  unfold bootStart
  rw [cutOp_none h]
  dsimp only
  obtain ⟨r, p, n, hl⟩ := lfxoBack_frame b { setVin b.vin (coreReset .bootWait s) with
    pw.cause := cause
    pw.rails := true
    pw.fosc := true
    pw.lockAt := (setVin b.vin (coreReset .bootWait s)).now
    pw.wrc := true
    pw.gp2 := b.gp2
    pw.gp3 := b.gp3
    pw.vio := b.vio
    pw.vres := b.vres }
  exact ⟨_, _, _, hl, rfl, rfl, rfl, rfl, rfl, rfl, rfl⟩

/-- Settles O53: each cause comes to `bootFrom`, whose ways out are those of `Boots`; step by step the boot keeps the instant,
the cause and the image chosen. -/
theorem resetsBoot : Obligations.ResetsBoot := by
  unfold Obligations.ResetsBoot
  constructor
  · intro dt b s
    generalize h : elapse dt s = t
    intro t' hsave anew off byPin
    subst t'
    have hpin : ∀ cause, byPin cause (resetAny cause b t) := fun cause =>
      ⟨resetAny_on hsave, resetAny_off, resetAny_holdover, resetAny_darkcut⟩
    refine ⟨fun hm => ?_, fun hm => ⟨?_, fun hv => ?_⟩, fun w hw => ?_, fun w hw => exec_resetPin_short h hw, fun w hw hw' ho => ?_,
      fun vin vres => ⟨fun hv => ?_, fun hv => ?_⟩, fun hm => ⟨fun hr => ?_, fun hr => ?_⟩, fun hm => ⟨fun due hr hj hq => ⟨fun hd => ?_,
      fun hd => ?_⟩, fun hr hj ht hb => ?_⟩, fun hm hv => ?_, fun hm hv => ?_, fun hm => ⟨fun hv => ?_, fun hv hvm => ?_,
      fun hv hvm hsel => ?_⟩⟩
    · rw [exec_powerOn h]
      exact powerReset_else hsave hm
    · rw [exec_powerOn h]
      exact powerReset_darkcut hm
    · rw [exec_holdoverVinGood h hv (by rw [hm]; rfl)]
      exact powerReset_darkcut hm
    · rw [exec_resetPin_long h hw]
      exact hpin 0x03
    · intro drawn
      rw [exec_resetPin_between h hw hw']
      split
      · exact Or.inr (resetAny_on (t := drawn) hsave ho)
      · exact Or.inl rfl
    · rw [exec_brownOut h, if_pos hv]
      exact hpin 0x02
    · rw [exec_brownOut h, if_neg (by omega)]
    · rw [exec_watchdog h, npRuns_iff.2 hm, npBlocked_none hr, Bool.not_false, Bool.and_self, if_pos rfl]
      exact resetFrom_boots 0x05 b hsave
    · rw [exec_watchdog h, show npBlocked t = true from Option.isSome_iff_ne_none.2 hr, Bool.not_true, Bool.and_false,
        if_neg Bool.false_ne_true]
    · rw [exec_resetAfterReply h, resetDue_eq hm hr hj hq, decide_eq_true hd, if_pos rfl]
      exact resetFrom_boots 0x04 b hsave
    · rw [exec_resetAfterReply h, resetDue_eq hm hr hj hq, decide_eq_false (Nat.not_le.mpr hd), if_neg Bool.false_ne_true]
    · rw [exec_fwConfirmTimeout h, trialOver_true hm hr hj ht hb, if_pos rfl]
      exact resetFrom_boots 0x04 b hsave
    · rw [exec_saveComplete h hm, if_neg (Nat.not_lt.mpr hv), writeSave_none (hsave hm)]
      exact bootFrom_boots 0x06 b t
    · rw [exec_holdoverVinGood h hv (by rw [hm]; rfl)]
      exact powerReset_else hsave (by rw [hm]; decide)
    · rw [exec_vinGood h hm, if_neg (Nat.not_le.mpr hv)]
    · rw [exec_vinGood h hm, if_pos hv, bootOn_abandoned hvm]
    · rw [exec_vinGood h hm, if_pos hv]
      exact bootOn_boots hvm hsel
  · intro cause b s hr v
    obtain ⟨k, pw, i, hv, hwt, hlost, hres, hopen, hc, h2, h3⟩ := bootStart_frame cause b hr
    have hv : v = { coreReset .bootWait s with ka := k, pw := pw, svc.idle := i } := hv
    rw [hv]
    exact ⟨rfl, hwt, hlost, hres, hopen, rfl, rfl, rfl, hc, h2, h3, rfl, rfl, rfl, rfl, rfl, rfl, rfl, rfl, rfl, rfl, rfl, rfl,
      coreReset_port .bootWait s⟩

end Sys2Proof.Machine
end

section
/-!
PROOFS. SAVE, HOLDOVER and DARKCUT (03, 04, R72, R97, R106 to R114): what an entry to each of them leaves.
-/
namespace Sys2Proof.Machine

open Sys2Proof.Claims

-- Proofs in parallel hold one thread each, and a text this long would have more of them than the check has room for.
set_option Elab.async false

/-! ## VKA and its source (R96) -/

theorem reSource_frame (s : State) : ∃ n v, reSource s = { s with ka.source := n, pw.vka := v } := by
  unfold reSource
  split
  · exact ⟨_, s.pw.vka, rfl⟩
  · exact ⟨_, _, rfl⟩
  · exact ⟨s.ka.source, s.pw.vka, rfl⟩

/-! ## SAVE (R112 to R114) -/

theorem saveFrom_iff {m : PMode} : saveFrom m = true ↔ m = .run ∨ m = .rest ∨ m = .shelf := by
  cases m <;> simp [saveFrom]

theorem saveMeetsOp_none {s : State} (h : s.nv.running = none) : saveMeetsOp s = s := by
  rw [saveMeetsOp, h]

theorem fullSaveOk_iff {vin vres : Nat} {s : State} : fullSaveOk vin vres s = true ↔
    (reserveUp s ∧ 3200 ≤ vres) ∨ 1800000 ≤ s.ka.reserve.chold.toNat * (vin - 2100) := by
  simp only [fullSaveOk, Bool.or_eq_true, Bool.and_eq_true, decide_eq_true_eq]

theorem stopPorts_frame (s : State) : ∃ x fl, stopPorts s = { s with ports := x, fail := fl } :=
  upPorts_portsOnly _ s

theorem exec_save {dt : Nat} {s t : State} (h : elapse dt s = t) (vin vres : Nat)
    (hm : t.pw.mode = .run ∨ t.pw.mode = .rest ∨ t.pw.mode = .shelf) : exec (.save dt vin vres) s = .next (enterSave vin vres t) := by
  subst h
  rw [exec, execSave]
  rw [if_pos (saveFrom_iff.2 hm)]
  rfl

/-- What the entry to SAVE leaves (R112, R114, Table 3-3). -/
theorem enterSave_frame (vin vres : Nat) {t : State} (h : t.nv.running = none) : ∃ x fl lk, enterSave vin vres t = { t with
    ports := x, fail := fl, span.tx := none, ka.saveOpen := true
    pw.mode := .save, pw.vin := vin, pw.wrc := false, pw.lampen := false, pw.lampMet := false, pw.termOn := false
    pw.fosc := true, pw.lockAt := lk
    pw.saving := if bankReady t (altBank t) then (if fullSaveOk vin vres t then 1 else 2) else 0 } := by
  obtain ⟨x, fl, hs⟩ := stopPorts_frame t
  rw [enterSave, hs, saveMeetsOp_none (s := { t with ports := x, fail := fl }) h]
  exact ⟨x, fl, _, rfl⟩

/-! ## The end of SAVE (R112, R113) -/

theorem writeRec_frame (j : Bool) (ty sec : Nat) (l : List Byte) (s : State) : ∃ n m, writeRec j ty sec l s =
    { s with nv.jseq := n, nv.mem := m } := by
  unfold writeRec
  dsimp only
  split
  · exact ⟨_, _, rfl⟩
  · exact ⟨_, s.nv.mem, rfl⟩

theorem writeCounters_frame (kind : Nat) (b : Bool) (s : State) : ∃ v c, writeCounters kind b s = { s with nv := v, cnt := c } := by
  obtain ⟨n, m, h⟩ := writeRec_frame (liveJ s.nv.mem) 3 0 (counterPayload s kind b) s
  rw [writeCounters, h]
  exact ⟨_, _, rfl⟩

theorem writeBank_frame (b : Bool) (n : Nat) (s : State) : ∃ m, writeBank b n s = { s with nv.mem := m } := by
  unfold writeBank
  induction n with
  | zero => exact ⟨_, rfl⟩
  | succ n ih =>
    obtain ⟨m, ih⟩ := ih
    rw [List.range_succ, List.foldl_append, ih]
    exact ⟨_, rfl⟩

/-- A COUNTERS record clears the mark (R112); nothing else of the keep-alive and the power state changes. -/
theorem writeSave_frame (t : State) : ∃ v c, writeSave t = { t with
    nv := v, cnt := c, ka.saveOpen := if t.pw.saving = 0 ∨ 2 < t.pw.saving then t.ka.saveOpen else false } := by
  unfold writeSave
  split
  · rename_i h1
    obtain ⟨m, hb⟩ := writeBank_frame (altBank t) 64 t
    obtain ⟨v, c, hw⟩ := writeCounters_frame 0 (altBank t) { t with nv.mem := m }
    refine ⟨v, c, ?_⟩
    rw [hb, hw, if_neg (by omega)]
    rfl
  · split
    · rename_i h2
      obtain ⟨v, c, hw⟩ := writeCounters_frame 1 (t.cnt.bank.getD false) t
      refine ⟨v, c, ?_⟩
      rw [hw, if_neg (by omega)]
      rfl
    · refine ⟨t.nv, t.cnt, ?_⟩
      rw [if_pos (by omega)]

/-- HOLDOVER keeps the straps, WT and the store (R38, R96). -/
theorem enterHoldover_frame (vin vres : Nat) (s : State) : ∃ u, enterHoldover vin vres s = u ∧ u.pw.mode = .holdover
    ∧ u.pw.vin = vin ∧ u.ka.wt = s.ka.wt ∧ u.ka.lost = s.ka.lost ∧ u.pw.gp2 = s.pw.gp2 ∧ u.pw.gp3 = s.pw.gp3
    ∧ u.ka.saveOpen = s.ka.saveOpen ∧ u.nv.mem = s.nv.mem := by
  unfold enterHoldover
  dsimp only
  obtain ⟨n, v, h⟩ := reSource_frame { setVin vin (coreReset .holdover s) with
    pw.vres := vres, ka.chg := if vin < 1900 then .off else (setVin vin (coreReset .holdover s)).ka.chg }
  exact ⟨_, h, rfl, rfl, rfl, rfl, rfl, rfl, rfl, rfl⟩

theorem saveComplete_low {dt : Nat} {b : BootIn} {s t : State} (h : elapse dt s = t) (hm : t.pw.mode = .save) (hv : b.vin < 2650) :
    ∃ u, exec (.saveComplete dt b) s = .next u ∧ u.pw.mode = .holdover
      ∧ u.pw.vin = b.vin ∧ u.ka.wt = t.ka.wt ∧ u.ka.lost = t.ka.lost ∧ u.pw.gp2 = t.pw.gp2 ∧ u.pw.gp3 = t.pw.gp3
      ∧ u.ka.saveOpen = (if t.pw.saving = 0 ∨ 2 < t.pw.saving then t.ka.saveOpen else false)
      ∧ (t.pw.saving = 0 → u.nv.mem = t.nv.mem) := by
  obtain ⟨u, hu, um, uv, uw, ul, u2, u3, uo, un⟩ := enterHoldover_frame b.vin b.vres (writeSave t)
  obtain ⟨v, c, hw⟩ := writeSave_frame t
  refine ⟨u, by rw [exec_saveComplete h hm, if_pos hv, hu], um, uv, ?_, ?_, ?_, ?_, ?_, fun h0 => by rw [un, writeSave_none h0]⟩
  · rw [uw, hw]
  · rw [ul, hw]
  · rw [u2, hw]
  · rw [u3, hw]
  · rw [uo, hw]

/-! ## DARKCUT (R97, R106 to R109) -/

theorem exec_darkcutEntry {dt : Nat} {s t : State} (h : elapse dt s = t) {since : Nat} (hb : t.ka.belowSince = some since)
    (hm : t.pw.mode = .holdover) (hd : since + 10000000000000 ≤ t.now) : exec (.darkcutEntry dt) s = .next (latch (darkCut t)) := by
  subst h
  rw [exec, execDarkcutEntry]
  simp only [hb]
  rw [if_pos ⟨hm, show since + 10 * Config.secPs ≤ (elapse dt s).now from hd⟩]
  rfl

theorem darkCut_frame (t : State) : ∃ u, latch (darkCut t) = u ∧ u.pw.mode = .darkcut ∧ u.ka.wt = 0 ∧ u.ka.lost = true
    ∧ u.ka.darkLatch = true ∧ u.ka.darkSince = true ∧ u.nv = t.nv := by
  unfold darkCut
  obtain ⟨n, v, h⟩ := reSource_frame { loseWt t with
    pw.mode := .darkcut, pw.vka := 0, ka.darkLatch := true, ka.darkSince := true, ka.belowSince := none
    ka.hst := .stopped, ka.chg := .off }
  rw [h]
  exact ⟨_, rfl, rfl, rfl, rfl, rfl, rfl, rfl⟩

theorem windowOpen_iff {t : State} : windowOpen t = true ↔ ∃ w, t.ka.window = some w ∧ t.now ≤ w + 1000000000 := by
  cases hw : t.ka.window with
  | none => simp [windowOpen, hw]
  | some w =>
    simp only [windowOpen, hw, Option.some.injEq, decide_eq_true_eq, exists_eq_left']
    rfl

theorem vinBack_iff {b : BootIn} {t : State} : vinBack b t = true ↔ (t.pw.vin < 2450 ∧ 2450 ≤ b.vin) ∨ 2650 ≤ b.vin := by
  simp only [vinBack, Bool.or_eq_true, Bool.and_eq_true, decide_eq_true_eq]
  rfl

theorem exec_darkcutExit {dt : Nat} {s t : State} (h : elapse dt s = t) (vres : Nat) (b : BootIn) : exec (.darkcutExit dt vres b) s =
    if t.pw.mode ≠ .darkcut then .next t else if vinBack b t then powerReset b t
    else .next (if windowOpen t then reconnect { t with pw.vres := vres } else t) := by
  subst h
  rfl

theorem reconnect_below {t : State} (h : t.pw.vres < 3600) : reconnect t = t :=
  if_neg fun k => absurd k.2 (Nat.not_le.mpr h)

/-- The reconnect level ends DARKCUT: the keep-alive domain starts anew, the node is in HOLDOVER (R97, R109). -/
theorem reconnect_above {t : State} (hm : t.pw.mode = .darkcut) (h : 3600 ≤ t.pw.vres) : ∃ u, reconnect t = u
    ∧ u.pw.mode = .holdover ∧ u.ka.darkLatch = false ∧ u.ka.wt = 0 ∧ u.ka.lost = true ∧ u.ka.reserve = {}
    ∧ u.pw.vin = t.pw.vin ∧ u.pw.vres = t.pw.vres ∧ u.nv = t.nv ∧ u.ka.window = t.ka.window := by
  rw [reconnect, if_pos ⟨hm, h⟩]
  obtain ⟨n, v, hr⟩ := reSource_frame { endDark t.pw.vres t with pw.mode := .holdover }
  exact ⟨_, hr, rfl, rfl, rfl, rfl, rfl, rfl, rfl, rfl, rfl⟩

/-- A keep-alive power-on reset: WT restarts LOST, and with no cell DARKCUT ends (R97, R98, R109). -/
theorem exec_keepalivePowerOnReset {dt : Nat} {s t : State} (h : elapse dt s = t) (vres : Nat) :
    ∃ u, exec (.keepalivePowerOnReset dt vres) s = .next u ∧ u.ka.wt = 0 ∧ u.ka.lost = true
      ∧ u.ka.reserve = {} ∧ u.ka.harvest = {} ∧ u.ka.saveOpen = false ∧ u.ka.present = decide (1000 ≤ vres)
      ∧ u.pw.mode = (if t.pw.mode = .darkcut ∧ vres < 1000 then .holdover else t.pw.mode)
      ∧ u.ka.darkLatch = (if t.pw.mode = .darkcut ∧ vres < 1000 then false else t.ka.darkLatch)
      ∧ u.nv = t.nv ∧ u.rd = t.rd ∧ u.span = t.span := by
  obtain ⟨k, hk⟩ : ∃ k, k = kaReset vres { t with pw.vres := vres, pw.vka := 1600 } := ⟨_, rfl⟩
  have hp : k.ka.present = decide (1000 ≤ vres) := by
    rw [hk]
    rfl
  have hm : k.pw.mode = t.pw.mode := by
    rw [hk]
    rfl
  have he : exec (.keepalivePowerOnReset dt vres) s = .next (reSource
      (if k.pw.mode = .darkcut ∧ k.ka.present = false then { k with pw.mode := .holdover, ka.darkLatch := false } else k)) := by
    rw [hk, ← h]
    rfl
  rw [he, hm, hp]
  split
  · rename_i hd
    have hd' : t.pw.mode = .darkcut ∧ vres < 1000 := ⟨hd.1, Nat.not_le.mp (of_decide_eq_false hd.2)⟩
    obtain ⟨n, v, hr⟩ := reSource_frame { k with pw.mode := .holdover, ka.darkLatch := false }
    rw [hr, if_pos hd', if_pos hd', hk]
    exact ⟨_, rfl, rfl, rfl, rfl, rfl, rfl, rfl, rfl, rfl, rfl, rfl, rfl⟩
  · rename_i hd
    have hd' : ¬ (t.pw.mode = .darkcut ∧ vres < 1000) := fun ⟨a, c⟩ => hd ⟨a, decide_eq_false (Nat.not_le.mpr c)⟩
    obtain ⟨n, v, hr⟩ := reSource_frame k
    rw [hr, if_neg hd', if_neg hd', hk]
    exact ⟨_, rfl, rfl, rfl, rfl, rfl, rfl, rfl, rfl, rfl, rfl, rfl, rfl⟩

/-- Settles O54. -/
theorem saveHoldoverAndDarkcut : Obligations.SaveHoldoverAndDarkcut := by
  unfold Obligations.SaveHoldoverAndDarkcut
  intro dt s
  generalize h : elapse dt s = t
  intro t'
  subst t'
  refine ⟨fun vin vres hm hr => ?_, fun b hm hv => saveComplete_low h hm hv, fun since hm hb hd => ?_, fun vres b => ?_,
    exec_keepalivePowerOnReset h⟩
  · obtain ⟨x, fl, lk, he⟩ := enterSave_frame vin vres hr
    refine ⟨enterSave vin vres t, exec_save h vin vres hm, ?_⟩
    rw [he]
    refine ⟨rfl, rfl, rfl, rfl, rfl, rfl, rfl, rfl, rfl, rfl, ?_⟩
    dsimp only
    simp only [fullSaveOk_iff]
  · obtain ⟨u, hu, hk⟩ := darkCut_frame t
    exact ⟨u, by rw [exec_darkcutEntry h hb hm hd, hu], hk⟩
  · intro back
    have he := exec_darkcutExit h vres b
    refine ⟨fun hm => by rw [he, if_pos hm], fun hm hb => ?_, fun hm hb => ?_⟩
    · rw [he, if_neg (fun k => k hm), if_pos (vinBack_iff.2 hb)]
      exact powerReset_darkcut hm
    · rw [if_neg (fun k => k hm), if_neg (fun k => hb (vinBack_iff.1 k))] at he
      refine ⟨fun hw => ?_, fun w hw => ⟨fun hl => ?_, fun hl hv => ?_, fun hl hv => ?_⟩⟩
      · rw [he, if_neg (fun k => ?_)]
        obtain ⟨w, hw', -⟩ := windowOpen_iff.1 k
        simp [hw] at hw'
      · rw [he, if_neg (fun k => ?_)]
        obtain ⟨w', hw', hl'⟩ := windowOpen_iff.1 k
        rw [hw, Option.some.injEq] at hw'
        omega
      · rw [he, if_pos (windowOpen_iff.2 ⟨w, hw, hl⟩), reconnect_below hv]
      · obtain ⟨u, hu, um, ud, uw, ul, ur, uv, us, un, -⟩ := reconnect_above (t := { t with pw.vres := vres }) hm hv
        exact ⟨u, by rw [he, if_pos (windowOpen_iff.2 ⟨w, hw, hl⟩), hu], um, ud, uw, ul, ur, uv, us, un⟩

end Sys2Proof.Machine
end

section
/-!
PROOFS. The reserve, its charger and the source of VKA (04, R96, R103, R105, R106, R118, Table 4-5).
-/
namespace Sys2Proof.Machine

open Sys2Proof.Claims

-- Proofs in parallel hold one thread each, and a text this long would have more of them than the check has room for.
set_option Elab.async false

/-! ## The source of VKA (R96, Table 4-1) -/

theorem reserveUp_iff {s : State} : reserveUp s = true ↔
    s.ka.present = true ∧ s.ka.darkLatch = false ∧ s.ka.hardDisc = false ∧ s.ka.oc = false := by
  simp only [reserveUp, Bool.and_eq_true, Bool.not_eq_true', and_assoc]

theorem reSource_eq (s : State) : reSource s = fed s := by
  unfold reSource fed vkaSource
  by_cases h1 : 1900 ≤ s.pw.vin
  · simp only [if_pos h1]
  · simp only [if_neg h1, reserveUp_iff, and_assoc]
    by_cases h2 : s.ka.present = true ∧ s.ka.darkLatch = false ∧ s.ka.hardDisc = false ∧ s.ka.oc = false ∧ 2750 ≤ s.pw.vres
    · simp only [if_pos h2]
    · simp only [if_neg h2]
      by_cases h3 : s.ka.hst = .boost ∧ s.ka.present = false
      · simp only [if_pos h3]
      · simp only [if_neg h3]

theorem setVin_eq (v : Nat) (s : State) : setVin v s = vinReads v s := rfl

/-! ## The levels of the reserve (R103, R106) -/

section

variable {dt vres : Nat} {s t : State}

theorem exec_overcurrent (h : elapse dt s = t) : exec (.overcurrent dt) s =
    .next (if reserveUp t then reSource { t with ka.oc := true, ka.latchEvt := true } else t) := by
  subst h
  rfl

theorem exec_hardDisconnect (h : elapse dt s = t) : exec (.hardDisconnect dt vres) s =
    .next (if windowOpen t then reSource (hardCut vres { t with pw.vres := vres }) else t) := by
  subst h
  rfl

theorem exec_hardDisconnectEnd (h : elapse dt s = t) : exec (.hardDisconnectEnd dt vres) s =
    .next (if windowOpen t then reSource (hardEnd vres { t with pw.vres := vres }) else t) := by
  subst h
  rfl

theorem hardCut_below (hp : t.ka.present = true) (hd : t.ka.hardDisc = false) (hv : vres < 2750) :
    hardCut vres t = { t with ka.hardDisc := true, ka.hardSince := true, ka.latchEvt := true } := by
  rw [hardCut, hp, hd, decide_eq_true hv]
  rfl

theorem hardCut_above (hv : 2750 ≤ vres) : hardCut vres t = t := by
  rw [hardCut, decide_eq_false (Nat.not_lt.mpr hv), Bool.and_false, if_neg Bool.false_ne_true]

theorem hardEnd_charged (hd : t.ka.hardDisc = true) (hv : 3000 ≤ vres) (hc : chargeFlows t = true) :
    hardEnd vres t = { t with ka.hardDisc := false } := by
  rw [hardEnd, hd, decide_eq_true hv, hc]
  rfl

theorem hardEnd_below (hv : vres < 3000) : hardEnd vres t = t := by
  rw [hardEnd, decide_eq_false (Nat.not_le.mpr hv), Bool.and_false, Bool.false_and, if_neg Bool.false_ne_true]

theorem hardEnd_connected (hd : t.ka.hardDisc = false) : hardEnd vres t = t := by
  rw [hardEnd, hd, Bool.false_and, Bool.false_and, if_neg Bool.false_ne_true]

theorem chargeFlows_iff : chargeFlows t = true ↔ charging t = true ∨ boostOut t = .vres := by
  rw [chargeFlows, Bool.or_eq_true, beq_iff_eq]

end

/-! ## The charger (R105, Table 4-5) -/

section

variable {dt vres : Nat} {s t : State} {taper : Bool}

theorem exec_chargeStateChange (h : elapse dt s = t) : exec (.chargeStateChange dt vres taper) s =
    .next { t with pw.vres := vres, ka.chg := chargeNext vres taper t } := by
  subst h
  rfl

theorem mayCharge_iff : mayCharge t = true ↔
    t.ka.present = true ∧ t.ka.tempStop = false ∧ t.ka.reserve.ichg ≠ 3 ∧ 1900 ≤ t.pw.vin := by
  simp only [mayCharge, Bool.and_eq_true, Bool.not_eq_true', bne_iff_ne, decide_eq_true_eq, and_assoc]

theorem chargeNext_off (h : t.ka.present = false ∨ t.ka.tempStop = true ∨ t.ka.reserve.ichg = 3 ∨ t.pw.vin < 1900) :
    chargeNext vres taper t = .off := by
  have hm : mayCharge t = false := by
    rw [← Bool.not_eq_true, mayCharge_iff]
    rintro ⟨hp, ht, hi, hv⟩
    rcases h with h | h | h | h
    · rw [hp] at h
      exact absurd h (by decide)
    · rw [ht] at h
      exact absurd h (by decide)
    · exact hi h
    · omega
  unfold chargeNext
  rw [hm]
  rfl

/-- The charger's next state where it may charge. -/
theorem chargeNext_on (h : mayCharge t = true) : chargeNext vres taper t =
    if t.ka.chg = .terminated ∧ vchgMv t.ka.reserve < vres + 100 then .terminated
    else if vres < 3000 then .precharge
    else if t.ka.chg = .constantVoltage ∧ vchgMv t.ka.reserve * 99 ≤ vres * 100 then (if taper then .terminated else .constantVoltage)
    else if vchgMv t.ka.reserve ≤ vres then .constantVoltage
    else .constantCurrent := by
  unfold chargeNext
  rw [h]
  rfl

theorem vchgMv_ge (r : ReserveCfg) : 4100 ≤ vchgMv r := by
  unfold vchgMv
  split <;> decide

theorem chargeNext_low (h : mayCharge t = true) (hv : vres < 3000) : chargeNext vres taper t = .precharge := by
  have := vchgMv_ge t.ka.reserve
  rw [chargeNext_on h, if_neg (by omega), if_pos hv]

theorem chargeNext_current (h : mayCharge t = true) (hc : t.ka.chg = .constantCurrent) (hv : 3000 ≤ vres) :
    chargeNext vres taper t = if vres < vchgMv t.ka.reserve then .constantCurrent else .constantVoltage := by
  rw [chargeNext_on h, if_neg (fun k => absurd (hc.symm.trans k.1) (by decide)), if_neg (Nat.not_lt.mpr hv),
    if_neg (fun k => absurd (hc.symm.trans k.1) (by decide))]
  split
  · rw [if_neg (by omega)]
  · rw [if_pos (by omega)]

theorem chargeNext_voltage (h : mayCharge t = true) (hc : t.ka.chg = .constantVoltage) (hv : vres = vchgMv t.ka.reserve) :
    chargeNext vres taper t = if taper then .terminated else .constantVoltage := by
  have := vchgMv_ge t.ka.reserve
  rw [chargeNext_on h, if_neg (fun k => absurd (hc.symm.trans k.1) (by decide)), if_neg (by omega), if_pos ⟨hc, by omega⟩]

theorem chargeNext_terminated (h : mayCharge t = true) (hc : t.ka.chg = .terminated) (hv : 3000 ≤ vres)
    (ht : vres < vchgMv t.ka.reserve) :
    chargeNext vres taper t = if vchgMv t.ka.reserve < vres + 100 then .terminated else .constantCurrent := by
  rw [chargeNext_on h]
  split
  · rename_i hk
    rw [if_pos hk.2]
  · rename_i hk
    rw [if_neg (Nat.not_lt.mpr hv), if_neg (fun k => absurd (hc.symm.trans k.1) (by decide)), if_neg (by omega),
      if_neg (fun k => hk ⟨hc, k⟩)]

theorem tempBad_iff {t8 : Int} : tempBad t8 = true ↔ t8 < 0 ∨ 360 < t8 := by
  simp only [tempBad, Bool.or_eq_true, decide_eq_true_eq, gt_iff_lt]

theorem tempCheck_bad {t8 : Int} (h : t8 < 0 ∨ 360 < t8) : tempCheck t8 t = { t with ka.tempStop := true, ka.chg := .off } :=
  if_pos (tempBad_iff.2 h)

theorem tempCheck_good {t8 : Int} (h : 0 ≤ t8) (h' : t8 ≤ 360) : tempCheck t8 t = { t with ka.tempStop := false } :=
  if_neg fun k => by
    have := tempBad_iff.1 k
    omega

theorem exec_chargeTemperatureCheck (h : elapse dt s = t) {t8 : Int} (hm : t.pw.mode = .run ∨ t.pw.mode = .rest ∨ t.pw.mode = .shelf) :
    exec (.chargeTemperatureCheck dt t8) s = .next (tempCheck t8 t) := by
  subst h
  rw [exec, execChargeTemperatureCheck, if_pos (saveFrom_iff.2 hm)]
  rfl

end

/-! ## The test of the reserve and the windows of the reference (R103, R118) -/

section

variable {dt vin vres : Nat} {t8 : Int} {s t : State}

theorem exec_reserveTest (h : elapse dt s = t) (hm : t.pw.mode = .run) (ha : t.cfg.notify.addr = 0) :
    exec (.reserveTest dt vres) s = .next { t with pw.reserveLow := !fullSaveOk 2550 vres t } := by
  have hpd : Config.vpdn = 2550 := rfl
  rw [exec, execReserveTest, h, hpd]
  dsimp only
  generalize (!fullSaveOk 2550 vres t) = low
  rw [inRun_run hm, if_pos rfl]
  split
  · rename_i hl
    rw [hl]
    rfl
  · rw [raisePower, raise_none (t := { t with pw.reserveLow := low }) ha]
    rfl

theorem windowDue_iff : windowDue t = true ↔ ∀ w, t.ka.window = some w → w + 64000000000 ≤ t.now := by
  cases hw : t.ka.window with
  | none => simp [windowDue, hw]
  | some w =>
    simp only [windowDue, hw, Option.some.injEq, decide_eq_true_eq, forall_eq']
    rfl

/-- The readings a window takes. -/
def windowReads (vin vres : Nat) (t : State) : State := { vinReads vin t with pw.vres := vres, ka.window := some t.now }

theorem exec_bandgapWindow (h : elapse dt s = t) : exec (.bandgapWindow dt vin vres t8) s = .next (if windowDue t then
    (if t.pw.mode = .darkcut then darkWindow (windowReads vin vres t) else litWindow t8 (windowReads vin vres t)) else t) := by
  rw [exec, execBandgapWindow, h]
  dsimp only
  rw [setVin_eq]
  rfl

theorem belowStep_eq (s : State) : belowStep s = { s with
    ka.belowSince := if s.ka.present ∧ s.pw.vres < 3000 + 50 * s.ka.reserve.darkcut.toNat
      then some (s.ka.belowSince.getD s.now) else none } := by
  have hc : (s.ka.present && decide (s.pw.vres < darkcutMv s.ka.reserve)) = true ↔
      s.ka.present ∧ s.pw.vres < 3000 + 50 * s.ka.reserve.darkcut.toNat := by
    rw [Bool.and_eq_true, decide_eq_true_eq, darkcutMv]
  unfold belowStep
  split
  · rename_i hk
    rw [if_pos (hc.1 hk)]
  · rename_i hk
    rw [if_neg (fun k => hk (hc.2 k))]

theorem litWindow_holdover (hm : t.pw.mode = .holdover) (hd : t.ka.hardDisc = false) (hv : 2750 ≤ t.pw.vres) (h0 : 0 ≤ t8)
    (h1 : t8 ≤ 360) : litWindow t8 t = fed { belowStep t with ka.tempStop := false } := by
  have hb : (belowStep t).pw.mode = .holdover := by
    rw [belowStep_eq]
    exact hm
  rw [litWindow, hardCut_above hv, hardEnd_connected hd]
  dsimp only
  rw [if_pos hb, tempCheck_good h0 h1, reSource_eq]

theorem exec_vkaSourceHandover (h : elapse dt s = t) : exec (.vkaSourceHandover dt vin vres) s =
    .next (reSource { vinReads vin t with pw.vres := vres }) := by
  subst h
  rfl

end

/-- Settles O55. -/
theorem reserveIsProtected : Obligations.ReserveIsProtected := by
  unfold Obligations.ReserveIsProtected
  intro dt vin vres t8 s
  generalize h : elapse dt s = t
  intro t' top open_ due seen
  subst t'
  have hopen : windowOpen t = true ↔ open_ := windowOpen_iff
  have hdue : windowDue t = true ↔ due := windowDue_iff
  refine ⟨fun hr => ?_, fun hr => ?_, fun ho => ⟨?_, ?_⟩, fun ho hp hd => ⟨fun hv => ?_, fun hv => ?_⟩, fun ho hd => ⟨fun hv hc => ?_,
    fun hv => ?_⟩, fun taper hoff => ?_, fun hp ht hi hv => ?_, fun hm => ⟨fun hb => ?_, fun h0 h1 => ?_⟩, fun hm ha => ?_,
    fun hd => ?_, fun hd hm hdisc hv h0 h1 => ?_, fun hd hm hv => ?_, fun hd hm hv => ?_, ?_⟩
  · rw [exec_overcurrent h, if_pos hr, reSource_eq]
  · rw [exec_overcurrent h, if_neg (by rw [hr]; decide)]
  · rw [exec_hardDisconnect h, if_neg (fun k => ho (hopen.1 k))]
  · rw [exec_hardDisconnectEnd h, if_neg (fun k => ho (hopen.1 k))]
  · rw [exec_hardDisconnect h, if_pos (hopen.2 ho), hardCut_below (t := { t with pw.vres := vres }) hp hd hv, reSource_eq]
  · rw [exec_hardDisconnect h, if_pos (hopen.2 ho), hardCut_above hv, reSource_eq]
  · rw [exec_hardDisconnectEnd h, if_pos (hopen.2 ho), reSource_eq,
      hardEnd_charged (t := { t with pw.vres := vres }) hd hv (chargeFlows_iff.2 hc)]
  · rw [exec_hardDisconnectEnd h, if_pos (hopen.2 ho), hardEnd_below hv, reSource_eq]
  · rw [exec_chargeStateChange h, chargeNext_off hoff]
  · intro becomes
    have hmay : mayCharge t = true := mayCharge_iff.2 ⟨hp, ht, hi, hv⟩
    have hb : ∀ {taper c}, chargeNext vres taper t = c → becomes taper c := fun hc => by
      show exec _ s = _
      rw [exec_chargeStateChange h, hc]
    exact ⟨fun _ hl => hb (chargeNext_low hmay hl), fun _ hc hl => hb (chargeNext_current hmay hc hl),
      fun hc hl => ⟨hb (chargeNext_voltage hmay hc hl), hb (chargeNext_voltage hmay hc hl)⟩,
      fun _ hc hl hl' => hb (chargeNext_terminated hmay hc hl hl')⟩
  · rw [exec_chargeTemperatureCheck h hm, tempCheck_bad hb]
  · rw [exec_chargeTemperatureCheck h hm, tempCheck_good h0 h1]
  · have hf : fullSaveOk 2550 vres t = decide ((reserveUp t ∧ 3200 ≤ vres) ∨ 1800000 ≤ t.ka.reserve.chold.toNat * 450) :=
      Bool.eq_iff_iff.2 (fullSaveOk_iff.trans decide_eq_true_iff.symm)
    rw [exec_reserveTest h hm ha, hf]
  · rw [exec_bandgapWindow h, if_neg (fun k => hd (hdue.1 k))]
  · rw [exec_bandgapWindow h, if_pos (hdue.2 hd), if_neg (by rw [hm]; decide),
      litWindow_holdover (t := windowReads vin vres t) hm hdisc hv h0 h1, belowStep_eq]
    rfl
  · rw [exec_bandgapWindow h, if_pos (hdue.2 hd), if_pos hm, darkWindow, reconnect_below (t := windowReads vin vres t) hv,
      reSource_eq]
    rfl
  · obtain ⟨u, hu, um, ud, uw, -, -, -, -, -, uwin⟩ := reconnect_above (t := windowReads vin vres t) hm hv
    obtain ⟨n, v, hr⟩ := reSource_frame u
    refine ⟨reSource u, ?_, ?_⟩
    · rw [exec_bandgapWindow h, if_pos (hdue.2 hd), if_pos hm, darkWindow, hu]
    · rw [hr]
      exact ⟨um, ud, uw, uwin⟩
  · rw [exec_vkaSourceHandover h, reSource_eq]

end Sys2Proof.Machine
end

section
/-!
PROOFS. VIO, the LFXO, the thermal limiter and the harvester (03, 04, R62 to R65, R69, R92 to R94, R100 to R102).
-/
namespace Sys2Proof.Machine

open Sys2Proof.Claims

-- Proofs in parallel hold one thread each, and a text this long would have more of them than the check has room for.
set_option Elab.async false

/-! ## VIO (R62, R64, R65) -/

section

variable {dt n : Nat} {s t : State}

theorem setVio_low (h : n < 1600) : setVio n t = { t with pw.vio := n, pw.vioDown := true } := by
  rw [setVio, if_pos (show n < Config.vioLow from h)]

theorem setVio_good (h : 1700 ≤ n) : setVio n t = { t with pw.vio := n, pw.vioDown := false } := by
  rw [setVio, if_neg (show ¬ n < Config.vioLow from Nat.not_lt.mpr (Nat.le_trans (by decide) h)), if_pos (show Config.vioGood ≤ n from h)]

theorem setVio_up (hd : t.pw.vioDown = false) (h : 1600 ≤ n) : setVio n t = { t with pw.vio := n } := by
  rw [setVio, if_neg (show ¬ n < Config.vioLow from Nat.not_lt.mpr h), hd, ite_self, ← hd]

theorem setVio_between (hl : 1600 ≤ n) (hh : n < 1700) : setVio n t = { t with pw.vio := n } := by
  rw [setVio, if_neg (show ¬ n < Config.vioLow from Nat.not_lt.mpr hl), if_neg (show ¬ Config.vioGood ≤ n from Nat.not_le.mpr hh)]

theorem exec_vioLow (h : elapse dt s = t) {u : State} (hu : setVio n t = u) : exec (.vioLow dt n) s =
    .next (if inRun u && !u.pw.vioLow && u.pw.vioDown then
      { stopPorts u with pw.vioLow := true, pw.lampen := false, pw.lampMet := false } else u) := by
  subst h hu
  rfl

theorem exec_vioGood (h : elapse dt s = t) {u : State} (hu : setVio n t = u) : exec (.vioGood dt n) s =
    .next (if inRun u && u.pw.vioLow && !u.pw.vioDown then
      raisePower 1 (eachPort restartPort (unready { u with pw.vioLow := false })) else u) := by
  subst h hu
  rfl

theorem stopPorts_port (s : State) (p : Port) : (stopPorts s).ports.get p =
    if (s.ports.get p).cfg.enable then { (s.ports.get p).still with stopped := true } else s.ports.get p :=
  upPorts_get _ s p

end

/-! ## The ports after a loss of VIO count their readiness anew (R65, R90) -/

/-- No port is ready. -/
def NoneReady (s : State) : Prop := ∀ p : Port, (s.ports.get p).ready = false

theorem unready_noneReady (s : State) : NoneReady (unready s) := fun p => by
  rw [unready, upPorts_get]

theorem upPort_noneReady {p : Port} {f : PortState → PortState} {s : State} (hf : ∀ x, (f x).ready = x.ready) (h : NoneReady s) :
    NoneReady (upPort p f s) := fun k => by
  by_cases hk : k = p
  · rw [hk, upPort_get_self, hf]
    exact h p
  · rw [upPort_get_of_ne f s hk]
    exact h k

theorem wantReset_noneReady {p : Port} {w : ResetWhy} {s : State} (h : NoneReady s) : NoneReady (wantReset p w s) := by
  unfold wantReset
  dsimp only
  split
  · exact h
  · exact upPort_noneReady (fun x => by split <;> rfl) (upPort_noneReady (fun _ => rfl) h)

theorem restartPort_noneReady {p : Port} {s : State} (h : NoneReady s) : NoneReady (restartPort p s) := by
  have htrim : ∀ c : Prop, [Decidable c] → NoneReady (if c then trimMap p (s.cfg.ports.get p).n s else s) := by
    intro c _
    split
    · exact h
    · exact h
  unfold restartPort
  dsimp only
  split
  · exact h
  · split
    · split
      · exact upPort_noneReady (fun _ => rfl) h
      · exact wantReset_noneReady (upPort_noneReady (fun _ => rfl) (htrim _))
    · exact h

theorem eachPort_noneReady {f : Port → State → State} (hf : ∀ p s, NoneReady s → NoneReady (f p s)) {s : State} (h : NoneReady s) :
    NoneReady (eachPort f s) := by
  unfold eachPort
  generalize allPorts = l
  induction l generalizing s with
  | nil => exact h
  | cons p l ih => exact ih (hf p s h)

/-- The ports start anew, none of them ready, and the return is reported (R65). -/
theorem vioBack_frame (s : State) : ∃ u, raisePower 1 (eachPort restartPort (unready s)) = u ∧ u.pw = s.pw ∧ u.rd = s.rd
    ∧ NoneReady u := by
  obtain ⟨x, fl, h⟩ : PortsOnly s (eachPort restartPort (unready s)) :=
    (upPorts_portsOnly _ s).trans (foldl_portsOnly (fun s p => restartPort_portsOnly p s) _ _)
  have hn : NoneReady (eachPort restartPort (unready s)) :=
    eachPort_noneReady (fun _ _ => restartPort_noneReady) (unready_noneReady s)
  rw [h] at hn ⊢
  obtain ⟨e, d, hr⟩ := raise_frame 0xF2 0 (powerFields { s with ports := x, fail := fl } 1) s.ka.wt { s with ports := x, fail := fl }
  exact ⟨_, hr, rfl, rfl, hn⟩

/-! ## The LFXO and the thermal limiter (R69, R92 to R94) -/

section

variable {dt : Nat} {s t : State}

theorem lfxoFailed_iff (hm : t.pw.mode = .rest) (hr : t.ka.rc = false) :
    lfxoFailed t = true ↔ t.ka.startIn = 0 ∨ t.ka.poweredAt + 2000000000000 ≤ t.now := by
  rw [lfxoFailed, hm, hr]
  simp only [Bool.and_eq_true, Bool.or_eq_true, beq_iff_eq, decide_eq_true_eq]
  exact and_iff_right ⟨rfl, rfl⟩

theorem exec_lfxoFailure (h : elapse dt s = t) (hm : t.pw.mode = .rest) : exec (.lfxoFailure dt) s =
    .next (if lfxoFailed t then { t with
      draws := t.draws + 1, ka.rc := true, ka.rcTold := false
      ka.wt := BitVec.ofNat 48 (t.ka.wt.toNat - Config.draw t.draws % 17)
      ka.notStarted := decide (0 < t.ka.startIn), ka.startIn := 0 } else t) := by
  have hrest : ∀ u : State, u.pw = t.pw → (if inRun u then tellOnRun u else u) = u := fun u hu =>
    if_neg (by rw [inRun_not (by rw [hu, hm]; decide)]; decide)
  rw [exec, execLfxoFailure, h]
  dsimp only
  split
  · exact congrArg Host.Outcome.next (hrest { t with
      draws := t.draws + 1, ka.rc := true, ka.rcTold := false
      ka.wt := BitVec.ofNat 48 (t.ka.wt.toNat - Config.draw t.draws % 17)
      ka.notStarted := decide (0 < t.ka.startIn), ka.startIn := 0 } rfl)
  · rfl

theorem exec_thermalUpdate (h : elapse dt s = t) (hm : t.pw.mode = .run) (avg8 now8 : Int) : exec (.thermalUpdate dt avg8 now8) s =
    .next (thermalFreeze (thermalFlag { t with pw.tAvg := avg8, pw.tNow := now8 })) := by
  subst h
  rw [exec, execThermalUpdate, inRun_run hm, if_pos rfl]
  rfl

/-- A flag `v` that rises where `up` holds and falls where `down` holds. -/
theorem hysteresis {α : Type} {X : Bool → α} {t : α} {v : Bool} (h : X v = t) {up down stays : Prop} [Decidable up] [Decidable down]
    [Decidable stays] (hs : stays ↔ ¬ down) : (if !v && decide up then X true else if v && decide down then X false else t) =
      X (if v then decide stays else decide up) := by
  cases v with
  | false =>
    by_cases hu : up
    · simp only [hu, decide_true, Bool.not_false, Bool.and_self, if_true, Bool.false_eq_true, if_false]
    · simp only [hu, decide_false, Bool.and_false, Bool.false_and, Bool.false_eq_true, if_false, h]
  | true =>
    by_cases hd : down
    · simp only [hs, hd, not_true, decide_true, decide_false, Bool.not_true, Bool.false_and, Bool.and_self, Bool.false_eq_true,
        if_true, if_false]
    · simp only [hs, hd, not_false_eq_true, decide_true, decide_false, Bool.not_true, Bool.false_and, Bool.and_false,
        Bool.false_eq_true, if_true, if_false, h]

theorem thermalFlag_silent (h : t.cfg.notify.addr = 0) : thermalFlag t = { t with
    pw.thermal := if t.pw.thermal then decide (960 ≤ t.pw.tAvg) else decide (1000 ≤ t.pw.tAvg) } := by
  have hraise : ∀ (v : Bool) (c : Byte), raisePower c { t with pw.thermal := v } = { t with pw.thermal := v } :=
    fun v c => raise_none (t := { t with pw.thermal := v }) h
  unfold thermalFlag
  rw [hraise, hraise]
  exact hysteresis (X := fun v => { t with pw.thermal := v }) (v := t.pw.thermal) (up := 1000 ≤ t.pw.tAvg) (down := t.pw.tAvg < 960)
    (stays := 960 ≤ t.pw.tAvg) rfl Int.not_lt.symm

theorem thermalFreeze_silent (h : t.cfg.notify.addr = 0) : thermalFreeze t = { t with
    pw.frozen := if t.pw.frozen then decide (1040 ≤ t.pw.tAvg) else decide (1120 ≤ t.pw.tAvg) } := by
  have hraise : ∀ (v : Bool) (c : Byte), raisePower c { t with pw.frozen := v } = { t with pw.frozen := v } :=
    fun v c => raise_none (t := { t with pw.frozen := v }) h
  unfold thermalFreeze
  rw [hraise]
  exact hysteresis (X := fun v => { t with pw.frozen := v }) (v := t.pw.frozen) (up := 1120 ≤ t.pw.tAvg) (down := t.pw.tAvg < 1040)
    (stays := 1040 ≤ t.pw.tAvg) rfl Int.not_lt.symm

end

/-! ## The harvester (R100 to R102) -/

section

variable {dt n : Nat} {s t : State}

theorem exec_coldStart (h : elapse dt s = t) (hm : t.node.member.harvester = true) (hn : n < 1500) :
    exec (.coldStart dt n) s = .next { t with pw.vka := n, ka.hst := .coldStart } := by
  rw [exec, execColdStart, h]
  dsimp only
  rw [hm, decide_eq_true hn]
  rfl

theorem exec_coldStartEnd (h : elapse dt s = t) (hc : t.ka.hst = .coldStart) : exec (.coldStartEnd dt n) s =
    .next (if 1900 ≤ n then fed { t with pw.vka := n, ka.hst := if t.ka.harvest.enable = 1 then .boost else .stopped } else t) := by
  rw [exec, execColdStartEnd, h]
  dsimp only
  simp only [hc, true_and, reSource_eq]
  rfl

theorem exec_vocSample (h : elapse dt s = t) (hb : t.ka.hst = .boost) (hd : t.ka.vocAt + vocPeriod t.ka.harvest ≤ t.now) :
    exec (.vocSample dt) s = .next (fed { t with ka.hst := .sampling, ka.vocAt := t.now }) := by
  rw [exec, execVocSample, h]
  dsimp only
  rw [if_pos ⟨hb, hd⟩, reSource_eq]
  rfl

theorem exec_vocSampleEnd (h : elapse dt s = t) (hb : t.ka.hst = .sampling) (hd : t.ka.vocAt + 2000000000 ≤ t.now) :
    exec (.vocSampleEnd dt n) s = .next (fed { t with
      ka.hst := .boost, ka.voc := n, ka.target := n * (4 + t.ka.harvest.k.toNat) / 10 }) := by
  rw [exec, execVocSampleEnd, h]
  dsimp only
  rw [if_pos ⟨hb, show t.ka.vocAt + 2 * Config.msPs ≤ t.now from hd⟩, reSource_eq]
  rfl

end

/-- Settles O56. -/
theorem railsClocksAndHarvester : Obligations.RailsClocksAndHarvester := by
  unfold Obligations.RailsClocksAndHarvester
  intro dt n s
  generalize h : elapse dt s = t
  intro t'
  subst t'
  refine ⟨fun hm hv hn => ?_, fun hd hn => ?_, fun hm hv hn => ?_, fun hd hl hh => ?_, fun hm hr => ⟨fun hf => ?_, fun h0 hf => ?_⟩,
    fun avg8 now8 hm ha => ?_, fun hm hn => exec_coldStart h hm hn, fun hc hn => ?_, fun hc hn => ?_, fun hb hd => ?_,
    fun hb hd => exec_vocSampleEnd h hb hd⟩
  · obtain ⟨x, fl, hs⟩ := stopPorts_frame { t with pw.vio := n, pw.vioDown := true }
    refine ⟨{ stopPorts { t with pw.vio := n, pw.vioDown := true } with pw.vioLow := true, pw.lampen := false, pw.lampMet := false },
      ?_, ?_, ?_, fun p => ?_⟩
    · rw [exec_vioLow h (setVio_low hn), inRun_run (t := { t with pw.vio := n, pw.vioDown := true }) hm, hv]
      rfl
    · rw [hs]
    · rw [hs]
    · have hp := stopPorts_port { t with pw.vio := n, pw.vioDown := true } p
      split
      · rename_i he
        rw [if_pos he] at hp
        exact ⟨congrArg PortState.stopped hp, congrArg PortState.cur hp⟩
      · rename_i he
        rw [if_neg he] at hp
        exact hp
  · rw [exec_vioLow h (setVio_up hd hn), if_neg]
    dsimp only
    rw [hd, Bool.and_false]
    exact Bool.false_ne_true
  · obtain ⟨v, hw⟩ : ∃ v, setVio n t = v := ⟨_, rfl⟩
    have hg : v = { t with pw.vio := n, pw.vioDown := false } := hw.symm.trans (setVio_good hn)
    have hc : (inRun v && v.pw.vioLow && !v.pw.vioDown) = true := by
      rw [inRun_run (by rw [hg]; exact hm), hg, hv]
      rfl
    obtain ⟨u, hs, hpw, hrd, hx⟩ := vioBack_frame { v with pw.vioLow := false }
    refine ⟨u, by rw [exec_vioGood h hw, if_pos hc, hs], hpw.trans ?_, hrd.trans ?_, hx⟩
    · rw [hg]
    · rw [hg]
  · rw [exec_vioGood h (setVio_between hl hh), if_neg]
    dsimp only
    rw [hd, Bool.not_true, Bool.and_false]
    exact Bool.false_ne_true
  · refine ⟨Config.draw t.draws % 17, Nat.le_of_lt_succ (Nat.mod_lt _ (by decide)), ?_⟩
    rw [exec_lfxoFailure h hm, if_pos ((lfxoFailed_iff hm hr).2 hf)]
  · rw [exec_lfxoFailure h hm, if_neg (fun k => ?_)]
    have := (lfxoFailed_iff hm hr).1 k
    omega
  · rw [exec_thermalUpdate h hm, thermalFlag_silent (t := { t with pw.tAvg := avg8, pw.tNow := now8 }) ha,
      thermalFreeze_silent (by exact ha)]
  · rw [exec_coldStartEnd h hc, if_pos hn]
  · rw [exec_coldStartEnd h hc, if_neg (Nat.not_le.mpr hn)]
  · exact exec_vocSample h hb hd

end Sys2Proof.Machine
end

section
/-!
PROOFS. The usage counters and their saves (12, R112, R338, R340).
-/
namespace Sys2Proof.Machine

open Sys2Proof.Claims

-- Proofs in parallel hold one thread each, and a text this long would have more of them than the check has room for.
set_option Elab.async false

/-! ## Power-on time and on-time (R338) -/

section

variable {dt : Nat} {s t : State}

theorem exec_powerOnTimeTick (h : elapse dt s = t) (hm : t.pw.mode = .run ∨ t.pw.mode = .rest ∨ t.pw.mode = .shelf)
    (hv : 0 < t.pw.vin) : exec (.powerOnTimeTick dt) s = .next { t with cnt.pon := bump t.cnt.pon } := by
  have hc : counts t = true := by
    simp only [counts, Bool.and_eq_true, Bool.or_eq_true, beq_iff_eq, decide_eq_true_eq, or_assoc]
    exact ⟨hm, hv⟩
  rw [exec, execPowerOnTimeTick, h, hc, if_pos rfl]
  rfl

theorem exec_onTimeTick (h : elapse dt s = t) (hm : t.pw.mode = .run) (hw : t.ka.wt.toNat % 4096 = 0) :
    exec (.onTimeTick dt) s = .next (eachPort onTimePort t) := by
  rw [exec, execOnTimeTick, h, inRun_run hm, decide_eq_true (show wtN t % 4096 = 0 from hw)]
  rfl

end

/-- A second of a lit cell: a unit for each fourth one (R338). -/
theorem addOn_frame (g : Nat) (t : State) : ∃ R O, addOn g t = { t with cnt.resid := R, cnt.onTime := O }
    ∧ tget zeroNat R g = (if tget zeroNat t.cnt.resid g < 3 then tget zeroNat t.cnt.resid g + 1 else 0)
    ∧ tget zeroNat O g = (if tget zeroNat t.cnt.resid g < 3 then tget zeroNat t.cnt.onTime g
        else bump (tget zeroNat t.cnt.onTime g))
    ∧ ∀ k ≠ g, tget zeroNat O k = tget zeroNat t.cnt.onTime k := by
  unfold addOn
  dsimp only
  split
  · have h3 : tget zeroNat t.cnt.resid g < 3 := by omega
    refine ⟨_, t.cnt.onTime, rfl, ?_, ?_, fun _ _ => rfl⟩
    · rw [tget_tset_same, if_pos h3]
    · rw [if_pos h3]
  · have h3 : ¬ tget zeroNat t.cnt.resid g < 3 := by omega
    refine ⟨_, _, rfl, ?_, ?_, fun k hk => tget_tset_other _ hk⟩
    · rw [tget_tset_same, if_neg h3]
    · rw [tget_tset_same, if_neg h3]

theorem onTimePort_off {p : Port} {t : State} (h : (t.ports.get p).state = .off) : onTimePort p t = t := by
  rw [onTimePort, h]
  exact if_neg Bool.false_ne_true

theorem lit_iff {w : Nat} {l : List Nat} : lit w l = true ↔ ∃ v ∈ l, 655 < widen w v := by
  simp only [lit, List.any_eq_true, decide_eq_true_eq, gt_iff_lt]

/-- The one cell of port 0, lit. -/
theorem onTimePort_lit {t : State} (hs : (t.ports.get 0).state = .ok) (hn : (t.ports.get 0).cfg.n = 1)
    (hl : ∃ v ∈ (t.ports.get 0).rendered.getD 0 [], 655 < widen (fmtWidth (t.ports.get 0).renderedFmt.toNat) v)
    (hu : unreach (mapByte t 0) = false) : onTimePort 0 t = addOn 0 t := by
  have hc : cellIndex 0 0 = 0 := rfl
  have hrun : PState.running .ok = true := rfl
  rw [onTimePort, hs, hn]
  dsimp only
  rw [if_pos hrun, List.range_one, List.foldl_cons, List.foldl_nil, hc, lit_iff.2 hl, hu]
  rfl

/-- With every other port off only port 0 counts. -/
theorem eachPort_onTime_first {t : State} (hoff : ∀ p : Port, p ≠ 0 → (t.ports.get p).state = .off)
    (hports : (onTimePort 0 t).ports = t.ports) : eachPort onTimePort t = onTimePort 0 t := by
  have hrest : ∀ p : Port, p ≠ 0 → onTimePort p (onTimePort 0 t) = onTimePort 0 t := fun p hp =>
    onTimePort_off (by rw [hports]; exact hoff p hp)
  have h1 : onTimePort 1 (onTimePort 0 t) = onTimePort 0 t := hrest 1 (by decide)
  have h2 : onTimePort 2 (onTimePort 0 t) = onTimePort 0 t := hrest 2 (by decide)
  have h3 : onTimePort 3 (onTimePort 0 t) = onTimePort 0 t := hrest 3 (by decide)
  rw [eachPort, allPorts]
  simp only [List.foldl_cons, List.foldl_nil, h1, h2, h3]

/-! ## The periodic save and the erase of its bank (R112, R340) -/

section

variable {dt : Nat} {s t : State}

theorem exec_periodicSave (h : elapse dt s = t) (hm : t.pw.mode = .run) : exec (.periodicSave dt) s =
    .next (if saveDue t then addJob (periodicJob (readyBank t)) (readyBank t) else t) := by
  rw [exec, execPeriodicSave, h]
  dsimp only
  rw [inRun_run hm, Bool.true_and]
  rfl

theorem saveDue_iff (hp : t.cfg.period ≠ 0) (hj : t.nv.jobs = []) :
    saveDue t = true ↔ t.cnt.ponSaved + t.cfg.period.toNat * 900 ≤ t.cnt.pon := by
  rw [saveDue, hj, bne_iff_ne.2 hp]
  simp only [List.all_nil, Bool.true_and, Bool.and_true, decide_eq_true_eq]

theorem saveBegun_idle (hj : t.nv.jobs = []) (hr : t.nv.running = none) : saveBegun t = false := by
  rw [saveBegun, hj, hr]
  rfl

/-- With no job and no operation the bank is tended where it is ready. -/
theorem readyBank_idle (hj : t.nv.jobs = []) (hr : t.nv.running = none) :
    readyBank t = if bankReady t (altBank t) then t else addJob (bankEraseJob (altBank t)) t := by
  have ht : bankTended t = bankReady t (altBank t) := by
    rw [bankTended, saveBegun_idle hj hr, hj, List.any_nil, Bool.or_false, Bool.or_false]
  rw [readyBank, ht]

theorem periodicJob_readyBank (t : State) : periodicJob (readyBank t) = periodicJob t := by
  rw [periodicJob, altBank_readyBank]
  rfl

theorem exec_counterBankErase (h : elapse dt s = t) (hm : t.pw.mode = .run) (hj : t.nv.jobs = []) (hr : t.nv.running = none)
    {at_ : Nat} (ha : t.nv.bankDue = some at_) :
    exec (.counterBankErase dt) s = .next (readyBank { t with nv.bankDue := none }) := by
  rw [exec, execCounterBankErase, h]
  dsimp only
  rw [inRun_run hm, saveBegun_idle hj hr, ha]
  rfl

theorem bankEraseJob_length (b : Bool) : (bankEraseJob b).ops.length = 12 := by
  cases b <;> rfl

end

/-- Settles O57. -/
theorem countersCount : Obligations.CountersCount := by
  unfold Obligations.CountersCount
  intro dt s
  generalize h : elapse dt s = t
  intro t' save
  subst t'
  refine ⟨fun hm hv => exec_powerOnTimeTick h hm hv, fun hm hw hoff hs hn hl hu => ?_, fun hm hp hj hr => ⟨fun hd => ?_,
    fun hd => ⟨fun hb => ?_, fun hb => ?_⟩⟩, fun at_ hm ha hj hr hb => ?_⟩
  · have hlit := onTimePort_lit hs hn hl hu
    obtain ⟨R, O, ha, hR, hO, hrest⟩ := addOn_frame 0 t
    have hports : (onTimePort 0 t).ports = t.ports := by rw [hlit, ha]
    exact ⟨R, O, by rw [exec_onTimeTick h hm hw, eachPort_onTime_first hoff hports, hlit, ha], hR, hO, hrest⟩
  · rw [exec_periodicSave h hm, if_neg (fun k => ?_)]
    have := (saveDue_iff hp hj).1 k
    omega
  · rw [exec_periodicSave h hm, if_pos ((saveDue_iff hp hj).2 hd), periodicJob_readyBank, readyBank_idle hj hr, if_pos hb]
    rfl
  · refine ⟨bankEraseJob (altBank t), rfl, rfl, bankEraseJob_length _, ?_⟩
    rw [exec_periodicSave h hm, if_pos ((saveDue_iff hp hj).2 hd), periodicJob_readyBank, readyBank_idle hj hr, if_neg (by rw [hb]; decide)]
    rfl
  · refine ⟨bankEraseJob (altBank t), rfl, rfl, bankEraseJob_length _, ?_⟩
    rw [exec_counterBankErase h hm hj hr ha, readyBank_idle (t := { t with nv.bankDue := none }) hj hr]
    exact congrArg Host.Outcome.next (if_neg (fun k => absurd (hb.symm.trans k) (by decide)))

end Sys2Proof.Machine
end

section
/-!
PROOFS. The operations of the store (01, 12, 15, R23, R24, R313, R318, R319, R333, R400).
-/
namespace Sys2Proof.Machine

open Sys2Proof.Claims

-- Proofs in parallel hold one thread each, and a text this long would have more of them than the check has room for.
set_option Elab.async false

/-! ## The start of an operation (R318, R319) -/

section

variable {dt : Nat} {s t : State} {j : Job} {o : NvOp} {rest : List NvOp}

theorem exec_nvOperationStart (h : elapse dt s = t) :
    exec (.nvOperationStart dt) s = .next (if opMayStart t then startOp t else t) := by
  subst h
  rfl

theorem opMayStart_iff (hm : t.pw.mode = .run) (hr : t.nv.running = none) :
    opMayStart t = true ↔ ∀ e, t.nv.lastEnd = some e → e + 1000000000 ≤ t.now := by
  rw [opMayStart, inRun_run hm, npBlocked_none hr]
  cases he : t.nv.lastEnd with
  | none => simp
  | some e =>
    simp only [Option.some.injEq, forall_eq', Bool.not_false, Bool.true_and, decide_eq_true_eq]
    rfl

/-- A program or an erase needs no journal slot and no bank. -/
theorem startable_plain (ho : j.ops = o :: rest) (hk : (∃ a d, o = .page a d) ∨ ∃ sec, o = .erase sec) (s : State) :
    startable s j = true ∧ prepareJob s j = j ∧ coverCurves j s = s ∧ j.saveAhead = false := by
  obtain ⟨a, d, rfl⟩ | ⟨sec, rfl⟩ := hk
  · rw [startable, prepareJob, coverCurves, Job.saveAhead, ho]
    cases j.kind <;> exact ⟨rfl, rfl, rfl, rfl⟩
  · rw [startable, prepareJob, coverCurves, Job.saveAhead, ho]
    cases j.kind <;> exact ⟨rfl, rfl, rfl, rfl⟩

theorem nextJob_only (hj : t.nv.jobs = [j]) (hs : startable t j = true) : nextJob t = some j := by
  rw [nextJob, hj]
  cases hu : j.user <;> simp [hu, hs]

theorem journalCheck_room (h : 8 ≤ jFree t.nv.mem (liveJ t.nv.mem)) : journalCheck t = t :=
  if_neg fun k => absurd k.1 (Nat.not_lt.mpr h)

theorem startOp_plain (hj : t.nv.jobs = [j]) (ho : j.ops = o :: rest) (hk : (∃ a d, o = .page a d) ∨ ∃ sec, o = .erase sec)
    (hf : 8 ≤ jFree t.nv.mem (liveJ t.nv.mem)) :
    startOp t = { t with nv.running := some (o, j.user), nv.blockFrom := t.ka.wt } := by
  obtain ⟨hs, hp, hc, ha⟩ := startable_plain ho hk t
  have hready : readySaves t = t := by
    rw [readySaves, hj, List.any_cons, List.any_nil, ha, Bool.or_false, if_neg Bool.false_ne_true]
  have hrep : replaceJob j j [j] = [j] := if_pos rfl
  rw [startOp, hready, journalCheck_room hf, nextJob_only hj hs]
  dsimp only
  rw [hp, ho]
  dsimp only
  rw [hc, hj, hrep, ← hj]

end

/-! ## The end of a block (R23, R24, R222) -/

/-- The store and the clauses that wait for their time are those of `o`. -/
def BlockKept (o s : State) : Prop := s.nv = o.nv ∧ s.cl.timed = o.cl.timed ∧ s.cl.blocked = o.cl.blocked

theorem BlockKept.refl (s : State) : BlockKept s s := ⟨rfl, rfl, rfl⟩

theorem BlockKept.trans {a b c : State} (h : BlockKept a b) (k : BlockKept b c) : BlockKept a c :=
  ⟨k.1.trans h.1, k.2.1.trans h.2.1, k.2.2.trans h.2.2⟩

theorem foldl_blockKept {α : Type} {f : State → α → State} (hf : ∀ s a, BlockKept s (f s a)) (l : List α) (s : State) :
    BlockKept s (l.foldl f s) := by
  induction l generalizing s with
  | nil => exact .refl s
  | cons a l ih => exact (hf s a).trans (ih (f s a))

theorem replyGone_blockKept (c : Option Nat) (s : State) : BlockKept s (replyGone c s) := by
  obtain ⟨rr, sr, h⟩ := replyGone_frame c s
  rw [h]
  exact .refl s

theorem putOut_blockKept (f : OutFrame) (s : State) : BlockKept s (putOut f s) := by
  obtain ⟨x, h⟩ := putOut_frame f s
  rw [h]
  exact .refl s

theorem queueReply_blockKept (f : OutFrame) (s : State) : BlockKept s (queueReply f s) := by
  obtain ⟨x, h⟩ := queueReply_frame f s
  rw [h]
  exact .refl s

theorem queueLocal_blockKept (f : OutFrame) (s : State) : BlockKept s (queueLocal f s) := by
  obtain ⟨x, h⟩ := queueLocal_frame f s
  rw [h]
  exact .refl s

theorem cacheReply_blockKept (q : Req) (f : OutFrame) (s : State) : BlockKept s (cacheReply q f s) := by
  unfold cacheReply
  split
  · exact .refl s
  · split <;> exact .refl s

theorem sendReply_blockKept (q : Req) (body : List Byte) (src : W16) (id : Nat) (s : State) :
    BlockKept s (sendReply q body src id s) := by
  have hseq : BlockKept s (takeSeq s).2 := .refl s
  unfold sendReply
  dsimp only
  split
  · exact (hseq.trans (cacheReply_blockKept _ _ _)).trans (queueReply_blockKept _ _)
  · exact (hseq.trans (cacheReply_blockKept _ _ _)).trans (queueLocal_blockKept _ _)

theorem finishClause_blockKept (q : Req) (es : List (Byte × Byte × List Byte)) (id : Nat) (s : State) :
    BlockKept s (finishClause q es id s) := by
  unfold finishClause replyOr
  dsimp only
  split
  · split
    · exact .refl s
    · exact replyGone_blockKept _ s
  · split
    · exact replyGone_blockKept _ s
    · exact sendReply_blockKept _ _ _ _ s

theorem resolveNow_blockKept (tok : Tok) (st : Byte) (bytes : List Byte) (s : State) :
    BlockKept s (resolveNow tok st bytes s) := by
  unfold resolveNow
  split
  · exact .refl s
  · dsimp only
    split
    · have h0 : ∀ l, BlockKept s { s with cl.waiting := l } := fun _ => .refl s
      exact (h0 _).trans (finishClause_blockKept _ _ _ _)
    · exact .refl s

theorem releaseHeld_blockKept (s : State) : BlockKept s (releaseHeld s) :=
  BlockKept.trans (b := { s with cl.held := [] }) (.refl s) (foldl_blockKept (fun s _ => resolveNow_blockKept _ _ _ s) _ _)

theorem enterEvent_blockKept (op : Byte) (stamp : W48) (fields : List Byte) (s : State) :
    BlockKept s (enterEvent op stamp fields s) := by
  have hseq : BlockKept s (takeSeq s).2 := .refl s
  unfold enterEvent
  dsimp only
  split
  · exact .refl s
  · split
    · exact hseq
    · split
      · exact .refl s
      · exact hseq.trans (putOut_blockKept _ _)

theorem enterFail_blockKept (s : State) : BlockKept s (enterFail s) := by
  unfold enterFail
  split
  · exact enterEvent_blockKept _ _ _ s
  · exact .refl s

theorem buildMarks_blockKept (n : Nat) (s : State) : BlockKept s (buildMarks n s) := by
  induction n generalizing s with
  | zero => exact .refl s
  | succ n ih =>
    unfold buildMarks
    split
    · exact .refl s
    · rename_i m l _
      have h0 : BlockKept s { s with ev.marks := l } := .refl s
      split
      · exact .refl s
      · split
        · exact (h0.trans (enterFail_blockKept _)).trans (ih _)
        · exact (h0.trans (enterEvent_blockKept _ _ _ _)).trans (ih _)

theorem sendIdle_blockKept (s : State) : BlockKept s (sendIdle s) := by
  obtain ⟨x, h⟩ := sendIdle_frame s
  rw [h]
  exact .refl s

theorem settleQueues_blockKept (s : State) : BlockKept s (settleQueues s) := by
  have hq : BlockKept s (fillQueue s) := BlockKept.trans (b := { s with
    span.outQ := s.span.outQ ++ s.span.overflow.take (Config.queuePlaces - s.span.outQ.length)
    span.overflow := s.span.overflow.drop (Config.queuePlaces - s.span.outQ.length) }) (.refl s) (sendIdle_blockKept _)
  have hl : ∀ u, BlockKept u (fillLocal u) := fun u => by
    unfold fillLocal
    split <;> exact .refl u
  unfold settleQueues
  split
  · exact .refl s
  · exact (hq.trans (hl _)).trans (buildMarks_blockKept 16 _)

theorem heldEvent_blockKept (e : PEvent) (s : State) : BlockKept s (heldEvent e s) := by
  unfold heldEvent
  split
  · exact .refl s
  · split
    · exact enterEvent_blockKept _ _ _ s
    · exact .refl s

theorem enterDue_blockKept (n : Nat) (s : State) : BlockKept s (enterDue n s) := by
  induction n generalizing s with
  | zero => exact .refl s
  | succ n ih =>
    unfold enterDue
    split
    · rename_i e l _
      have h0 : BlockKept s { s with ev.held := l } := .refl s
      exact (h0.trans (heldEvent_blockKept e _)).trans (ih _)
    · exact .refl s

theorem makeFail_blockKept (s : State) : BlockKept s (makeFail s) := by
  have h0 : BlockKept s { s with fail.due := none } := .refl s
  unfold makeFail
  dsimp only
  split
  · exact h0.trans (enterFail_blockKept _)
  · exact h0

theorem releaseEvents_blockKept (s : State) : BlockKept s (releaseEvents s) := by
  have h : BlockKept s (enterDue (settleQueues s).ev.held.length (settleQueues s)) :=
    (settleQueues_blockKept s).trans (enterDue_blockKept _ _)
  unfold releaseEvents
  split
  · dsimp only
    split
    · exact h.trans (makeFail_blockKept _)
    · exact h
  · exact .refl s

theorem releaseBlocked_none {s : State} (h : s.cl.blocked = []) : releaseBlocked s = s := by
  rw [releaseBlocked, h, List.foldl_nil, ← h]

theorem redoFail_blockKept (s : State) : BlockKept s (redoFail s) := by
  unfold redoFail replaceFail
  dsimp only
  split
  · split
    · exact .refl s
    · split <;> exact .refl s
  · exact .refl s

theorem svcActs_blockKept (r b : Byte) (s : State) : BlockKept s (svcActs r b s) := by
  have hd : BlockKept s (svcData b s) := by
    unfold svcData
    split <;> exact .refl s
  have hs : BlockKept s (svcSubmit s) := by
    unfold svcSubmit
    split
    · exact .refl s
    · split <;> exact .refl s
  unfold svcActs
  split
  · exact hd
  · split
    · split
      · exact hs
      · split <;> exact .refl s
    · split <;> exact .refl s

theorem svcTakeLate_blockKept (s : State) (c : SvcChar) : BlockKept s (svcTakeLate s c) := by
  unfold svcTakeLate
  split
  · exact .refl s
  · rename_i hn
    unfold svcTake
    split
    · exact .refl s
    · exact .refl s
    · exact .refl s
    · exact svcActs_blockKept _ _ s
    · rename_i b r hsel
      exact absurd hsel (hn b r rfl)

theorem svcReplay_blockKept (s : State) : BlockKept s (svcReplay s) :=
  BlockKept.trans (b := { s with svc.deferred := [] }) (.refl s) (foldl_blockKept svcTakeLate_blockKept _ _)

/-- With no verb that came during the block, what waited for its end leaves the store and the timed clauses alone. -/
theorem afterBlock_blockKept {s : State} (h : s.cl.blocked = []) : BlockKept (holdTimed s) (afterBlock s) := by
  have he : BlockKept (holdTimed s) (releaseEvents (releaseHeld (holdTimed s))) :=
    (releaseHeld_blockKept _).trans (releaseEvents_blockKept _)
  have hb : (releaseEvents (releaseHeld (holdTimed s))).cl.blocked = [] := he.2.2.trans h
  unfold afterBlock
  rw [releaseBlocked_none hb]
  exact (he.trans (redoFail_blockKept _)).trans (svcReplay_blockKept _)

/-! ## The end of an operation (R313, R316, R318) -/

section

variable {dt : Nat} {s t : State} {j : Job}

theorem exec_nvOperationComplete (h : elapse dt s = t) {o : NvOp} {user ok : Bool} (hr : t.nv.running = some (o, user)) :
    exec (.nvOperationComplete dt ok) s = .next (afterBlock (journalCheck (endEmpty (endOp o user ok t)))) := by
  rw [exec, execNvOperationComplete, h]
  simp only [hr]
  rfl

theorem exec_nvOperationComplete_none (h : elapse dt s = t) {ok : Bool} (hr : t.nv.running = none) :
    exec (.nvOperationComplete dt ok) s = .next t := by
  rw [exec, execNvOperationComplete, h]
  simp only [hr]
  rfl

theorem runningJob_only {o : NvOp} {rest : List NvOp} (hj : t.nv.jobs = [j]) (ho : j.ops = o :: rest) :
    runningJob o j.user t = some j := by
  rw [runningJob, hj, List.find?_cons, ho]
  simp

/-- The memory, the block and the clauses are those of `o`; no operation runs. -/
def StoreKept (o s : State) : Prop := s.nv.mem = o.nv.mem ∧ s.nv.running = o.nv.running ∧ s.nv.blockFrom = o.nv.blockFrom
  ∧ s.cl.timed = o.cl.timed ∧ s.cl.blocked = o.cl.blocked ∧ s.ka.wt = o.ka.wt

theorem StoreKept.refl (s : State) : StoreKept s s := ⟨rfl, rfl, rfl, rfl, rfl, rfl⟩

theorem StoreKept.trans {a b c : State} (h : StoreKept a b) (k : StoreKept b c) : StoreKept a c := by
  obtain ⟨h1, h2, h3, h4, h5, h6⟩ := h
  obtain ⟨k1, k2, k3, k4, k5, k6⟩ := k
  exact ⟨k1.trans h1, k2.trans h2, k3.trans h3, k4.trans h4, k5.trans h5, k6.trans h6⟩

theorem resolve_storeKept (tok : Tok) (st : Byte) (bytes : List Byte) (s : State) : StoreKept s (resolve tok st bytes s) := by
  unfold resolve
  split
  · exact .refl s
  · obtain ⟨hn, ht, hb⟩ := resolveNow_blockKept tok st bytes s
    obtain ⟨_, _, _, _, _, ha⟩ := resolveNow_answered tok st bytes s
    exact ⟨by rw [hn], by rw [hn], by rw [hn], ht, hb, by rw [ha]⟩

theorem resolveOpt_storeKept (tok : Option Tok) (st : Byte) (bytes : List Byte) (s : State) :
    StoreKept s (resolveOpt tok st bytes s) := by
  unfold resolveOpt
  split
  · exact resolve_storeKept _ st bytes s
  · exact .refl s

theorem commitSec_storeKept (ch : SecChange) (s : State) : StoreKept s (commitSec ch s) := by
  unfold commitSec
  dsimp only
  split <;> exact .refl s

theorem touchSlot_storeKept (a : Nat) (s : State) : StoreKept s (touchSlot a s) := by
  unfold touchSlot
  dsimp only
  split
  · exact .refl s
  · refine StoreKept.trans ?_ (commitSec_storeKept _ _)
    split
    · split <;> exact .refl s
    · exact .refl s

theorem secFailed_storeKept (ch : SecChange) (s : State) : StoreKept s (secFailed ch s) := by
  unfold secFailed
  split
  · split <;> exact .refl s
  · split <;> exact .refl s
  · exact .refl s

theorem secCommitted_storeKept (ch : SecChange) (s : State) : StoreKept s (secCommitted ch s) := by
  unfold secCommitted
  dsimp only
  split <;> exact .refl s

theorem addJob_storeKept (j : Job) (s : State) : StoreKept s (addJob j s) := .refl s

theorem ite_storeKept {c : Prop} [Decidable c] {o a b : State} (ha : StoreKept o a) (hb : StoreKept o b) :
    StoreKept o (if c then a else b) := by
  split
  · exact ha
  · exact hb

/-- What the end of a job does leaves the memory alone. -/
theorem finishJob_storeKept (j : Job) (s : State) : StoreKept s (finishJob j s) := by
  unfold finishJob
  dsimp only
  split
  · exact (touchSlot_storeKept _ s).trans (resolveOpt_storeKept _ _ _ _)
  · exact (touchSlot_storeKept _ s).trans (resolveOpt_storeKept _ _ _ _)
  · exact resolveOpt_storeKept _ _ _ s
  · exact resolveOpt_storeKept _ _ _ s
  · exact (ite_storeKept (a := { s with nv.newDeck := none }) (.refl s) (.refl s)).trans (resolveOpt_storeKept _ _ _ _)
  · exact StoreKept.trans (b := { s with nv.bankDue := some (s.now + Config.secPs) }) (.refl s) (resolveOpt_storeKept _ _ _ _)
  · exact (ite_storeKept (a := { s with fw.session := none }) (.refl s) (.refl s)).trans (resolveOpt_storeKept _ _ _ _)
  · exact (ite_storeKept (a := { s with fw.session := none }) (.refl s) (.refl s)).trans (resolveOpt_storeKept _ _ _ _)
  · exact .refl s
  · exact .refl s
  · exact .refl s
  · exact ite_storeKept (.refl s) (.refl s)
  · exact .refl s
  · exact .refl s
  · rename_i ch _
    have h := (ite_storeKept (c := j.failed = true) (secFailed_storeKept ch s) (secCommitted_storeKept ch s))
    generalize (if j.failed = true then secFailed ch s else secCommitted ch s) = x at *
    have hx := h.trans (resolveOpt_storeKept j.tok (secResult ch (!j.failed) x).1 (secResult ch (!j.failed) x).2 x)
    generalize resolveOpt j.tok (secResult ch (!j.failed) x).1 (secResult ch (!j.failed) x).2 x = y at *
    split
    · exact ite_storeKept hx (hx.trans (addJob_storeKept _ y))
    · exact hx
    · exact hx
  · exact addJob_storeKept _ s

theorem foldl_storeKept {α : Type} {f : State → α → State} (hf : ∀ s a, StoreKept s (f s a)) (l : List α) (s : State) :
    StoreKept s (l.foldl f s) := by
  induction l generalizing s with
  | nil => exact .refl s
  | cons a l ih => exact (hf s a).trans (ih (f s a))

theorem endEmpty_storeKept (s : State) : StoreKept s (endEmpty s) :=
  StoreKept.trans (b := { s with nv.jobs := s.nv.jobs.filter fun j => !j.ops.isEmpty }) (.refl s)
    (foldl_storeKept (fun s j => finishJob_storeKept j s) _ _)

theorem journalCheck_frame (s : State) : ∃ l, journalCheck s = { s with nv.jobs := l ++ s.nv.jobs } := by
  unfold journalCheck
  dsimp only
  split
  · exact ⟨[_], rfl⟩
  · exact ⟨[], rfl⟩

theorem endEmpty_none (h : ∀ j ∈ t.nv.jobs, j.ops.isEmpty = false) : endEmpty t = t := by
  have hf : t.nv.jobs.filter (fun j => j.ops.isEmpty) = [] := List.filter_eq_nil_iff.2 fun j hj => by
    rw [h j hj]
    exact Bool.false_ne_true
  have hk : t.nv.jobs.filter (fun j => !j.ops.isEmpty) = t.nv.jobs := List.filter_eq_self.2 fun j hj => by
    rw [h j hj]
    rfl
  rw [endEmpty, hf, hk, List.foldl_nil]

/-- Timed clauses whose apply-at WT fell within the block that ends (R24). -/
def lateTimed (t : State) : List Queued := t.cl.timed.map fun w => { w with
  held := w.held || w.req.applyAt.any fun a => decide (t.nv.blockFrom.toNat < a.toNat) && decide (a.toNat ≤ t.ka.wt.toNat) }

theorem StoreKept.lateTimed {o s : State} (h : StoreKept o s) : lateTimed s = lateTimed o := by
  obtain ⟨-, -, hf, ht, -, hw⟩ := h
  rw [Machine.lateTimed, hf, ht, hw, Machine.lateTimed]

/-- After the operation's own end the store stays as it is. -/
theorem afterOp_keeps (hb : t.cl.blocked = []) : ∃ u, afterBlock (journalCheck (endEmpty t)) = u ∧ u.nv.mem = t.nv.mem
    ∧ u.nv.running = t.nv.running ∧ u.cl.timed = lateTimed t := by
  have he := endEmpty_storeKept t
  obtain ⟨l, hl⟩ := journalCheck_frame (endEmpty t)
  have hw : StoreKept t (journalCheck (endEmpty t)) := by
    rw [hl]
    exact he
  generalize journalCheck (endEmpty t) = w at *
  obtain ⟨hn, ht, -⟩ := afterBlock_blockKept (hw.2.2.2.2.1.trans hb)
  refine ⟨_, rfl, ?_, ?_, ht.trans hw.lateTimed⟩
  · rw [hn]
    exact hw.1
  · rw [hn]
    exact hw.2.1

/-- The same where no job has ended: the jobs stay, and a switch of the journal may join them. -/
theorem afterOp_jobs (hb : t.cl.blocked = []) (hj : ∀ j ∈ t.nv.jobs, j.ops.isEmpty = false) : ∃ u l,
    afterBlock (journalCheck (endEmpty t)) = u ∧ u.nv = { t.nv with jobs := l ++ t.nv.jobs } ∧ u.cl.timed = lateTimed t := by
  rw [endEmpty_none hj]
  obtain ⟨l, hl⟩ := journalCheck_frame t
  rw [hl]
  obtain ⟨hn, ht, -⟩ := afterBlock_blockKept (s := { t with nv.jobs := l ++ t.nv.jobs }) hb
  exact ⟨_, l, rfl, hn, ht⟩

theorem dropCopy_frame (sec : Nat) (s : State) : ∃ a b, dropCopy sec s = { s with nv.copyA := a, nv.copyB := b } := by
  unfold dropCopy
  split
  · exact ⟨_, _, rfl⟩
  · split <;> exact ⟨_, _, rfl⟩

/-- An erase that ends sets its sector to 0xFF; its job goes on to the ERASE-DONE. -/
theorem endOp_erase {sec : Nat} (hj : t.nv.jobs = [j]) (ho : j.ops = [.erase sec, .done sec]) : ∃ a b k,
    endOp (.erase sec) j.user true t = { t with
      nv.mem := eraseSector t.nv.mem sec, nv.copyA := a, nv.copyB := b, nv.jobs := [k], nv.running := none, nv.lastEnd := some t.now }
    ∧ k.ops = [.done sec] := by
  obtain ⟨a, b, hd⟩ := dropCopy_frame sec (nvEraseSec sec t)
  have he : opEffect j (.erase sec) true t = { nvEraseSec sec t with nv.copyA := a, nv.copyB := b } := by
    rw [← hd]
    rfl
  have hs : ∀ (k : Job) (s : State), deckSaveStep (.erase sec) k s = (k, s) := fun k s => by
    unfold deckSaveStep
    split
    · rename_i heq
      exact absurd heq (by simp)
    · rfl
  have hv : ∀ s, opVerified (.erase sec) true s = true := fun _ => rfl
  refine ⟨a, b, { j with ops := [.done sec], failed := j.failed || !true }, ?_, rfl⟩
  rw [endOp, runningJob_only hj ho]
  dsimp only
  rw [he, hv, if_pos rfl, hs]
  dsimp only [nvEraseSec]
  rw [hj, ho]
  exact congrArg (fun l => ({ t with
    nv.mem := eraseSector t.nv.mem sec, nv.copyA := a, nv.copyB := b, nv.jobs := l, nv.running := none
    nv.lastEnd := some t.now } : State)) (if_pos rfl)

/-- A program that ends has left its bytes; its job goes on, or has failed its read-back. -/
theorem endOp_page {a : Nat} {d : List Byte} {rest : List NvOp} (hj : t.nv.jobs = [j]) (ho : j.ops = .page a d :: rest) :
    ∃ l, endOp (.page a d) j.user true t = { t with
      nv.mem := programAt t.nv.mem a d, nv.jobs := l, nv.running := none, nv.lastEnd := some t.now } := by
  have he : opEffect j (.page a d) true t = nvProgram a d t := rfl
  have hs : ∀ (c : Bool) (k : Job) (s : State), (if c then deckSaveStep (.page a d) k s else (k, s)) = (k, s) := fun c k s => by
    split
    · unfold deckSaveStep
      split
      · rename_i heq
        exact absurd heq (by simp)
      · rfl
    · rfl
  rw [endOp, runningJob_only hj ho]
  dsimp only
  rw [he, hs]
  exact ⟨_, rfl⟩

theorem programAt_eq (m : Memory) (a i : Nat) (d : List Byte) : tget nvBlank (programAt m a d) i =
    if a ≤ i ∧ i < a + d.length then tget nvBlank m i &&& d.getD (i - a) 0 else tget nvBlank m i := by
  split
  · rename_i hi
    have := programAt_byte d m a (i - a) (by omega)
    rwa [show a + (i - a) = i by omega] at this
  · exact programAt_other d m a i (by omega)

/-! ## Curve sectors and deck loads (R333, R400) -/

theorem exec_curveSectorRewrite (h : elapse dt s = t) (hm : t.pw.mode = .run) {e : Nat × Nat} {rest : List (Nat × Nat)}
    (hd : t.nv.curveDirty = e :: rest) : exec (.curveSectorRewrite dt) s = .next (addJob
      { kind := .curves, user := false, op := 0, ops := sectorOps curvePages e.1 (curveImage t e.1), tok := none, failed := false }
      { t with nv.curveDirty := rest }) := by
  rw [exec, execCurveSectorRewrite, h]
  simp only [hd]
  rw [inRun_run hm, if_pos rfl]
  rfl

theorem loadRest_done (h : t.st.loads.find? Load.runs = none) (n : Nat) : loadRest n t = t := by
  have hl : loadSector t = t := by
    rw [loadSector, h]
  induction n with
  | zero => rfl
  | succ n ih => rw [loadRest, hl, ih]

theorem endLoads_done {l : Load} (hl : t.st.loads = [l]) (hf : l.failed = false) (hd : l.runs = false) :
    endLoads t = resolve l.tok 0 [BitVec.ofNat 8 l.done] { t with st.loads := [] } := by
  have hlist : t.st.loads.filter (fun l => !l.runs) = [l] := by
    rw [hl, List.filter_cons, hd]
    rfl
  have hnone : [l].filter (fun x => x.tok != l.tok) = [] := by simp
  rw [endLoads, hlist, List.foldl_cons, List.foldl_nil, endLoad]
  dsimp only
  rw [hf, if_neg Bool.false_ne_true, hl, hnone]
  rfl

theorem exec_deckLoadComplete (h : elapse dt s = t) (hm : t.pw.mode = .run) (hr : t.nv.running = none) :
    exec (.deckLoadComplete dt) s = .next (endLoads (if anyRunning t then t else loadRest (24 * t.st.loads.length) t)) := by
  rw [exec, execDeckLoadComplete, h, inRun_run hm, npBlocked_none hr]
  rfl

end

/-- Settles O58: the operation's own end sets the bytes, and what follows it leaves the memory alone (`afterOp_keeps`). -/
theorem storeOperationsRun : Obligations.StoreOperationsRun := by
  unfold Obligations.StoreOperationsRun
  intro dt s
  generalize h : elapse dt s = t
  intro t' late
  subst t'
  refine ⟨fun j o rest hm hr hj ho hk hf => ⟨fun he => ?_, fun e he hl => ?_⟩, fun j sec hj hb ho hr => ?_,
    fun j a d o rest hj hb ho hr => ?_, fun ok hr => exec_nvOperationComplete_none h hr, fun e rest hm hd => ?_,
    fun l hm hr hl hf hd => ?_⟩
  · rw [exec_nvOperationStart h, if_pos ((opMayStart_iff hm hr).2 he), startOp_plain hj ho hk hf]
  · rw [exec_nvOperationStart h, if_neg (fun k => ?_)]
    have := (opMayStart_iff hm hr).1 k e he
    omega
  · obtain ⟨a, b, k, hop, hk⟩ := endOp_erase hj ho
    rw [exec_nvOperationComplete h hr, hop]
    obtain ⟨u, l, hu, hn, ht⟩ := afterOp_jobs (t := { t with
      nv.mem := eraseSector t.nv.mem sec, nv.copyA := a, nv.copyB := b, nv.jobs := [k], nv.running := none, nv.lastEnd := some t.now })
      hb (fun x hx => by rw [List.mem_singleton.1 hx, hk]; rfl)
    refine ⟨u, congrArg _ hu, ?_, ?_, ⟨k, ?_, hk⟩, ht, fun i => ?_⟩
    · rw [hn]
    · rw [hn]
    · rw [hn]
      exact List.mem_append_right _ (List.mem_singleton.2 rfl)
    · rw [hn]
      exact eraseSector_byte _ _ _
  · obtain ⟨l, hop⟩ := endOp_page hj ho
    rw [exec_nvOperationComplete h hr, hop]
    obtain ⟨u, hu, hmem, hrun, ht⟩ := afterOp_keeps (t := { t with
      nv.mem := programAt t.nv.mem a d, nv.jobs := l, nv.running := none, nv.lastEnd := some t.now }) hb
    refine ⟨u, congrArg _ hu, hrun, ht, fun i => ?_⟩
    rw [hmem]
    exact programAt_eq _ _ _ _
  · exact ⟨_, rfl, rfl, rfl, exec_curveSectorRewrite h hm hd⟩
  · have hruns : l.runs = false := by
      rw [Load.runs, hd, decide_eq_false (Nat.lt_irrefl _), Bool.and_false]
    have hfind : t.st.loads.find? Load.runs = none := by
      rw [hl, List.find?_cons, hruns]
      rfl
    rw [exec_deckLoadComplete h hm hr, loadRest_done hfind, ite_self, endLoads_done hl hf hruns]

end Sys2Proof.Machine
end

section
/-!
PROOFS. Reports as they reach their queue (06, 07, 08, 13, 16, R152, R174, R220, R352 to R356, R441).
-/
namespace Sys2Proof.Machine

open Sys2Proof.Claims

-- Proofs in parallel hold one thread each, and a text this long would have more of them than the check has room for.
set_option Elab.async false

/-- The frame of an event (R441, Table 16-8). -/
def reportFrame (t : State) (op : Byte) (stamp : W48) (fields : List Byte) (dst src : W16) : OutFrame :=
  { dst := dst, src := src, seq := t.span.seq, rate := 0, op := op, attempts := 0, clause := none,
    body := [0x81] ++ leBytes 6 stamp.toNat ++ [op, BitVec.ofNat 8 fields.length] ++ fields }

section

variable {dt : Nat} {s t : State}

theorem exec_evtFail (h : elapse dt s = t) : exec (.evtFail dt) s = .next (if failDue t then makeFail t else t) := by
  subst h
  rfl

theorem exec_eventHoldoffExpiry (h : elapse dt s = t) (hm : t.pw.mode = .run) (hr : t.nv.running = none) {e : PEvent}
    {rest : List PEvent} (hh : t.ev.held = e :: rest) (hd : e.due ≤ t.now) :
    exec (.eventHoldoffExpiry dt) s = .next (heldEvent e { t with ev.held := rest }) := by
  rw [exec, execEventHoldoffExpiry, h, inRun_run hm, npBlocked_none hr, hh, takeDue, if_pos hd]
  rfl

/-! ## A place in the queue (R174) -/

theorem eventPlace_span (hn : t.cfg.notify.addr ≠ 0xFFFE) (ho : t.span.overflow = []) :
    eventPlace t = decide (t.span.outQ.length < 8) := by
  rw [eventPlace, if_neg (show ¬ t.cfg.notify.addr = localSrc from hn), ho]
  exact Bool.and_true _

theorem eventPlace_local (hn : t.cfg.notify.addr = 0xFFFE) (ho : t.svc.out = none) (hb : t.svc.backlog = []) : eventPlace t = true := by
  rw [eventPlace, if_pos (show t.cfg.notify.addr = localSrc from hn), ho, hb]
  rfl

/-- The first mark stands alone. -/
theorem markEvent_first (hm : t.ev.marks = []) (m : Mark) : markEvent m t = { t with ev.marks := [m] } := by
  rw [markEvent, hm]
  rfl

/-! ## An event enters its queue (R152, R220, R441) -/

variable {op : Byte} {stamp : W48} {fields : List Byte}

theorem enterEvent_local (hn : t.cfg.notify.addr = 0xFFFE) : enterEvent op stamp fields t = { t with
    span.seq := nextSeq t.span.seq, svc.cause := t.svc.cause ||| 0x02
    svc.out := some { bytes := frameBytes (reportFrame t op stamp fields 0xFFFE 0xFFFE), event := true, op := op, begun := false
                      clause := none } } := by
  rw [enterEvent, if_neg (show ¬ t.cfg.notify.addr = 0 by rw [hn]; decide), if_pos (show t.cfg.notify.addr = localSrc from hn)]
  rfl

theorem enterEvent_span (h0 : t.cfg.notify.addr ≠ 0) (hn : t.cfg.notify.addr ≠ 0xFFFE) (ha : t.cfg.addr ≠ 0) :
    enterEvent op stamp fields t =
      putOut (reportFrame t op stamp fields t.cfg.notify.addr t.cfg.addr) { t with span.seq := nextSeq t.span.seq } := by
  have hu : unaddressed t = false := beq_eq_false_iff_ne.2 ha
  rw [enterEvent, if_neg h0, if_neg (show ¬ t.cfg.notify.addr = localSrc from hn), hu, if_neg Bool.false_ne_true]
  rfl

/-- On a busy bus the frame waits for its turn. -/
theorem putOut_waits {f : OutFrame} (hi : t.span.idle = false) : putOut f t = { t with span.outQ := t.span.outQ ++ [f] } :=
  sendIdle_busy hi

/-- On an idle bus an event starts at once (R152). -/
theorem putOut_starts {f : OutFrame} (hi : t.span.idle = true) (hs : MayStart t) (hl : t.span.lates = []) (hr : t.span.roll = none)
    (hq : t.span.outQ = []) (ha : t.cfg.addr ≠ 0) (hf : f.src = t.cfg.addr) (h0 : f.attempts = 0) : putOut f t = { t with
      span.outQ := [{ f with attempts := 1 }], span.tx := some .queue, span.txAt := t.now, span.idle := false } := by
  rw [putOut_idle hi (mayTransmit_of_mayStart hs) hl hr hq, tried_ownSrc, attempt, if_neg ha, h0, ← hf]
  rfl

/-! ## EVT.FAIL (R352 to R355) -/

theorem failDue_true (hm : t.pw.mode = .run) (hr : t.nv.running = none) {due : Nat} (hd : t.fail.due = some due) (hdue : due ≤ t.now)
    (hmask : t.fail.mask ≠ 0) (hq : ∀ f ∈ t.span.outQ, f.op ≠ 0xF0) (ho : t.svc.out = none)
    (hi : ∀ e, t.fail.lastEnd = some e → e + 100000000000 * t.cfg.notify.i.toNat ≤ t.now) : failDue t = true := by
  have hqueued : failQueued t = false := by
    rw [failQueued, ho, List.any_eq_false.2 fun f hf => by rw [beq_iff_eq]; exact hq f hf]
    rfl
  rw [failDue, inRun_run hm, npBlocked_none hr, bne_iff_ne.2 hmask, hqueued, hd]
  cases he : t.fail.lastEnd with
  | none => simp [hdue]
  | some e =>
    have hp : e + 100 * Config.msPs * t.cfg.notify.i.toNat ≤ t.now := hi e he
    simp [hdue, hp]

theorem makeFail_placed (hn : t.cfg.notify.addr ≠ 0xFFFE) (ho : t.span.overflow = []) (hq : t.span.outQ.length < 8) :
    makeFail t = enterFail { t with fail.due := none } := by
  have hp := eventPlace_span (t := { t with fail.due := none }) hn ho
  rw [makeFail]
  dsimp only
  rw [hp, if_pos (decide_eq_true hq)]

theorem makeFail_marked (hn : t.cfg.notify.addr ≠ 0xFFFE) (ho : t.span.overflow = []) (hq : 8 ≤ t.span.outQ.length)
    (hm : t.ev.marks = []) : makeFail t = { t with
      fail.due := none, ev.marks := [{ op := 0xF0, port := 0, stamp := t.fail.stamp, cause := 0, at_ := t.now }] } := by
  have hp := eventPlace_span (t := { t with fail.due := none }) hn ho
  rw [makeFail]
  dsimp only
  rw [hp, if_neg (by rw [decide_eq_true_eq]; exact Nat.not_lt.mpr hq)]
  exact markEvent_first (t := { t with fail.due := none }) hm _

theorem enterFail_poll (hp : t.cfg.notify.push = false) : enterFail t = t := by
  rw [enterFail, hp, Bool.false_and, if_neg Bool.false_ne_true]

theorem enterFail_push (hp : t.cfg.notify.push = true) (h0 : t.cfg.notify.addr ≠ 0) (ha : t.cfg.addr ≠ 0) :
    enterFail t = enterEvent 0xF0 t.fail.stamp (failFields t) t := by
  have hu : unaddressed t = false := beq_eq_false_iff_ne.2 ha
  rw [enterFail, hp, reportsGo, bne_iff_ne.2 h0, hu, Bool.not_false, Bool.or_true, Bool.and_self, Bool.and_self, if_pos rfl]

/-! ## Held events (R174, R356) -/

theorem heldEvent_placed {e : PEvent} (h0 : t.cfg.notify.addr ≠ 0) (hp : eventPlace t = true) :
    heldEvent e t = enterEvent e.op e.stamp e.fields t := by
  rw [heldEvent, if_neg h0, if_pos hp]

theorem heldEvent_marked {e : PEvent} (h0 : t.cfg.notify.addr ≠ 0) (hp : eventPlace t = false) :
    heldEvent e t = markEvent (markOf e) t := by
  rw [heldEvent, if_neg h0, if_neg (by rw [hp]; exact Bool.false_ne_true)]

end

/-- Settles O59. -/
theorem reportsEnterTheQueue : Obligations.ReportsEnterTheQueue := by
  unfold Obligations.ReportsEnterTheQueue
  intro dt s
  generalize h : elapse dt s = t
  intro t' next frame
  subst t'
  intro hm hr
  have hseq : nextSeq t.span.seq = next := nextSeq_eq _
  refine ⟨fun due hd hdue hmask hn ho hq hout hi => ?_, fun e rest hh hd => ⟨fun h0 => ?_, fun hn hout hb => ?_, fun hlo hhi ha ho => ?_⟩⟩
  · have he : exec (.evtFail dt) s = .next (makeFail t) := by
      rw [exec_evtFail h, if_pos (failDue_true hm hr hd hdue hmask hq hout hi)]
    refine ⟨fun hp hl => ?_, fun hl hmarks => ?_, fun hp ha h0 hl => ?_⟩
    · rw [he, makeFail_placed hn ho hl, enterFail_poll (by exact hp)]
    · rw [he, makeFail_marked hn ho hl hmarks]
    · intro f
      have hput : makeFail t = putOut f { t with fail.due := none, span.seq := next } := by
        rw [makeFail_placed hn ho hl, enterFail_push (t := { t with fail.due := none }) hp h0 ha,
          enterEvent_span (t := { t with fail.due := none }) h0 hn ha, hseq]
        rfl
      refine ⟨fun hidle => ?_, fun hidle hs hlates hroll hempty => ?_⟩
      · rw [he, hput, putOut_waits (by exact hidle)]
      · rw [he, hput, putOut_starts (t := { t with fail.due := none, span.seq := next }) hidle hs hlates hroll hempty ha rfl rfl]
  · rw [exec_eventHoldoffExpiry h hm hr hh hd, heldEvent, if_pos (by exact h0)]
  · rw [exec_eventHoldoffExpiry h hm hr hh hd,
      heldEvent_placed (t := { t with ev.held := rest }) (by rw [hn]; decide) (eventPlace_local hn hout hb),
      enterEvent_local (t := { t with ev.held := rest }) hn, hseq]
    rfl
  · have h0 : t.cfg.notify.addr ≠ 0 := fun k => by
      rw [k] at hlo
      exact absurd hlo (by decide)
    have hn : t.cfg.notify.addr ≠ 0xFFFE := fun k => by
      rw [k] at hhi
      exact absurd hhi (by decide)
    have hp := eventPlace_span (t := { t with ev.held := rest }) hn ho
    refine ⟨fun hl hidle => ?_, fun hl hmarks => ?_⟩
    · rw [exec_eventHoldoffExpiry h hm hr hh hd, heldEvent_placed (t := { t with ev.held := rest }) h0 (hp.trans (decide_eq_true hl)),
        enterEvent_span (t := { t with ev.held := rest }) h0 hn ha, putOut_waits (by exact hidle), hseq]
      rfl
    · rw [exec_eventHoldoffExpiry h hm hr hh hd,
        heldEvent_marked (t := { t with ev.held := rest }) h0 (hp.trans (decide_eq_false (Nat.not_lt.mpr hl))),
        markEvent_first (t := { t with ev.held := rest }) hmarks]
      rfl

end Sys2Proof.Machine
end

section
/-!
PROOFS. What ends in time, and the verdicts on an image (07, 12 to 17, R201, R386, R402, R432 to R435, R459, R461).
-/
namespace Sys2Proof.Machine

open Sys2Proof.Claims

-- Proofs in parallel hold one thread each, and a text this long would have more of them than the check has room for.
set_option Elab.async false

section

variable {dt : Nat} {s t : State}

/-! ## The stage, the buffers, the session and the nonces -/

theorem exec_stageTimeout (h : elapse dt s = t) (ho : t.st.owner.isSome = true) (hc : t.st.commit = none) (hl : t.st.loads = []) :
    exec (.stageTimeout dt) s = .next (if t.st.lastAt + 60000000000000 ≤ t.now then { t with st.owner := none } else t) := by
  have ha : abortStage t = { t with st.owner := none } := by
    rw [abortStage, disarm_none hc, dropLoad_none hl]
  have hd : (t.st.owner.isSome && t.st.commit.isNone && decide (t.st.lastAt + 60 * Config.secPs ≤ t.now)) = true ↔
      t.st.lastAt + 60000000000000 ≤ t.now := by
    rw [ho, hc, Option.isNone_none, Bool.true_and, Bool.true_and, decide_eq_true_eq]
    rfl
  rw [exec, execStageTimeout, h]
  dsimp only
  rw [ha]
  exact congrArg Host.Outcome.next (if_congr hd rfl rfl)

theorem exec_sceneBufferTimeout (h : elapse dt s = t) {x : SceneBuf} (hx : t.nv.sceneBuf = some x) : exec (.sceneBufferTimeout dt) s =
    .next (if x.lastAt + 10000000000000 ≤ t.now then { t with nv.sceneBuf := none } else t) := by
  rw [exec, execSceneBufferTimeout, h]
  simp only [hx]
  rfl

theorem exec_curveBufferTimeout (h : elapse dt s = t) {x : CurveBuf} (hx : t.nv.curveBuf = some x) : exec (.curveBufferTimeout dt) s =
    .next (if x.lastAt + 10000000000000 ≤ t.now then { t with nv.curveBuf := none } else t) := by
  rw [exec, execCurveBufferTimeout, h]
  simp only [hx]
  rfl

theorem exec_fwSessionTimeout (h : elapse dt s = t) {x : FwSession} (hx : t.fw.session = some x) : exec (.fwSessionTimeout dt) s =
    .next (if x.lastAt + 60000000000000 ≤ t.now then { t with fw.session := none } else t) := by
  rw [exec, execFwSessionTimeout, h]
  simp only [hx]
  rfl

theorem exec_nonceExpiry (h : elapse dt s = t) : exec (.nonceExpiry dt) s =
    .next { t with sec.nonces := t.sec.nonces.filter fun x => decide (t.now < x.at_ + 60000000000000) } := by
  subst h
  rfl

/-! ## Verification and confirmation (R433, R459, R461) -/

theorem exec_fwVerificationEnd (h : elapse dt s = t) (hm : t.pw.mode = .run) {v : Verify} (hv : t.fw.verify = some v) :
    exec (.fwVerificationEnd dt) s = .next (endVerify v t) := by
  rw [exec, execFwVerificationEnd, h]
  simp only [hv]
  rw [inRun_run hm, if_pos rfl]
  rfl

/-- A slot VERIFIED is not REJECTED, and the other way round. -/
theorem applySec_verified {slot : Nat} (h : slot = 1 ∨ slot = 2) (crc : W32) (x : Security) :
    (applySec (.verified slot crc) x).verified.getLsbD (slot - 1) = true
      ∧ (applySec (.verified slot crc) x).reject.getLsbD (slot - 1) = false := by
  rcases h with rfl | rfl <;> simp [applySec]

theorem applySec_rejected {slot : Nat} (h : slot = 1 ∨ slot = 2) (x : Security) :
    (applySec (.rejected slot) x).verified.getLsbD (slot - 1) = false
      ∧ (applySec (.rejected slot) x).reject.getLsbD (slot - 1) = true := by
  rcases h with rfl | rfl <;> simp [applySec]

theorem endVerify_verdict {v : Verify} (hv : v.slot = 1 ∨ v.slot = 2) (t : State) : ∃ u, endVerify v t = u ∧ u.fw.verify = none
    ∧ (let k := verdict (nvBytesAt t (slotBase v.slot) v.size) v.size t.node.member
       u.sec.verified.getLsbD (v.slot - 1) = decide (k = 0) ∧ u.sec.reject.getLsbD (v.slot - 1) = decide (k ≠ 0))
    ∧ u.nv.mem = t.nv.mem := by
  have hi : verifyImage v t = nvBytesAt t (slotBase v.slot) v.size := rfl
  unfold endVerify
  rw [hi]
  dsimp only
  generalize nvBytesAt t (slotBase v.slot) v.size = image
  generalize verdict image v.size t.node.member = k
  obtain ⟨w, hw⟩ : ∃ w : State, w = { t with fw.verify := none, fw.partials := t.fw.partials &&& ~~~ BitVec.ofNat 2 v.slot } := ⟨_, rfl⟩
  rw [← hw]
  obtain ⟨ch, hch⟩ : ∃ ch : SecChange, ch = if k = 0 then .verified v.slot (BitVec.ofNat 32 (crc32 image)) else .rejected v.slot :=
    ⟨_, rfl⟩
  rw [← hch]
  obtain ⟨_, _, _, _, _, ha⟩ := resolve_answered v.tok stOk [BitVec.ofNat 8 k] (commitSec ch w)
  refine ⟨_, ha, ?_, ?_, ?_⟩
  · show (commitSec ch w).fw.verify = none
    rw [commitSec_fw, hw]
  · show (commitSec ch w).sec.verified.getLsbD (v.slot - 1) = _ ∧ (commitSec ch w).sec.reject.getLsbD (v.slot - 1) = _
    rw [commitSec_sec, hch]
    by_cases hk : k = 0
    · rw [if_pos hk, decide_eq_true hk, decide_eq_false (not_not.mpr hk)]
      exact applySec_verified hv _ _
    · rw [if_neg hk, decide_eq_false hk, decide_eq_true hk]
      exact applySec_rejected hv _
  · show (commitSec ch w).nv.mem = t.nv.mem
    rw [commitSec_mem, hw]

theorem confirmDue_true (hm : t.pw.mode = .run) (ht : t.fw.trial = true) (hk : t.fw.sawKey = true) (hp : t.fw.sawPort = true)
    (hj : t.nv.jobs = []) : confirmDue t = true := by
  rw [confirmDue, inRun_run hm, ht, hk, hp, hj]
  rfl

theorem exec_fwConfirmation (h : elapse dt s = t) (hd : confirmDue t = true) : exec (.fwConfirmation dt) s =
    .next (addJob (secJob (.confirmed t.fw.run) [] none t) t) := by
  rw [exec, execFwConfirmation, h, hd, if_pos rfl]
  rfl

end

/-- Settles O60. -/
theorem timeoutsAndVerdicts : Obligations.TimeoutsAndVerdicts := by
  unfold Obligations.TimeoutsAndVerdicts
  intro dt s
  generalize h : elapse dt s = t
  intro t'
  subst t'
  refine ⟨fun ho hc hl => exec_stageTimeout h ho hc hl, fun x hx => exec_sceneBufferTimeout h hx, fun x hx => exec_curveBufferTimeout h hx,
    fun x hx => exec_fwSessionTimeout h hx, ⟨_, exec_nonceExpiry h, fun x => ?_⟩, fun v hv hslot hm => ?_, fun hm ht hk hp hj => ?_⟩
  · rw [List.mem_filter, decide_eq_true_eq]
  · obtain ⟨u, hu, hrest⟩ := endVerify_verdict hslot t
    exact ⟨u, by rw [exec_fwVerificationEnd h hm hv, hu], hrest⟩
  · exact ⟨_, rfl, rfl, exec_fwConfirmation h (confirmDue_true hm ht hk hp hj)⟩

end Sys2Proof.Machine
end
